-- ==== Sys2Proof/Word.lean ====
section
/-!
DEFINITION. The word types of the device and their plainest arithmetic: bytes, 32-bit counters, 64-bit registers,
and the two signed comparisons that the manual states on wrapped counters (R141, R305, R350).
-/
namespace Sys2Proof

/-- One byte. -/
abbrev Byte := BitVec 8

/-- A 32-bit counter or field. -/
abbrev Word := BitVec 32

/-- A 64-bit scalar register (R163). -/
abbrev DWord := BitVec 64

/-- A signed comparison of two wrapped 32-bit counters: `a - b` modulo 2^32, read as signed, is 0 or more
(R141 WAIT_GE_X, R305, R350). -/
def Word.reached (a b : Word) : Bool := decide (0 ≤ (a - b).toInt)

/-- Round a quotient up: the bracket ⌈a ÷ b⌉ of the latency rules. -/
def ceilDiv (a b : Nat) : Nat := (a + b - 1) / b

end Sys2Proof
end

