-- ==== Sys2Proof/Syntax.lean ====
section
/-!
DEFINITION. The commands of the block: `Instr` has one constructor per row of spec/opcode_table.json, in the table's
order, with the operands the rules give the row. Slot commands carry the fields of their slot (R134 to R164) and the
header of their bundle; dictionary commands carry the master and the value; events carry what the environment decides
(log 10).
-/
namespace Sys2Proof

/-- A requester (R19, R459): the PCI Express host, a mailbox of the mirror window, a field network source, a cascade
peer (the DICT packet's ARG), a management core, or the bundle stream. -/
inductive Master where
  | host
  | mailbox (n : BitVec 3)
  | t1 (source : BitVec 64)
  | peer (arg : BitVec 16)
  | core (k : BitVec 2)
  | bundle
deriving DecidableEq, Repr

/-- The bundle that a slot belongs to: its index, the slot's number in R173, and REPEAT, TAGV and TAG of R131. -/
structure SlotCtx where
  bundle : BitVec 16
  slot   : BitVec 4
  rep    : BitVec 10
  tagv   : Bool
  tag    : BitVec 4
deriving DecidableEq, Repr

/-- Why a rank halts (R421): a write of SEQ_CONTROL, a halt under R175, or LOCKSTEP with its DETAIL (R180, R420, R426). -/
inductive HaltCause where
  | control
  | fault
  | lockstep (detail : BitVec 16)
deriving DecidableEq, Repr

/-- A link between two other devices of the chain (R405), each end named by bits [31:0] of a part identity and a port, with
its LINK_DELAY (R404). -/
structure FarLink where
  serialA : Word
  portA   : BitVec 2
  serialB : Word
  portB   : BitVec 2
  delay   : BitVec 8
deriving DecidableEq, Repr

/-- A link of the system as this device sees it (R405, R413): one of its own ports, or a link between other devices, by
the roles whose routes from this device cross it. -/
inductive LinkRef where
  | own (port : Fin 4)
  | far (link : FarLink)
deriving DecidableEq, Repr

/-- Where a stale packet or training record was received: at a port of this device, or at a port that another device reports
to the chain head (R428). -/
inductive PortAt where
  | own (port : Fin 4)
  | far (serial : Word) (port : BitVec 2)
deriving DecidableEq, Repr

/-- What the SECDED check finds in a fetched bundle (R170). -/
inductive Ecc where
  | clean | single | double
deriving DecidableEq, Repr

/-- One access of the device address range or of a window: a read of `n` bytes or a write of bytes. -/
inductive Access where
  | read (n : Nat)
  | write (data : List Byte)
deriving DecidableEq, Repr

/-- The three unit power entries of R251. -/
inductive UnitKind where
  | slice | vectorSection | rotation
deriving DecidableEq, Repr

/-- The two tiers behind a bandwidth controller (R301). -/
inductive TierCtl where
  | bulk | deep
deriving DecidableEq, Repr

/-- How a tile copy ends (R344, R348): whole, its source unreadable, or its destination unwritable. -/
inductive CopyEnd where
  | done | sourceLost | destinationFailed
deriving DecidableEq, Repr

/-- A training record of R403. -/
structure TrainRec where
  id     : BitVec 5
  rank   : BitVec 3
  head   : Bool
  stby   : Bool
  port   : BitVec 2
  role   : BitVec 5
  roleV  : Bool
  epoch  : BitVec 16
  serial : BitVec 64
deriving DecidableEq, Repr

/-- What one training step of R402 gives: it passes, it fails, or (T5) the peer's record arrives and LINK_DELAY is
measured; over a link that is up, a record that the peer forwards arrives (R400), with the device and port that it reached
first and the LINK_DELAY there (log 41). -/
inductive TrainStep where
  | pass
  | fail
  | record (r : TrainRec) (linkDelay : BitVec 8)
  | forwarded (r : TrainRec) (by_ : Word) (byPort : BitVec 2) (linkDelay : BitVec 8)
deriving DecidableEq, Repr

/-- A packet header of R408. -/
structure Pkt where
  ptype    : BitVec 4
  dst      : BitVec 5
  src      : BitVec 5
  srcEpoch : BitVec 16
  units    : BitVec 5
  hops     : BitVec 4
  addr     : BitVec 48
  rtag     : BitVec 16
  arg      : BitVec 16
deriving DecidableEq, Repr

/-- An SDP segment of R441: its header fields and its payload. -/
structure Segment where
  version  : BitVec 4
  sync     : Bool
  service  : BitVec 8
  seq      : BitVec 16
  segIndex : BitVec 16
  segCount : BitVec 16
  target   : BitVec 5
  targetV  : Bool
  payload  : List Byte
deriving DecidableEq, Repr

/-- How an encapsulation is addressed (R437, R439): raw, with its EtherType; or UDP, with the IPv4 address and port of the master
and those of the device. -/
inductive EncapNet where
  | raw (etherType : BitVec 16)
  | udp (ip : BitVec 32) (port : BitVec 16) (myIp : BitVec 32) (myPort : BitVec 16)
deriving DecidableEq, Repr

/-- An encapsulation (R437, R440): the master's MAC address, the 802.1Q tag, and how it is addressed. -/
structure Encap where
  mac  : BitVec 48
  vlan : Option (BitVec 16)
  net  : EncapNet
deriving DecidableEq, Repr

/-- What a change of the MSI-X masks names (R481): a vector that is unmasked, or the function mask or the Enable of the MSI-X
capability as it is written. -/
inductive MsixMask where
  | vector (v : BitVec 6)
  | function (on : Bool)
  | enable (on : Bool)
deriving DecidableEq, Repr

/-- A whole dictionary request (R442, R443, R477): entry, expected type, and the bytes wanted or written. -/
structure DictReq where
  index : BitVec 16
  sub   : BitVec 8
  type  : BitVec 8
  want  : Nat
  data  : List Byte
deriving DecidableEq, Repr

/-- Which held operation a hold-back timer belongs to (R574, R575). -/
inductive HeldOp where
  | phaseOp (id : Nat)
  | descriptor
  | scalar
  | remote (tag : BitVec 16)
  | matrix (id : Nat)
deriving DecidableEq, Repr

/-- The strap balls of R397, R435, R511 and R530. -/
structure Straps where
  id       : BitVec 5
  rank     : BitVec 3
  head     : Bool
  stby     : Bool
  t1ms     : Bool
  clkOutEn : Bool
  recovery : Bool
deriving DecidableEq, Repr

/-- How the primary or alternate method of a boot step ends (R529), with its FAIL_DETAIL code. -/
inductive StepEnd where
  | ok
  | failed (detail : BitVec 32)
deriving DecidableEq, Repr

/-- Why the PCI Express link is not usable (R493). -/
inductive PcieLoss where
  | linkDown | busMasterOff | d3hot
deriving DecidableEq, Repr

/-- Which function a function-level reset or a BAR access names (R469). -/
inductive PcieFn where
  | pf0 | pf1
deriving DecidableEq, Repr

/-- Which space of a function the host accesses: a BAR, or the configuration space (R468, R471). -/
inductive PcieSpace where
  | bar (n : BitVec 3)
  | config
deriving DecidableEq, Repr

/-- A part of the media that a page or block event names: its partition (R376). -/
inductive Partition where
  | firmware | ledger | media | margin | library
deriving DecidableEq, Repr

/-- The commands, one per row of the opcode table. -/
inductive Instr where
  -- the sequencer
  | bundleIssue (ecc : Ecc)
  | stalledBundleIssue (ecc : Ecc)
  | jump (c : SlotCtx) (arg : BitVec 16)
  | bnz (c : SlotCtx) (reg : BitVec 5) (arg : BitVec 16)
  | bz (c : SlotCtx) (reg : BitVec 5) (arg : BitVec 16)
  | loop (c : SlotCtx) (reg : BitVec 5) (arg : BitVec 16)
  | call (c : SlotCtx) (arg : BitVec 16)
  | ret (c : SlotCtx)
  | idle (c : SlotCtx) (mask : BitVec 16)
  | idleResume
  | trap (c : SlotCtx) (code : BitVec 16)
  | halt (c : SlotCtx)
  | signal (c : SlotCtx) (obj : BitVec 14) (arg : BitVec 14)
  | set (c : SlotCtx) (obj : BitVec 14) (arg : BitVec 14)
  | setX (c : SlotCtx) (obj : BitVec 14) (reg : BitVec 5)
  | waitGe (c : SlotCtx) (obj : BitVec 14) (arg : BitVec 14)
  | waitGeX (c : SlotCtx) (obj : BitVec 14) (reg : BitVec 5)
  | signalPeer (c : SlotCtx) (obj : BitVec 14) (dev : BitVec 5)
  | syncValueWrite (m : Master) (obj : BitVec 14) (value : Word)
  | syncAddWrite (m : Master) (obj : BitVec 14) (value : Word)
  -- the arrays
  | launch (c : SlotCtx) (sync : BitVec 14) (desc : BitVec 20) (base : BitVec 2)
  | phaseAdmission
  | phaseEnd (op : Nat) (mute : List Nat)
  | missingCodeTest (op : Nat)
  | repeatPhaseEnd (op : Nat) (mute : List Nat)
  | lineVisible (op : Nat) (line : Nat)
  | resultDiscarded (array : Nat) (epoch : BitVec 16) (phaseTag : BitVec 8)
  | shadeRecheck (array : Nat) (programs : Bool) (phases codes : List (List Int)) (eraseVerify : Bool)
  | addressRebuild (addr : BitVec 14)
  -- matrix engine, vector fabric, expanders, unit power
  | matmul (c : SlotCtx) (fmt : Bool) (slices : BitVec 8) (desc : BitVec 20)
  | matmulAcc (c : SlotCtx) (fmt : Bool) (slices : BitVec 8) (desc : BitVec 20)
  | matmulX (c : SlotCtx) (fmt : Bool) (slices : BitVec 8) (desc : BitVec 20)
  | matmulXAcc (c : SlotCtx) (fmt : Bool) (slices : BitVec 8) (desc : BitVec 20)
  | accStore (c : SlotCtx) (fmt : Bool) (slices : BitVec 8) (desc : BitVec 20)
  | accLoad (c : SlotCtx) (fmt : Bool) (slices : BitVec 8) (desc : BitVec 20)
  | outerAcc (c : SlotCtx) (fmt : Bool) (slices : BitVec 8) (desc : BitVec 20)
  | matrixTaskStart (slot : Fin 2) (scaleWait bankWait : Nat)
  | matrixTaskEnd (task : Nat)
  | run (c : SlotCtx) (units : BitVec 8) (desc : BitVec 20)
  | config (c : SlotCtx) (units : BitVec 8) (desc : BitVec 20)
  | rotate (c : SlotCtx) (units : BitVec 8) (desc : BitVec 20)
  | vectorTaskStart (slot : Fin 2) (scaleWait : Nat)
  | vectorTaskEnd (task : Nat)
  | expanderHeaderRead (slot : Fin 2)
  | fetchBufferFill (slot : Fin 2) (bytes lateCycles : Nat)
  | tableLoad (m : Master) (addr : DWord)
  | tableFree (m : Master) (slot : BitVec 8)
  | unitPowerClear (m : Master) (kind : UnitKind) (value : BitVec 8)
  | unitPowerSet (m : Master) (kind : UnitKind) (value : BitVec 8)
  | domainOff (domain : Nat)
  | domainWakeEnd (domain : Nat)
  -- streams
  | jobTake (c : SlotCtx) (stream : BitVec 4) (arg : BitVec 14)
  | jobDone (c : SlotCtx) (stream : BitVec 4) (reg : BitVec 5)
  | ringPush (c : SlotCtx) (stream : BitVec 4) (reg : BitVec 5)
  | recordPlaced (stream : BitVec 4)
  | jobComplete (stream : BitVec 4)
  | markerClosing (stream : BitVec 4)
  | lateJobSkip (stream : BitVec 4)
  | deadlineMiss (stream : BitVec 4) (jobNum : Word)
  | inboundTailWrite (m : Master) (stream : BitVec 4) (tail : BitVec 16)
  | jobRecordRead (stream : BitVec 4) (index : BitVec 16)
  | streamEnableSet (m : Master) (value : BitVec 16)
  | streamEnableClear (m : Master) (value : BitVec 16)
  | recordDelivery (stream : BitVec 4) (recv : BitVec 2)
  | receiverRejoin (stream : BitVec 4) (recv : BitVec 2)
  | receiverEntryWrite (m : Master) (stream : BitVec 4) (recv : BitVec 2) (value : BitVec 256)
  | hostHeadWrite (m : Master) (stream : BitVec 4) (recv : BitVec 2) (value : BitVec 16)
  | detectWindowExpiry
  | waitLimit
  | requestStarved (tier : TierCtl) (request : Nat)
  | tierGrant (tier : TierCtl)
  -- DMA slot and scalar unit
  | submit (c : SlotCtx) (chan : BitVec 4) (reg : BitVec 5)
  | migrate (c : SlotCtx) (reg : BitVec 5)
  | prefetch (c : SlotCtx) (reg : BitVec 5)
  | addi (c : SlotCtx) (dst src : BitVec 5) (imm : BitVec 9)
  | add (c : SlotCtx) (dst src : BitVec 5)
  | sub (c : SlotCtx) (dst src : BitVec 5)
  | and (c : SlotCtx) (dst src : BitVec 5)
  | or (c : SlotCtx) (dst src : BitVec 5)
  | shli (c : SlotCtx) (dst src : BitVec 5) (imm : BitVec 9)
  | shri (c : SlotCtx) (dst src : BitVec 5) (imm : BitVec 9)
  | movhi (c : SlotCtx) (dst : BitVec 5) (imm : BitVec 9)
  | ld (c : SlotCtx) (dst src : BitVec 5) (imm : BitVec 9)
  | st (c : SlotCtx) (dst src : BitVec 5) (imm : BitVec 9)
  | dictRd (c : SlotCtx) (dst src : BitVec 5)
  | dictWr (c : SlotCtx) (dst src : BitVec 5)
  | cyc (c : SlotCtx) (dst : BitVec 5)
  | syncRd (c : SlotCtx) (dst src : BitVec 5)
  | tagjob (c : SlotCtx) (dst src : BitVec 5)
  | scalarAccessReturn (deepRetry : Bool)
  | seqControlStart (m : Master)
  | seqControlHalt (m : Master)
  | seqControlResume (m : Master)
  -- rank lockstep
  | rankCheck (ecc : Ecc)
  | hold (origin : BitVec 5)
  | ready (origin : BitVec 5) (value : BitVec 24)
  | release (origin : BitVec 5) (value : BitVec 24)
  | branch (origin : BitVec 5) (value : BitVec 24)
  | start (origin : BitVec 5) (value : BitVec 24)
  | pulsePeriodExpiry
  | pulse (origin : BitVec 5) (value : BitVec 24)
  | rankHalt (origin : BitVec 5) (value : BitVec 24) (cause : HaltCause)
  | rankPeerSignal (origin : BitVec 5) (obj : BitVec 14) (issued : BitVec 24)
  -- replanning and mirroring
  | replanPeriodExpiry
  | replanNow (m : Master) (value : BitVec 8)
  | maintenancePhaseEnd (array : Nat) (codes : List Int) (silent : Bool)
  | handover (set : Nat)
  | handoverWaitExpiry (set : Nat)
  | oldHomeErase (array : Nat) (verify : Bool)
  | marginSetRewrite (array : Nat) (group : BitVec 5)
  | bankTempSample (bank : BitVec 6) (quarters : Int)
  | ringSensorSample (bank : BitVec 6) (fallPpm : Nat)
  | backingIntervalExpiry
  | arrayStatusSample
  -- memory and migration
  | masterAccess (m : Master) (addr : BitVec 48) (a : Access)
  | moveSubmit (m : Master) (addr : DWord)
  | moveAccept
  | create (rec : Nat)
  | destroy (rec : Nat)
  | promote (rec : Nat)
  | evict (rec : Nat)
  | setHints (rec : Nat)
  | tileCopyStart
  | tileCopyEnd (obj : BitVec 14) (tile : BitVec 13) (how : CopyEnd)
  | oldLocationRelease (tier : BitVec 2) (location : Nat)
  | moveResultWrite (rec : Nat)
  | holdEnd (obj : BitVec 14)
  | holdLimitExpiry (obj : BitVec 14)
  -- media
  | arrayWriteInstall (m : Master) (addr : DWord)
  | arrayWriteRewrite (m : Master) (addr : DWord)
  | pulseVerifyLoop (array : Nat) (rowInWindow : Bool)
  | arrayEraseEnd (array : Nat) (verify : Bool)
  | arrayWriteResult (write : Nat)
  | storePageProgramEnd (block page : Nat) (statusOk : Bool) (last : Bool)
  | storePageReadEnd (part : Partition) (block : Nat) (item : Nat) (correctedBits : Nat) (lost : Bool)
  | storeBlockEraseEnd (block : Nat) (verify : Bool)
  | storeEraseSuspend (block : Nat)
  | storeScrub
  | deepWrite (m : Master) (addr : BitVec 48) (data : List Byte)
  | ftlMerge (extent : BitVec 18)
  | wearLevelMove
  | readDisturbRelocate (block : Nat) (weak : Bool) (lostTile : Option Nat)
  | nandStatusFail (block : Nat) (erase : Bool)
  | deepTrim (m : Master) (extent : Word)
  -- cascade
  | cascadePortRetry (port : Fin 4)
  | linkTraining (port : Fin 4) (step : TrainStep)
  | linkUp (link : LinkRef)
  | linkDown (link : LinkRef)
  | routeChangeWaitEnd (role : BitVec 5)
  | dataFlit (port : Fin 4) (flit : BitVec 1024)
  | nak (port : Fin 4) (ack : BitVec 12)
  | replayTimeout (port : Fin 4)
  | retrain (port : Fin 4)
  | cascadeWrite (port : Fin 4) (p : Pkt) (data : List Byte)
  | cascadeRead (port : Fin 4) (p : Pkt)
  | readRsp (port : Fin 4) (p : Pkt) (data : List Byte)
  | writeAck (port : Fin 4) (p : Pkt)
  | remoteTimeout (tag : BitVec 16)
  | cascadeSignal (port : Fin 4) (p : Pkt)
  | ringRec (port : Fin 4) (p : Pkt) (data : List Byte)
  | ringCredit (port : Fin 4) (p : Pkt)
  | ringBind (port : Fin 4) (p : Pkt)
  | dict (port : Fin 4) (p : Pkt) (seg : Segment)
  | dictRsp (port : Fin 4) (p : Pkt) (seg : Segment)
  | probe (port : Fin 4) (p : Pkt)
  | epoch (port : Fin 4) (p : Pkt)
  | recheck (port : Fin 4) (p : Pkt)
  | staleEpochPacket (at_ : PortAt) (p : Pkt)
  | livenessReadPeriod
  | deadTimeExpiry (role : BitVec 5)
  | declareDead (m : Master) (role : BitVec 8)
  | chainHeadLost
  | recheckEnd (pass : Bool) (test : BitVec 16)
  | roleAssign (m : Master) (value : BitVec 16)
  -- field network and dictionary
  | t1LinkUp (peerMaster : Bool) (sqi : BitVec 3)
  | t1LinkDown
  | t1RoleWrite (m : Master) (value : BitVec 8)
  | frameReceive (frame : List Byte)
  | arpRequest (mac : BitVec 48) (senderIp ip : BitVec 32)
  | icmpEcho (mac : BitVec 48) (senderIp ip : BitVec 32) (rest : List Byte)
  | segmentReceive (m : Master) (seg : Segment)
  | read (m : Master) (r : DictReq)
  | write (m : Master) (r : DictReq)
  | cancel (m : Master) (seq : BitVec 16)
  | segTimeout (m : Master)
  | forwardTimeout (m : Master) (role : BitVec 5)
  | windowDataRead (m : Master) (n : Nat)
  | windowDataWrite (m : Master) (data : List Byte)
  | storeSettings (m : Master) (value : BitVec 8)
  | dictionaryWrite (m : Master) (index : BitVec 16) (sub : BitVec 8) (data : List Byte)
  -- PCI Express and DMA
  | perst
  | functionLevelReset (f : PcieFn)
  | pcieLinkNotUsable (why : PcieLoss)
  | barAccess (f : PcieFn) (space : PcieSpace) (offset : BitVec 32) (a : Access)
  | streamTail (stream : BitVec 4) (value : Word)
  | chTail (chan : BitVec 4) (value : Word)
  | cqHead (value : Word)
  | mbGo (mb : BitVec 3) (value : Word)
  | msixUnmask (what : MsixMask)
  | chEnableSet (m : Master) (chan : BitVec 4)
  | chEnableClear (m : Master) (chan : BitVec 4)
  | cqEnable (m : Master) (value : BitVec 8)
  | descriptorRead (chan : BitVec 4)
  | channelTake
  | copy (hostErrorAt deepRetryAt : Option Nat)
  | fill
  | marker
  | descriptorComplete
  | hostCompletionTimeout (bytesDone : Nat)
  -- clocks, power and modes
  | crystalStable
  | crystalTimeout
  | clockFault (bit : Fin 12) (ends : Bool)
  | relockAttempt (pll : Fin 12) (locked : Bool)
  | clkSrcWrite (m : Master) (clk : Fin 4) (value : BitVec 8)
  | clkRampStep (clk : Fin 4)
  | clockFaultClear (m : Master) (value : BitVec 16)
  | clkOutSel (m : Master) (value : BitVec 8)
  | clockEnable (m : Master) (value : BitVec 16)
  | blockGated (block : Fin 11)
  | cascPortPower (m : Master) (value : BitVec 8)
  | modeWrite (m : Master) (value : BitVec 8)
  | umbraEntry (m : Master)
  | umbraEntryEnd
  | wakeN (lowNs : Nat)
  | t1LinkEnergy
  | umbraWake
  | logicTempSample (sensor : Fin 16) (quarters : Int)
  | supplyWarning (rail : Fin 8)
  | supplyWarningClear (rail : Fin 8)
  | supplyReset (rail : Fin 8)
  | supplyLatchedClear (m : Master) (value : BitVec 8)
  -- start-up, firmware and attestation
  | powerOn (straps : Straps) (outOfOrder : Option (Fin 8))
  | resetN (lowNs : Nat) (straps : Straps)
  | bootStepEnd (how : StepEnd) (found : Nat)
  | selfRestart
  | ddrPeriodicTraining
  | altClear (m : Master) (value : BitVec 16)
  | ledgerIndex (m : Master) (value : Word)
  | restart (m : Master) (value : BitVec 8)
  | fwUpdate (m : Master) (addr : DWord)
  | fwVerifyEnd
  | coreHandover
  | coreHandoverFail (revertFails : Bool)
  | fwConfirm (m : Master) (value : BitVec 8)
  | fwConfirmTimeExpiry
  | fwCommitEnd (ok : Bool)
  | recovery
  | attRequest (m : Master) (value : BitVec 8)
  | attReportDone
  -- errors
  | fatalEvent (cause : BitVec 8) (detail : BitVec 8)
  | counterClear (m : Master) (index : BitVec 16) (sub : BitVec 8) (value : BitVec 16)
  | countersClear (m : Master) (value : BitVec 8)
  | holdBackExpiry (op : HeldOp)
  | holdBackTimeoutWrite (m : Master) (value : Word)
  | holdLongestClear (m : Master) (value : Word)
  | pcieLinkUsable
  | ringBindTimeout (stream : BitVec 4)
  | idleFlit (port : Fin 4) (flit : BitVec 1024)
  | umbraWakeEnd
  | modeChangeApplied
deriving DecidableEq, Repr

end Sys2Proof
end

