-- ==== Sys2Proof/Config.lean ====
section
/-!
DEFINITION. What an implementation fixes and the manual leaves open. Each constant here is opaque: it has no body, so
nothing can be proved of its value. They are applied to `State.freeIx`, a counter that the commands which consume a
free value advance, or to the operands the value depends on.
-/
namespace Sys2Proof.Config

/-- A conversion code or deviation choice of the analog arrays (R87, R88): results are neither exact nor
reproducible. The reducer uses it only within the bound of R89 (log 3). -/
opaque freeCode : Nat → Int

/-- A CLASS 0 image converts its input, by the requantise function of R208 or another conversion of formats. The manual gives
no encoding of lane programs (R237, R239), so which images do is open (log 22). -/
opaque converts : List Byte → Bool

/-- The FP32 function of one element that any other CLASS 0 image, or a CLASS 2 image, defines (log 22): image, value. -/
opaque elemFn : List Byte → BitVec 32 → BitVec 32

/-- The FP32 function of one row that a CLASS 1 image defines (log 22): image, the values of the row, the bytes of the gain
vector, index in the row. -/
opaque rowFn : List Byte → List (BitVec 32) → List Byte → Nat → BitVec 32

/-- The exponent of a line value's column when ROW_LEN is 0 and no column is defined (R240): image, element. -/
opaque columnExp : List Byte → Nat → BitVec 8

/-- The exponents Ea and Eo of R209 for a CLASS 1 image, which reads neither from its descriptor (R240, log 22): image, then 0
for Ea and 1 for Eo. -/
opaque imageExp : List Byte → Nat → BitVec 8

/-- What a run leaves in a lane register (R237): the run, the lane, the register. -/
opaque laneReg : Nat → Nat → Nat → BitVec 32

/-- A number that an implementation settles: the lantern frequency within its range (R500), what a link trains to (R468),
which of the bits of the last 16 cycles a fetch has seen (R169). -/
opaque freeNat : Nat → Nat

/-- The slope fitted to the last measurements of a group (R108): the method of the fit is not stated. -/
opaque tempcoFit : Nat → Int

/-- Whether a bundle word written within 16 cycles of its issue is seen (R169), and the outcome of a RESET_N pulse
between 0.9 us and 1.1 us (R591): the manual allows both. -/
opaque freeBool : Nat → Bool

/-- The identification and the time to live of the IPv4 packets that the device sends (R439 states neither). -/
opaque ipIdent : BitVec 16
opaque ipTtl : BitVec 8

/-- A byte of the configuration space of a PCI Express function that the manual does not name (R468): function, offset. -/
opaque pcieCfg : Nat → Nat → Byte

/-- The boundary-scan port (R582): the length of its instruction register, what its codes other than all ones select (modulo 4: BYPASS,
IDCODE, SAMPLE, EXTEST), and its identification code. -/
opaque irLength : Nat
opaque tapCode : List Bool → Nat
opaque idcode : BitVec 32

/-- A byte of a destination beyond those that a failed descriptor reports (R571). -/
opaque freeByte : Nat → Byte

/-- The SHA-256 digest of the vendor's modulus that the boot ROM holds (R541), its first byte in [7:0]. -/
opaque vendorKey : BitVec 256

/-- The identity certificate of R551, at most 4,096 bytes. -/
opaque certificate : List Byte

/-- The 384-byte signature of a report under the identity key (R553): RSASSA-PSS, a randomised standard function of
the key and the message. -/
opaque signature : Nat → List Byte → Nat → Byte

/-- The sign of a NaN that an invalid operation gives, or of two NaN operands of different signs: R189 and R190 do not
state it. Applied to the operands, since results are the same for the same inputs (R223). -/
opaque nanSign : BitVec 32 → BitVec 32 → Bool

end Sys2Proof.Config
end

