-- ==== Sys2Proof/Machine/Table.lean ====
section
/-!
DEFINITION. Finite tables with a default: the one representation of memory, sync objects, settings, counters and of
every sparse array of registers. A table is a list of key and value pairs with strictly rising keys and no entry equal
to the default of its key, so equal tables are equal lists.
-/
namespace Sys2Proof.Machine

/-- A sparse table. -/
abbrev Table (α : Type) := List (Nat × α)

/-- The value of key `k`, or the default `d k` when the table lists none. -/
def tget {α : Type} (d : Nat → α) : Table α → Nat → α
  | [], k => d k
  | (j, v) :: t, k => if j = k then v else tget d t k

/-- Remove key `k`. -/
def tdel {α : Type} (t : Table α) (k : Nat) : Table α :=
  t.filter (fun p => p.1 != k)

/-- Insert a pair before the first larger key. -/
def tins {α : Type} (k : Nat) (v : α) : Table α → Table α
  | [] => [(k, v)]
  | (j, w) :: t => if k < j then (k, v) :: (j, w) :: t else (j, w) :: tins k v t

/-- Write `v` at key `k`, keeping the canonical form: writing the default removes the entry. -/
def tset {α : Type} [DecidableEq α] (d : Nat → α) (t : Table α) (k : Nat) (v : α) : Table α :=
  if v = d k then tdel t k else tins k v (tdel t k)

/-- Apply a function to the value of key `k`. -/
def tmod {α : Type} [DecidableEq α] (d : Nat → α) (t : Table α) (k : Nat) (f : α → α) : Table α :=
  tset d t k (f (tget d t k))

/-- Keys strictly rise from `lo`. -/
def tsorted {α : Type} : Nat → Table α → Bool
  | _, [] => true
  | lo, (k, _) :: t => decide (lo ≤ k) && tsorted (k + 1) t

/-- The canonical form of a table with default `d`. -/
def twf {α : Type} [DecidableEq α] (d : Nat → α) (t : Table α) : Bool :=
  tsorted 0 t && t.all (fun p => decide (p.2 ≠ d p.1))

/-- Memory: bytes by address. -/
abbrev Memory := List Host.Cell

/-- What a byte that nothing has written reads as: 0x00 (log 4). -/
def emptyByte : Nat → Byte := fun _ => 0

/-- The canonical form of a memory. -/
def Memory.wf (m : Memory) : Bool := twf emptyByte m

/-- One byte of a memory. -/
def Memory.byte (m : Memory) (a : Nat) : Byte := tget emptyByte m a

/-- Write one byte. -/
def Memory.put (m : Memory) (a : Nat) (b : Byte) : Memory := tset emptyByte m a b

/-- Write consecutive bytes from an address. -/
def Memory.puts (m : Memory) (a : Nat) : List Byte → Memory
  | [] => m
  | b :: bs => Memory.puts (Memory.put m a b) (a + 1) bs

/-- Read `n` consecutive bytes from an address. -/
def Memory.gets (m : Memory) (a : Nat) : Nat → List Byte
  | 0 => []
  | n + 1 => Memory.byte m a :: Memory.gets m (a + 1) n

/-- Clear every byte in a range (R354): remove its entries. -/
def Memory.clear (m : Memory) (lo hi : Nat) : Memory :=
  m.filter (fun p => decide (p.1 < lo ∨ hi ≤ p.1))

/-- The little-endian number of a list of bytes (R4). -/
def leNat : List Byte → Nat
  | [] => 0
  | b :: bs => b.toNat + 256 * leNat bs

/-- The `n` little-endian bytes of a number (R4). -/
def leBytes (n : Nat) (v : Nat) : List Byte :=
  match n with
  | 0 => []
  | k + 1 => BitVec.ofNat 8 v :: leBytes k (v / 256)

/-- Bits [lo + w - 1 : lo] of a number, as the layouts of the manual name them. -/
def bits (v lo w : Nat) : Nat := (v / 2 ^ lo) % 2 ^ w

/-- One bit of a number. -/
def bit (v i : Nat) : Bool := bits v i 1 == 1

/-- A Boolean as a bit. -/
def b2n (b : Bool) : Nat := if b then 1 else 0

/-- Replace element `i` of a list. -/
def setAt {α : Type} : List α → Nat → α → List α
  | [], _, _ => []
  | _ :: xs, 0, y => y :: xs
  | x :: xs, n + 1, y => x :: setAt xs n y

/-- Exclusive-or the polynomial into a CRC register that has just shifted out a one. -/
def crc8Bit (c : BitVec 8) : BitVec 8 := if c.msb then (c <<< 1) ^^^ 0x07#8 else c <<< 1

/-- CRC-8 of R98: polynomial 0x07, initial value 0, most significant bit first. -/
def crc8 (bs : List Byte) : BitVec 8 :=
  bs.foldl (fun c b => (List.range 8).foldl (fun x _ => crc8Bit x) (c ^^^ b)) 0#8

/-- One step of the reflected CRC-32 of IEEE 802.3. -/
def crc32Bit (c : BitVec 32) : BitVec 32 :=
  if c.getLsbD 0 then (c >>> 1) ^^^ 0xEDB88320#32 else c >>> 1

/-- CRC-32 of IEEE 802.3 (R239, R252, R260, R407). -/
def crc32 (bs : List Byte) : BitVec 32 :=
  ~~~ (bs.foldl (fun c b => (List.range 8).foldl (fun x _ => crc32Bit x) (c ^^^ b.zeroExtend 32)) 0xFFFFFFFF#32)

end Sys2Proof.Machine
end

