-- ==== Sys2Proof/Machine/Entries.lean ====
section
/-!
DEFINITION. The object dictionary as a table (R453, R454, R465): one row per entry or run of like entries of the entry
tables of the chapters (R86, R124, R182, R251, R276, R319, R356, R396, R433, R467, R497, R528, R557, R578). A setting
that a chapter lets masters read and write is kept in `State.ent` under the key index * 256 + subindex, with the default
of its row; every other entry is computed from its own field of State.
-/
namespace Sys2Proof.Machine

/-- The access of an entry. -/
inductive Acc where
  | r | rw | w
deriving DecidableEq, Repr

/-- A row: `ni` indexes from `idx`, each with `ns` subindexes from `sub`; type code of R454; access; whether Stored
(R456); default. -/
structure Row where
  idx : Nat
  ni  : Nat
  sub : Nat
  ns  : Nat
  typ : Nat
  acc : Acc
  sto : Bool
  dfl : Nat
deriving DecidableEq, Repr

/-- A single entry without the Stored mark. -/
def row1 (idx sub typ : Nat) (acc : Acc) (dfl : Nat := 0) : Row := ⟨idx, 1, sub, 1, typ, acc, false, dfl⟩

/-- A single Stored entry. -/
def rowS (idx sub typ dfl : Nat) : Row := ⟨idx, 1, sub, 1, typ, .rw, true, dfl⟩

/-- A run of subindexes. -/
def rowN (idx sub ns typ : Nat) (acc : Acc) (dfl : Nat := 0) : Row := ⟨idx, 1, sub, ns, typ, acc, false, dfl⟩

/-- Type codes of R454 by short names. -/
def tI16 : Nat := 2
def tU8 : Nat := 5
def tU16 : Nat := 6
def tU32 : Nat := 7
def tU64 : Nat := 8
def tStr : Nat := 9
def tDom : Nat := 10

/-- Areas 0x1000 to 0x2000 (R467, R528). -/
def rowsNet : List Row := [
  row1 0x1000 1 tStr .r, row1 0x1000 2 tU8 .r, row1 0x1000 3 tU64 .r, row1 0x1000 4 tU8 .r, row1 0x1000 5 tU32 .r,
  row1 0x1000 6 tU32 .r, row1 0x1000 7 tStr .r,
  rowS 0x1100 1 tU8 0, row1 0x1100 2 tU16 .r, row1 0x1100 3 tU8 .rw, row1 0x1100 4 tU64 .r, rowS 0x1100 5 tU16 0x88B5,
  rowS 0x1100 6 tU8 0, rowS 0x1100 7 tU32 0, rowS 0x1100 8 tU16 40560, rowS 0x1100 9 tU16 10, row1 0x1100 10 tU8 .w,
  row1 0x1100 11 tU8 .r,
  row1 0x1200 1 tU64 .rw, row1 0x1200 2 tDom .rw,
  row1 0x2000 1 tU8 .rw, rowS 0x2000 2 tU8 1, row1 0x2000 3 tU8 .r, row1 0x2000 4 tU16 .rw, row1 0x2000 5 tU16 .r,
  rowN 0x2000 6 4 tU8 .rw, row1 0x2000 10 tU8 .r, row1 0x2000 11 tU8 .rw, row1 0x2000 12 tU16 .rw,
  row1 0x2000 13 tU32 .r, row1 0x2000 16 tU8 .r, row1 0x2000 17 tU8 .rw, row1 0x2000 18 tI16 .r,
  row1 0x2000 20 tU8 .rw 0x0F, rowS 0x2000 21 tU8 7, row1 0x2000 22 tU8 .r, rowN 0x2000 32 5 tU64 .r]

/-- Areas 0x3000 to 0x4400 (R86, R124, R182, R251, R276, R319, R396). -/
def rowsCompute : List Row := [
  row1 0x3000 1 tU16 .r, row1 0x3000 2 tU16 .rw 4096, row1 0x3000 3 tU64 .r, row1 0x3000 4 tU16 .r,
  row1 0x3000 5 tU64 .r,
  row1 0x3100 1 tU16 .rw 10, row1 0x3100 2 tU8 .rw 8, row1 0x3100 3 tU8 .rw 64, row1 0x3100 4 tU16 .r,
  row1 0x3100 5 tU16 .rw 2000, row1 0x3100 6 tU16 .rw 600, row1 0x3100 7 tU8 .r, row1 0x3100 8 tI16 .r,
  row1 0x3100 9 tU32 .r, row1 0x3100 10 tU8 .w,
  row1 0x3200 1 tU64 .w, row1 0x3200 2 tU8 .r, row1 0x3200 3 tU16 .r, row1 0x3200 4 tU32 .r,
  row1 0x4100 1 tU8 .w, row1 0x4100 2 tU8 .r, row1 0x4100 3 tU16 .rw, row1 0x4100 4 tU16 .r, row1 0x4100 5 tU8 .rw,
  row1 0x4100 6 tU32 .rw 50000, rowN 0x4100 7 3 tU64 .r, row1 0x4100 10 tU32 .r, row1 0x4100 11 tU64 .r,
  row1 0x4200 1 tU8 .rw 0xFF, row1 0x4200 2 tU8 .rw 0xFF, row1 0x4200 3 tU8 .rw 0x0F, row1 0x4200 4 tU64 .r,
  rowN 0x4200 16 8 tU32 .r,
  row1 0x4300 1 tU64 .w, row1 0x4300 2 tU8 .w, row1 0x4300 3 tU16 .r, rowN 0x4300 16 4 tU64 .rw,
  rowN 0x4300 20 4 tU64 .rw, rowN 0x4301 1 64 tU32 .r,
  row1 0x4400 1 tU64 .r, row1 0x4400 2 tU64 .r, row1 0x4400 3 tU16 .rw, row1 0x4400 4 tU16 .rw 20,
  row1 0x4400 5 tU16 .rw 100, row1 0x4400 6 tU16 .rw 0x0259, row1 0x4400 7 tU16 .rw 0x024A, row1 0x4400 8 tU32 .r]

/-- Areas 0x4500 to 0x5110 (R356, R396, R497). The default of POOL_SIZE_BULK and POOL_SIZE_DEEP follows the sizes found
at boot, so B5 and B7 write them (R529). -/
def rowsMemory : List Row := [
  rowN 0x4500 1 4 tU64 .r, row1 0x4500 5 tU64 .w, row1 0x4500 6 tU8 .r, row1 0x4500 7 tU32 .rw 100000,
  row1 0x4500 8 tU64 .rw, row1 0x4500 9 tU64 .rw, row1 0x4500 10 tU64 .rw 0x200000000, row1 0x4500 11 tU64 .rw,
  row1 0x4500 12 tU64 .rw 0x10000000000, row1 0x4500 13 tU64 .rw,
  rowN 0x4510 1 64 tU32 .rw 0xFFFFFFFF, rowN 0x4511 1 64 tU32 .r,
  row1 0x4600 1 tU16 .r, row1 0x4600 2 tU32 .r, row1 0x4600 3 tU64 .r, row1 0x4600 4 tU16 .rw 2400,
  row1 0x4600 5 tU32 .rw 100000, row1 0x4600 6 tU32 .w, row1 0x4600 7 tU16 .rw 200, row1 0x4600 8 tU32 .r,
  row1 0x4600 9 tU8 .r,
  row1 0x5100 1 tU16 .r, rowS 0x5100 2 tU8 5, rowS 0x5100 3 tU8 8, row1 0x5100 4 tU64 .r, row1 0x5100 5 tU64 .rw,
  row1 0x5100 6 tU16 .rw 256, row1 0x5100 7 tU16 .rw, row1 0x5100 8 tU16 .r, row1 0x5100 9 tU8 .rw,
  row1 0x5100 10 tU8 .rw, rowN 0x5101 1 16 tU32 .rw,
  ⟨0x5110, 16, 1, 1, tU8, .rw, false, 0⟩, ⟨0x5110, 16, 2, 1, tU8, .rw, false, 0⟩,
  ⟨0x5110, 16, 3, 1, tU8, .rw, false, 0⟩, ⟨0x5110, 16, 4, 1, tU64, .rw, false, 0⟩,
  ⟨0x5110, 16, 5, 1, tU8, .rw, false, 1⟩, ⟨0x5110, 16, 6, 1, tU16, .rw, false, 64⟩,
  ⟨0x5110, 16, 7, 1, tU16, .r, false, 0⟩, ⟨0x5110, 16, 8, 1, tU16, .rw, false, 0⟩,
  ⟨0x5110, 16, 9, 1, tU8, .r, false, 0⟩]

/-- Areas 0x6000 to 0x8000 (R563, R578, R433, R557). -/
def rowsSystem : List Row := [
  rowS 0x6000 1 tU32 25000, row1 0x6000 2 tU8 .w, row1 0x6000 3 tU16 .r, row1 0x6000 4 tU32 .rw, row1 0x6000 5 tU64 .r,
  rowN 0x6001 1 5 tU16 .rw, rowN 0x6002 1 7 tU16 .rw, rowN 0x6003 1 9 tU16 .rw, rowN 0x6004 1 9 tU16 .rw,
  rowN 0x6005 1 8 tU16 .rw, rowN 0x6006 1 4 tU16 .rw, rowN 0x6007 1 5 tU16 .rw, rowN 0x6008 1 9 tU16 .rw,
  rowN 0x6009 1 11 tU16 .rw, rowN 0x600A 1 11 tU16 .rw, rowN 0x600B 1 10 tU16 .rw, rowN 0x600C 1 7 tU16 .rw,
  rowN 0x600D 1 6 tU16 .rw, rowN 0x600E 1 14 tU16 .rw, rowN 0x600F 1 14 tU16 .rw, rowN 0x6010 1 2 tU16 .rw,
  row1 0x7000 1 tU16 .r, row1 0x7000 2 tU32 .r, row1 0x7000 3 tU8 .r, row1 0x7000 4 tU8 .r, row1 0x7000 5 tU32 .rw 65536,
  row1 0x7000 6 tU16 .rw 20, row1 0x7000 7 tU32 .rw 100, row1 0x7000 8 tU8 .rw 0x88, row1 0x7000 9 tU64 .r,
  row1 0x7000 10 tU16 .w, row1 0x7000 11 tU8 .w, rowN 0x7000 16 4 tU32 .r, rowN 0x7001 1 32 tU64 .r,
  rowN 0x7002 1 32 tU64 .r,
  row1 0x8000 1 tU8 .r, row1 0x8000 2 tDom .r, row1 0x8000 3 tU32 .rw, row1 0x8000 4 tDom .r, row1 0x8000 5 tU16 .r,
  row1 0x8000 6 tU16 .w, row1 0x8000 7 tU8 .w, row1 0x8000 16 tU64 .w, row1 0x8000 17 tU32 .r, rowS 0x8000 18 tU16 10,
  row1 0x8000 19 tU8 .w, row1 0x8000 20 tU16 .r, row1 0x8000 21 tDom .r, row1 0x8000 32 tDom .rw, row1 0x8000 33 tU8 .w,
  row1 0x8000 34 tU8 .r, row1 0x8000 35 tDom .r, row1 0x8000 36 tDom .r]

/-- Every row of the dictionary. -/
def allRows : List Row := rowsNet ++ rowsCompute ++ rowsMemory ++ rowsSystem

/-- Whether a row holds an index. -/
def Row.hasIdx (r : Row) (i : Nat) : Bool := decide (r.idx ≤ i) && decide (i < r.idx + r.ni)

/-- Whether a row holds an entry. -/
def Row.has (r : Row) (i j : Nat) : Bool := r.hasIdx i && decide (r.sub ≤ j) && decide (j < r.sub + r.ns)

/-- The row of an entry. -/
def findRow (i j : Nat) : Option Row := allRows.find? (fun r => r.has i j)

/-- Whether an index has entries (R453). -/
def indexExists (i : Nat) : Bool := allRows.any (fun r => r.hasIdx i)

/-- Subindex 0: the highest subindex in use (R453). -/
def highestSub (i : Nat) : Nat :=
  (allRows.filter (fun r => r.hasIdx i)).foldl (fun m r => max m (r.sub + r.ns - 1)) 0

/-- The key of an entry in `State.ent`. -/
def ekey (i j : Nat) : Nat := i * 256 + j

/-- The default of a setting. -/
def entDefault (k : Nat) : Nat :=
  match findRow (k / 256) (k % 256) with
  | some r => r.dfl
  | none => 0

/-- The keys of the Stored entries (R456). -/
def storedKeys : List Nat := (allRows.filter (fun r => r.sto)).map (fun r => ekey r.idx r.sub)

/-- The size in bytes of a fixed type (R454). -/
def typeSize (t : Nat) : Option Nat :=
  match t with
  | 1 => some 1 | 2 => some 2 | 3 => some 4 | 4 => some 8 | 5 => some 1 | 6 => some 2 | 7 => some 4 | 8 => some 8
  | _ => none

end Sys2Proof.Machine
end

