-- ==== Sys2Proof/Machine/State.lean ====
section
/-!
DEFINITION. The state of the block as plain data: every register, queue, buffer, counter, mode and pin that the spec
gives the GK16, the queue of waiting commands, and the state right after reset. Large arrays of registers are sparse
tables over a default (Machine/Table.lean). Addresses, indexes, cycle counts and tick counts are natural numbers;
fields of an encoded layout are bit vectors.
-/
namespace Sys2Proof.Machine

/-- The reasons a command stops with a fault: none, since the spec stops the block nowhere. -/
inductive Fault where
deriving DecidableEq, Repr

/-- The reasons a command has no meaning in the model. -/
inductive Refusal where
  /-- Raised by the dispatcher for a command whose meaning is not modelled. Safe: the run stops. -/
  | notModelled (mnemonic : String)
deriving DecidableEq, Repr

/-! ## Shared records -/

/-- A job of a stream, by its number (R286). -/
structure JobRef where
  stream : Nat
  num    : Nat
deriving DecidableEq, Repr

/-- An exception record of R173, before it is written to the ring, with the job it marks failed (R133). -/
structure ExcRec where
  bundle : BitVec 16
  slot   : BitVec 4
  cause  : BitVec 8
  tag    : BitVec 4
  tagv   : Bool
  halted : Bool
  detail : BitVec 16
  cycle  : Nat
  opTag  : BitVec 16
  addr   : Nat
  job    : Option JobRef
deriving DecidableEq, Repr

/-- A result that takes effect in a later cycle: a register result (R129), a store (R167), a signal (R142), an exception
record that becomes visible (R154, R289), a job register block or its VALID = 0 (R289), the halt of a rank (R421), or its
LOCKSTEP record and halt (R180). -/
inductive Due where
  | reg (r : BitVec 5) (v : DWord) (job : Option JobRef)
  | store (addr : Nat) (data : List Byte) (job : Option JobRef)
  | signal (obj : BitVec 14) (amount : Word)
  | exc (r : ExcRec)
  | jobReg (stream : Nat) (block : Option (BitVec 1024))
  | halt (fault : Bool)
  | lockstep (r : ExcRec)
deriving DecidableEq, Repr

/-- What the device emits to the outside. -/
inductive Emit where
  | msix (vec : Nat)
  | readData (m : Master) (data : List Byte)
  | pathOk (m : Master)
  | pathFail (m : Master)
  | answer (m : Master) (abort : Nat) (type : Nat) (data : List Byte)
  | segment (m : Master) (seg : Segment)
  | flit (port : Nat) (bytes : List Byte)
  | peerSignal (role : BitVec 5) (obj : BitVec 14) (issued : BitVec 24)
  | shadeReport (port : Nat) (role : BitVec 5)
  | training (port : Nat) (r : TrainRec)
  | frame (bytes : List Byte)
  | wakeLow
  | pcieUr
  | pcieCrs
  | cfgData (f : PcieFn) (data : List Byte)
  | clockFault (core : Nat) (bit : Nat)
deriving DecidableEq, Repr

/-! ## Time and clocks (R305, R498 to R513) -/

/-- A PLL of R501. -/
structure Pll where
  locked : Bool
  tries  : Nat
  lost   : Bool
deriving DecidableEq, Repr

/-- The switch state of a domain clock (R528 CLK_SWITCH_STATE). -/
inductive SwitchState where
  | steady | ramping | forced
deriving DecidableEq, Repr

/-- A domain clock of R502: the source entry as written, the source that now feeds it, the present divide code, and
the state of its switch; `down` is set while step 1 of R505 runs. -/
structure DomClk where
  written : BitVec 8
  src     : BitVec 2
  code    : Nat
  sw      : SwitchState
  down    : Bool
deriving DecidableEq, Repr

structure Clock where
  cycle        : Nat
  ticks        : Nat
  frac         : Nat
  secTicks     : Nat
  powered      : Nat
  due          : List (Nat × Due)
  crystal      : Bool
  crystalLate  : Bool
  onLantern    : Bool
  plls         : Table Pll
  doms         : Table DomClk
  outSel       : BitVec 8
  faults       : BitVec 12
  faultNow     : BitVec 12
  enable       : BitVec 11
  running      : BitVec 11
  lanternHz    : Word
  ratioLost    : BitVec 3
  srcWait      : Option (Option Master)
deriving DecidableEq, Repr

/-! ## The sequencer (R125 to R183) -/

/-- SEQ_STATE of R182. -/
inductive SeqState where
  | halted | running | idle | stalled | faultHalted
deriving DecidableEq, Repr

/-- A stall of the present bundle (R128): the cycle and the tick it began, DETECT_WINDOW at that moment (R311), whether
its waits are treated as held (R176, R313), and whether a probe has been sent for it (R312). -/
structure Stall where
  since  : Nat
  tick   : Nat
  window : Nat
  held   : Bool
  probed : Bool
deriving DecidableEq, Repr

/-- A scalar access that stalls the stream until it returns (R167). -/
inductive ScalarOp where
  | ld (dst : BitVec 5) (addr : Nat)
  | st (addr : Nat) (data : List Byte)
  | dictRd (dst : BitVec 5) (index : BitVec 16) (sub : BitVec 8)
  | dictWr (index : BitVec 16) (sub : BitVec 8) (value : DWord)
  | tagjob (dst : BitVec 5) (stream : BitVec 4)
deriving DecidableEq, Repr

/-- A scalar access under way; `sent` is set once its dictionary request has been made. -/
structure ScalarAccess where
  ctx  : SlotCtx
  job  : Option JobRef
  op   : ScalarOp
  hold : Option Nat
  sent : Bool
deriving DecidableEq, Repr

/-- A move record that the bundle stream has submitted (R162, R332). -/
structure BundleMove where
  id     : Nat
  ctx    : SlotCtx
  job    : Option JobRef
  addr   : Nat
  issued : Nat
deriving DecidableEq, Repr

/-- The sequencer. `haltOwed` holds the state in which a halt of this bundle leaves it once the bundle has ended (R135,
R175); `recent` holds the bundles overwritten lately: the cycle of the write, the index, the bits before it (R169);
`syncLog` the sync objects changed lately in a rank: the first cycle that sees the change, the object, its value before (R418);
`taking` the jobs that the JOB_TAKE slots of the bundle in issue take, each with the cause of a failure that comes first
(R133, R291). -/
structure Seq where
  st      : SeqState
  pc      : BitVec 16
  regs    : Table DWord
  stack   : List (BitVec 16)
  planned : Nat
  stall   : Option Stall
  idle    : Option (BitVec 16)
  access  : Option ScalarAccess
  excHead : Word
  haltOwed : Option SeqState
  recent  : List (Nat × Nat × BitVec 512)
  syncLog : List (Nat × Nat × Word)
  moveQ   : List BundleMove
  taking  : List (JobRef × BitVec 8)
deriving DecidableEq, Repr

/-! ## Arrays (R25 to R124) -/

/-- The states of R68. -/
inductive ArrayState where
  | idle | converting | programming | quarantined | retired
deriving DecidableEq, Repr

/-- One physical array: the fields of its status record (R65), the epoch its reducer holds (R72), its ageing record
(R95), its persistent MEDIA state (R384) and the progress of a program (R358 to R364) or a measurement (R107). `waits`
marks a refresh that has been counted as waiting for a free array (R119), `stuck` an array in the state of R112 without a
refresh, and `fresh` one that is to be measured outside a pass, as after its program (R108). -/
structure PhysArray where
  st        : ArrayState
  mapped    : Bool
  addrSlot  : BitVec 8
  qreason   : BitVec 4
  fence     : BitVec 2
  gen       : Bool
  maint     : Bool
  barred0   : Option (BitVec 8)
  barred1   : Option (BitVec 8)
  barred2   : Option (BitVec 8)
  epoch     : BitVec 16
  redEpoch  : BitVec 16
  tagsOpen  : List (BitVec 8)
  nextTag   : BitVec 8
  ageRet    : BitVec 8
  refreshes : BitVec 6
  prevValid : Bool
  lastMeas  : Word
  widened   : Bool
  beyond    : Bool
  waits     : Bool
  stuck     : Bool
  fresh     : Bool
  erases    : Nat
  eraseOpen : Bool
  progOpen  : Bool
  rowsOpen  : Nat
  rowsDone  : Nat
  loops     : Nat
  failures  : Nat
  source    : Option (List (BitVec 4))
  measured  : List (List Int)
  baseline  : Int
  baseTemp  : Int
  tempLog   : List Int
deriving DecidableEq, Repr

/-- ADDR_STATE of R66. -/
inductive AddrState where
  | served | moving | unavailable
deriving DecidableEq, Repr

/-- An address map entry (R60, R66). -/
structure MapEntry where
  phys : Nat
  st   : AddrState
deriving DecidableEq, Repr

/-- What a move of addresses under mirroring serves (R111, R116, R346). -/
inductive MoveKind where
  | refresh
  | rewrite (write : Nat)
deriving DecidableEq, Repr

/-- A handover set (R116): its addresses with their mirrors (array numbers), the mirrors whose margins are valid, and
the tick from which it waits (R115). -/
structure HandoverSet where
  id      : Nat
  kind    : MoveKind
  members : List (Nat × Nat)
  ready   : List Nat
  since   : Option Nat
  forced  : Bool
deriving DecidableEq, Repr

/-- The replanning passes (R106): the arrays that the full pass still has to measure, whether it is the first after a
start or a wake (R123), whether another full pass follows, and the banks of early passes with the arrays left to them. -/
structure Pass where
  running : Bool
  first   : Bool
  left    : List Nat
  queued  : Bool
  banks   : List Nat
  early   : List Nat
deriving DecidableEq, Repr

/-- An UNAVAILABLE address that the management cores bring back on an array: a rebuild from the library, with the tile
that is programmed (R75), or, without a tile, an array that only waits for its first measurement (R529, B6). `ready` is
set once its margins are valid. -/
structure Rebuild where
  addr  : Nat
  array : Nat
  tile  : Option (List (BitVec 4))
  ready : Bool
deriving DecidableEq, Repr

/-- The arrays. `refs` holds the reference weights of every row (R93, R358), `hv` the arrays that the high-voltage units
are erasing or programming, `rechecks` the shades whose recheck waits, each with its place in request order (R77, R360),
`shown` the arrays last sampled as CONVERTING (R67). -/
structure Arrays where
  phys       : Table PhysArray
  cells      : Table (BitVec 4)
  refs       : Table (BitVec 4)
  map        : Table MapEntry
  shown      : List Nat
  margin     : Table (BitVec 64)
  backing    : Table (BitVec 64)
  backingAge : Table (BitVec 64)
  dirty      : List Nat
  temp       : Table Int
  tempHist   : Table (List (Nat × Int))
  slewEnd    : Table Nat
  peri       : Table (BitVec 8)
  pass       : Pass
  refreshReq : List Nat
  moves      : List HandoverSet
  rebuilds   : List Rebuild
  hv         : List Nat
  rechecks   : List (Nat × Nat)
  replanned  : Nat
  ktemp      : Nat
  ageA       : Nat
deriving DecidableEq, Repr

/-- A line record of an operation (R149), with its addresses formed. -/
structure LineRec where
  mask   : BitVec 32
  banks  : Nat
  dst    : Nat
  status : Nat
deriving DecidableEq, Repr

/-- A member record of an operation (R150), with its activation address formed. -/
structure Member where
  bank  : Nat
  slot  : Nat
  first : Nat
  count : Nat
  line  : Nat
  act   : Nat
deriving DecidableEq, Repr

/-- What the line status record of R52 gathers. -/
structure LineAcc where
  clips   : Nat
  missing : List Nat
  late    : Bool
  bitsMin : Nat
  bitsMax : Nat
  visible : Bool
deriving DecidableEq, Repr

/-- Where a phase operation stands: waiting at admission, in a phase (its codes not yet taken), tested for missing
codes, in a repeat phase, held until a supply or a clock recovers (R57, R506), or with every phase ended. -/
inductive PhaseStage where
  | waiting | phase | testing | repeating | held | ended
deriving DecidableEq, Repr

/-- What the last phase that ended added, so that it can be discarded (R57): the results and line records before it,
the silent arrays when it was a repeat phase, its wave, its phase and the cycle in which it ended. -/
structure PhaseUndo where
  results : Table Int
  acc     : Table LineAcc
  mute    : List Nat
  wave    : Nat
  phase   : Nat
  fin     : Nat
deriving DecidableEq, Repr

/-- A phase operation (R53): its parameters, what was latched at admission (R60, R84, R100, R102), and its
results. `oldSets` holds the margin sets as they stood at admission, where a rewrite has changed them since (R101), `dead`
the arrays declared dead in it (R74). `released` marks a held operation whose arrays had left the converting count, and
`again` one whose arrays are counted again for a repeat (R57); `late` is the cycle from which one waits for an UNAVAILABLE
address (R300). -/
structure PhaseOp where
  id        : Nat
  ctx       : SlotCtx
  job       : Option JobRef
  opTag     : BitVec 16
  sync      : BitVec 14
  a8        : Bool
  w8        : Bool
  ps16      : Bool
  shift     : Nat
  lines     : List LineRec
  members   : List Member
  ready     : Nat
  stage     : PhaseStage
  admitted  : Nat
  waves     : List (List Nat)
  wave      : Nat
  phase     : Nat
  start     : Nat
  fin       : Nat
  phys      : Table Nat
  leftOut   : List Nat
  gens      : Table Nat
  temps     : Table Int
  setUse    : Table Nat
  oldSets   : Table (Option Nat)
  digits    : Table (List Byte)
  results   : Table Int
  acc       : Table LineAcc
  mute      : List Nat
  dead      : List Nat
  undo      : Option PhaseUndo
  loadLost  : Bool
  dip       : Bool
  released  : Bool
  again     : Bool
  hold      : Option Nat
  late      : Option Nat
  failed    : Bool
deriving DecidableEq, Repr

/-- The dispatch unit: the operations, the cycle in which each array last left one, and the cycle from which a phase waits
for the sequencer's clock (R503). -/
structure Dispatch where
  ops       : List PhaseOp
  lastEnd   : Table Nat
  clockWait : Option Nat
deriving DecidableEq, Repr

/-! ## Matrix engine, vector fabric, rotation units and expanders (R221 to R276) -/

/-- The fields of a matrix task descriptor (R231). -/
structure MatDesc where
  sync     : BitVec 14
  syncV    : Bool
  store    : Bool
  outFmt   : Nat
  aCode    : Nat
  bCode    : Nat
  aG       : Nat
  bG       : Nat
  m        : Nat
  n        : Nat
  k        : Nat
  opTag    : BitVec 16
  aAddr    : Nat
  bAddr    : Nat
  aScale   : Nat
  bScale   : Nat
  out      : Nat
  aStride  : Nat
  bStride  : Nat
  oStride  : Nat
deriving DecidableEq, Repr

/-- The matrix opcodes of R156. -/
inductive MatOp where
  | matmul | matmulAcc | matmulX | matmulXAcc | accStore | accLoad | outerAcc
deriving DecidableEq, Repr

/-- What the expander found in a task's object header (R264, R265): not yet read, failed, or the decode slots
referenced. -/
inductive HeaderRead where
  | unread
  | failed
  | passed (slots : List Nat) (listed : List (Nat × Nat))
deriving DecidableEq, Repr

/-- An index entry of a compressed object (R254). -/
structure IndexEnt where
  off  : Nat
  len  : Nat
  mode : Nat
  slot : Nat
  ver  : Nat
deriving DecidableEq, Repr

/-- A block in the fetch buffer, as the expander read it (R270, R273): its index entry and its stored bytes, none where they
cannot be read; whether some lay in a guarded region; the cycle in which they came. -/
structure Fetched where
  ent     : Option IndexEnt
  data    : Option (List Byte)
  guarded : Bool
  came    : Nat
deriving DecidableEq, Repr

/-- An object header in the fetch buffer: its bytes, none where they cannot be read, and whether it lay in a guarded
region. -/
structure FetchedHdr where
  data : Option (List Byte)
deriving DecidableEq, Repr

/-- A matrix task (R157, R226), with what its last step hands to the store buffers (R228). `hdr` and `got` are its part
of the fetch buffer, `hdrAt` the cycle of its header read, `extra` the cycles lost to scale records and buffer banks
(R225), `pass` the passes whose results are formed, `fin` the cycle of its last step, 0 until it is known; `expand`,
`fetch` and `store` are the growth counted so far. -/
structure MatTask where
  id     : Nat
  slot   : Nat
  ctx    : SlotCtx
  job    : Option JobRef
  op     : MatOp
  bf16   : Bool
  slices : BitVec 8
  d      : MatDesc
  issued : Nat
  header : HeaderRead
  hdr    : Option FetchedHdr
  hdrAt  : Nat
  got    : List Fetched
  extra  : Nat
  pass   : Nat
  expand : Nat
  fetch  : Nat
  store  : Nat
  start  : Nat
  fin    : Nat
  writes : List (Nat × List Byte)
  failed : Bool
  hold   : Option Nat
deriving DecidableEq, Repr

/-- The fields of a vector task descriptor (R244). -/
structure VecDesc where
  sync     : BitVec 14
  syncV    : Bool
  statsV   : Bool
  stateV   : Bool
  opTag    : BitVec 16
  e        : Nat
  rowLen   : Nat
  inCode   : Nat
  outCode  : Nat
  gsize    : Nat
  shift    : Nat
  ea       : BitVec 8
  eo       : BitVec 8
  rotB     : Nat
  src      : Nat
  src2     : Nat
  dst      : Nat
  dstScale : Nat
  stats    : Nat
  state    : Nat
  param    : BitVec 64
  srcScale : Nat
deriving DecidableEq, Repr

/-- The vector opcodes of R159. -/
inductive VecOp where
  | run | config | rotate
deriving DecidableEq, Repr

/-- The function a section holds (R239, R241). -/
structure Image where
  id     : Word
  cls    : Nat
  passes : Nat
  bytes  : List Byte
deriving DecidableEq, Repr

/-- The counts of a quantising task for its statistics record (R212); `maxAbs` is FP32, `need` and `eUsed` scale codes,
`code` the code maximum. -/
structure Stats where
  n      : Nat
  clips  : Nat
  zeros  : Nat
  nans   : Nat
  zgs    : Nat
  maxAbs : Word
  need   : BitVec 8
  eUsed  : BitVec 8
deriving DecidableEq, Repr

/-- A vector task (R159), with what it writes at its end and its statistics. `fails` is set when it runs without a usable
function (R242) or image (R241), `broken` when a scale tensor breaks off (R200). -/
structure VecTask where
  id     : Nat
  slot   : Nat
  ctx    : SlotCtx
  job    : Option JobRef
  op     : VecOp
  units  : BitVec 8
  d      : VecDesc
  issued : Nat
  start  : Nat
  fin    : Nat
  writes : List (Nat × List Byte)
  stats  : Option Stats
  scaleUpdate : Bool
  record : Bool
  image  : Option Image
  fails  : Bool
  broken : Bool
deriving DecidableEq, Repr

/-- A decode table slot (R258, R261): TVER, REFS and the 256 code lengths. -/
structure DecodeTable where
  tver    : BitVec 8
  refs    : Nat
  lengths : List Nat
deriving DecidableEq, Repr

/-- The matrix engine, the vector fabric and the expanders. `sliceFree` is the first cycle in which a slice is free again
(R226); `lanes` numbers, per section, the run that left its lane registers as they are (R237, log 22). -/
structure Engines where
  acc          : Table Word
  sliceFree    : Table Nat
  lanes        : Table Nat
  mq           : Table (List MatTask)
  mrun         : List MatTask
  vq           : Table (List VecTask)
  vrun         : List VecTask
  sect         : Table (Option Image)
  tables       : Table (Option DecodeTable)
  tablePending : Nat
  wokeAt       : Table Nat
  offPending   : List Nat
deriving DecidableEq, Repr

/-! ## Streams (R277 to R319) -/

/-- A ring descriptor (R279). -/
structure Ring where
  base  : Nat
  slots : Nat
  head  : Nat
  tail  : Nat
deriving DecidableEq, Repr

/-- RSTATE of R314. -/
inductive RecvState where
  | attached | detached | off
deriving DecidableEq, Repr

/-- A receiver entry (R314). `missedSince` counts the records missed since it detached, for GAP_COUNT; `gapNext`
marks that the next delivered record carries GAP = 1; `rewritten` that a master wrote the entry (R317). -/
structure Receiver where
  kind        : Nat
  stream      : Nat
  device      : Nat
  lossless    : Bool
  rst         : RecvState
  detachLag   : Nat
  rejoinFree  : Nat
  missed      : Nat
  hostBase    : Nat
  hostSlots   : Nat
  hostTail    : Nat
  hostHead    : Nat
  missedSince : Nat
  gapNext     : Bool
  rewritten   : Bool
deriving DecidableEq, Repr

/-- A job from the moment it leaves the ring until it is COMPLETE: the fields of its record that R292 and R293 need. -/
structure Job where
  num        : Nat
  jobTag     : Word
  marker     : Bool
  deadlineV  : Bool
  deadline   : Word
  statusV    : Bool
  statusHost : Bool
  statusAddr : Nat
  failed     : Bool
  missed     : Bool
  skipped    : Bool
  halted     : Bool
  cause      : BitVec 8
  status     : BitVec 16
  closed     : Nat
  byDone     : Bool
deriving DecidableEq, Repr

/-- A pushed record in the push queue (R296): the cycle of its push, its job, the stream of its bundle's TAG, its bytes,
and the operations issued before it that it waits for. -/
structure Push where
  issued : Nat
  job    : Option JobRef
  stream : Option Nat
  data   : List Byte
  after  : List Nat
deriving DecidableEq, Repr

/-- A placed record with the receivers that have not received it, and those of them to which it has been sent and whose
link has not acknowledged it (R315, R316). -/
structure Placed where
  data  : List Byte
  waits : List Nat
  sent  : List Nat
deriving DecidableEq, Repr

/-- Whether a stream is enabled (R282). SSTATE of R283 shows an enabled stream as IDLE or BUSY. -/
inductive StreamState where
  | disabled | enabled | stopping
deriving DecidableEq, Repr

/-- One stream: its rings, settings, receivers, state and jobs. -/
structure StreamBlk where
  inb      : Ring
  outb     : Ring
  settings : BitVec 256
  recvs    : Table Receiver
  st       : StreamState
  enqueued : Word
  misses   : Word
  jobReg   : BitVec 1024
  cur      : Option Job
  closing  : List Job
  pushq    : List Push
  placed   : List Placed
  readRecs : Table (Option (BitVec 512))
  missDone : List Nat
deriving DecidableEq, Repr

/-- A write of STREAM_ENABLE that waits for remote rings to be bound (R424): its master, none when its request was dropped, the value, the tick of the
binds, and the receiver entries (stream, entry) not yet answered. -/
structure EnableWait where
  master : Option Master
  value  : BitVec 16
  since  : Nat
  waits  : List (Nat × Nat)
deriving DecidableEq, Repr

structure Streams where
  blk      : Table StreamBlk
  missHead : Word
  enable   : Option EnableWait
deriving DecidableEq, Repr

/-- A request to a tier controller (R301): its class (0 read, 1 write, 2 remote), stream, arrival tick, blocks of 64
bytes left, and whether it has waited STARVE_LIMIT. -/
structure TierReq where
  id      : Nat
  cls     : Nat
  stream  : Option Nat
  arrival : Nat
  blocks  : Nat
  starved : Bool
deriving DecidableEq, Repr

/-- A bandwidth controller (R302): its requests in arrival order and the grants given per class in the window. -/
structure TierQ where
  reqs   : List TierReq
  given  : List Nat
  grants : Nat
deriving DecidableEq, Repr

/-! ## Objects and migration (R325 to R356) -/

/-- An object record (R328). `pinWait` holds the tile entries that were MOVING when PIN was set: it takes effect when their
moves have ended (R335). -/
structure Obj where
  exist     : Bool
  held      : Bool
  domain    : Nat
  hints     : BitVec 16
  pinWait   : List Nat
  size      : Nat
  mapFirst  : Nat
  holdSync  : BitVec 14
  holdValue : Word
  holdTicks : Word
deriving DecidableEq, Repr

/-- A tile map entry (R329). -/
structure Tile where
  tier     : Nat
  dstTier  : Nat
  moving   : Bool
  dirty    : Bool
  recopies : Nat
  poisoned : Bool
  home     : Nat
  dst      : Nat
deriving DecidableEq, Repr

/-- Where one tile of a move record stands (R343, R349). -/
inductive TileMove where
  | reserved (dst : Nat)
  | copying (dst : Nat) (retried : Bool)
  | deferred (dst : Nat)
  | joined
  | waiting (dst : Nat)
  | moved
  | skipped
  | abandoned
  | failed (status : Nat)
deriving DecidableEq, Repr

/-- A move record that the engine has accepted and that has not ended (R331 to R334): its 64 bytes, whether it has
started, the tiles it names and what became of each, and a STATUS of the record as a whole. -/
structure MoveRec where
  id       : Nat
  addr     : Nat
  ctx      : Option SlotCtx
  job      : Option JobRef
  raw      : BitVec 512
  started  : Bool
  tiles    : List (Nat × TileMove)
  status   : Nat
  deferred : Bool
deriving DecidableEq, Repr

/-- An object-window write held during the last copy of a tile (R344 step 3). `again` marks one whose unit asks again until
it is done, `applied` one of those whose bytes have been written. -/
structure HeldWrite where
  obj     : Nat
  tile    : Nat
  master  : Master
  offset  : Nat
  data    : List Byte
  again   : Bool
  applied : Bool
  access  : Nat
  start   : Nat
  stream  : Option Nat
deriving DecidableEq, Repr

/-- A buffer tile parked during Umbra mode (R353): its tile map entry, its buffer location and its bytes in the bulk
tier location. -/
structure Parked where
  entry  : Nat
  bufLoc : Nat
  bulk   : Nat
deriving DecidableEq, Repr

structure Migration where
  bulkSize : Nat
  deepSize : Nat
  tileMapOn : Bool
  objs     : Table Obj
  tiles    : Table Tile
  recs     : List MoveRec
  held     : List HeldWrite
  oldLocs  : List (Nat × Nat)
  parked   : List Parked
deriving DecidableEq, Repr

/-! ## Array writes and media (R358 to R396) -/

/-- Where one address of an array write stands (R368 to R370): taken, its array not yet IDLE (R69); its array programmed,
then measured; ready, an admitted operation still naming the address (R62); served; or left without an array. -/
inductive AwTarget where
  | taken | programming | measuring | ready | served | lost
deriving DecidableEq, Repr

/-- One address of an array write: the address, its target array, where it stands, its tile as the scan read it, and the
library tile written for it (R371). -/
structure AwAddr where
  addr   : Nat
  array  : Option Nat
  st     : AwTarget
  tile   : List (BitVec 4)
  lib    : Option Nat
deriving DecidableEq, Repr

/-- An array write in progress (R366 to R372). `committed` is set when the MEDIA partition has committed its maps and library
index (R368 step 6). -/
structure ArrayWrite where
  id         : Nat
  install    : Bool
  lib        : Bool
  resultV    : Bool
  syncV      : Bool
  sync       : BitVec 14
  src        : Nat
  resultAddr : Nat
  addrs      : List AwAddr
  status     : Nat
  failAddr   : Nat
  row        : Nat
  byMove     : Option Nat
  committed  : Bool
deriving DecidableEq, Repr

structure ArrayWrites where
  ws : List ArrayWrite
deriving DecidableEq, Repr

/-- A store plane block (R376 to R383); `serves` is the partition in which a RESERVE block replaces one that failed. -/
structure StoreBlk where
  erases    : Nat
  eraseOpen : Bool
  wp        : Nat
  erasing   : Bool
  suspended : Bool
  suspends  : Nat
  bad       : Bool
  serves    : Option Partition
deriving DecidableEq, Repr

/-- The persistent state of one array as the MEDIA partition holds it (R384). -/
structure ArrRec where
  st        : ArrayState
  qreason   : BitVec 4
  fence     : BitVec 2
  barred0   : Option (BitVec 8)
  barred1   : Option (BitVec 8)
  barred2   : Option (BitVec 8)
  epoch     : BitVec 16
  erases    : Nat
  eraseOpen : Bool
  progOpen  : Bool
deriving DecidableEq, Repr

/-- A boot ledger record (R534). -/
structure Ledger where
  startNum  : Word
  cause     : BitVec 8
  rail      : BitVec 3
  streak    : BitVec 4
  results   : List (BitVec 3)
  altUsed   : BitVec 12
  first     : Option (Fin 12)
  unconf    : Bool
  recLoad   : Bool
  detail    : Word
  bootMs    : Word
  seconds   : Word
  version   : Word
deriving DecidableEq, Repr

/-- What a store plane transaction makes readable when it commits (R380): a library tile under its number; the active sets
and ageing records of a backing-copy write with POWERED_SECONDS (R122, R467); a MEDIA update of the address maps, the array
records, the ERASE_OPEN marks of store plane blocks and, for the array writes it commits, the library index (R368, R383,
R384); the Stored entries, with the master that is answered (R456); a ledger record with ALT_IN_FORCE (R536); or the firmware
image. -/
inductive StoreData where
  | tile (item : Nat) (codes : List (BitVec 4))
  | backing (sets ages : List (Nat × BitVec 64)) (seconds : Nat)
  | media (maps : Table MapEntry) (arrs : Table ArrRec) (index : List (Nat × Option Nat)) (writes blks : List Nat)
  | settings (vals : Table Nat) (master : Option Master)
  | ledger (r : Ledger) (alt : BitVec 12)
  | firmware
deriving DecidableEq, Repr

/-- A store plane transaction waiting, under way or committed (R380): its partition, its item, the blocks that it has pages
in (the one being written last), those of the second copy of a MEDIA transaction (R379), its pages programmed, its data, and
its commit record in the journal. -/
structure Transact where
  part      : Partition
  item      : Nat
  blocks    : List Nat
  twins     : List Nat
  pages     : Nat
  data      : StoreData
  committed : Bool
deriving DecidableEq, Repr

/-- The states of an FTL extent (R387). -/
inductive ExtState where
  | unmapped | mapped | logged | relocating
deriving DecidableEq, Repr

/-- An FTL extent: its state, its logged tiles with the log block of each, its base block, when it was last written, the
tiles that joined its relocation, and the block to which it is being merged or moved. -/
structure Extent where
  st      : ExtState
  log     : List (Nat × Nat)
  based   : Bool
  block   : Nat
  written : Nat
  merging : List (Nat × Nat)
  next    : Option Nat
deriving DecidableEq, Repr

/-- A NAND block (R389 to R391). -/
structure NandBlk where
  erases  : Nat
  reads   : Nat
  bad     : Bool
  erasing : Bool
deriving DecidableEq, Repr

/-- The media. `map`, `arrs` and `openBlks` are the address maps, the array records and the ERASE_OPEN marks of store plane
blocks last committed to the MEDIA partition (R383, R384); `savedSecs` and `savedEvery` POWERED_SECONDS and BACKING_INTERVAL
of the last backing write (R467);
`pageRuns` says that the page program which a supply warning met is still to end (R394); `logBlk` is the NAND block that
takes logged tiles, with the number it holds (R387, R389). -/
structure Media where
  lib         : Table (List (BitVec 4))
  index       : Table (Option Nat)
  libReserved : Nat
  map         : Table MapEntry
  arrs        : Table ArrRec
  openBlks    : List Nat
  stored      : Table Nat
  blk         : Table StoreBlk
  trans       : List Transact
  waiting     : List Transact
  writing     : Option Transact
  suspendAll  : Bool
  pageRuns    : Bool
  lastScrub   : Nat
  savedSecs   : Nat
  savedEvery  : Nat
  ext         : Table Extent
  nblk        : Table NandBlk
  logBlk      : Option (Nat × Nat)
  targets     : Nat
  nandIf      : Nat
  nandRate    : Nat
  cellType    : Nat
  nandBlocks  : Nat
  marksRead   : Bool
  marginLost  : List Nat
  roDeep      : Bool
  deepLost    : Bool
  deepHold    : Bool
  bulkHold    : Bool
  bulkLost    : Bool
deriving DecidableEq, Repr

/-! ## Cascade (R397 to R433) -/

/-- RSTATE of R401. -/
inductive RoleState where
  | vacant | active | standby | dead
deriving DecidableEq, Repr

/-- A system map entry (R401). -/
structure MapRole where
  st     : RoleState
  rank   : BitVec 3
  master : Bool
  head   : Bool
  epoch  : BitVec 16
  serial : Word
deriving DecidableEq, Repr

/-- The port states of R433. -/
inductive PortState where
  | down | training | up | quarantine
deriving DecidableEq, Repr

/-- Units of the three virtual channels (R411). -/
structure Units where
  ctrl : Nat
  req  : Nat
  rsp  : Nat
deriving DecidableEq, Repr

/-- A DATA flit in a replay buffer (R412): its SEQ, the stream and receiver entry of the record of this device that it carries,
if it carries one, and its units. -/
structure SentFlit where
  seq   : Nat
  ring  : Option (Nat × Nat)
  units : List Byte
deriving DecidableEq, Repr

/-- One direction of a link of the chain (R405): from a device over one of its ports to a device, with its LINK_DELAY. -/
structure Hop where
  src   : Word
  port  : Nat
  dst   : Word
  delay : Nat
deriving DecidableEq, Repr

/-- A packet that waits to leave, with the port whose receive buffer it stands in when it is forwarded (R411). -/
structure Outgoing where
  pkt  : Pkt
  data : List Byte
  via  : Option Nat
deriving DecidableEq, Repr

/-- A cascade port: PORT_STATE, training progress (R402), the sender's replay buffer and the receiver's sequence
(R412), and the credits it holds (R411). `rxLeft` is the channel of the packet that the flits are bringing, with its units
still to come; `held` are the units in the receive buffers, `back` those freed and not yet returned in CREDITS. -/
structure Port where
  st       : PortState
  lanes    : Nat
  slow     : Bool
  peerRole : BitVec 5
  peerPort : BitVec 2
  delay    : BitVec 8
  retrains : BitVec 8
  step     : Nat
  attempt  : Nat
  peer     : Option TrainRec
  replay   : List SentFlit
  nextSeq  : Nat
  rxSeq    : Option Nat
  nakOwed  : Bool
  replays  : Nat
  ctrl     : Nat
  req      : Nat
  rsp      : Nat
  rxLeft   : Option (Nat × Nat)
  held     : Units
  back     : Units
  winFwd   : Nat
  winLocal : Nat
deriving DecidableEq, Repr

/-- Who waits for a remote access: the chain head's liveness test (R426), a master (R474), or the DMA engine (R488). -/
inductive Requester where
  | liveness
  | master (m : Master)
  | dma
deriving DecidableEq, Repr

/-- A remote access without an answer yet (R410): its tag, role, direction, requester, the bytes it reads, the tick at
which it was sent, and the start of its hold. -/
structure Remote where
  tag    : BitVec 16
  role   : BitVec 5
  write  : Bool
  who    : Requester
  want   : Nat
  sent   : Nat
  hold   : Option Nat
deriving DecidableEq, Repr

/-- A receiving ring bound to a producer on another device (R424): local stream, producer role and stream, entry. -/
structure Bind where
  stream : Nat
  role   : BitVec 5
  sender : Nat
  entry  : Nat
deriving DecidableEq, Repr

/-- The lockstep state of a rank (R416 to R421): whether it has STARTed, RANK_CYCLE less CYCLE_COUNT, HOLD and READY words held
for the present bundle, the HOLD words of later bundles with their planned cycles, the latest READY cycle, the cycle named by
RELEASE, the check result, the check cycle after a release, whether a fault of this member holds the bundle back for good, and
branch words received. -/
structure Lockstep where
  started   : Bool
  offset    : Int
  holds     : List (BitVec 5)
  later     : List (BitVec 5 × Nat)
  readies   : List (BitVec 5)
  latest    : Nat
  releaseAt : Option Nat
  passed    : Bool
  checkAt   : Option Nat
  blocked   : Bool
  words     : List (BitVec 5 × BitVec 24)
deriving DecidableEq, Repr

/-- The recheck of a shade (R427, R429). -/
inductive ShadeState where
  | none | testing | failed
deriving DecidableEq, Repr

/-- The ring on another device that a receiver entry names (R424): its free slots, the most that it granted at a bind
(log 88), and whether its binding was lost with a link (R413). -/
structure FarRing where
  free  : Nat
  slots : Nat
  cut   : Bool
deriving DecidableEq, Repr

structure Cascade where
  role      : BitVec 5
  roleV     : Bool
  isHead    : Bool
  map       : Table MapRole
  ports     : Table Port
  routes    : Table (Option Nat)
  routeWait : List (Nat × Nat)
  sendWait  : List Outgoing
  given     : Option (BitVec 5)
  remote    : List Remote
  rbinds    : List Bind
  credits   : Table FarRing
  lock      : Lockstep
  watch     : Option Nat
  silent    : Table Nat
  suspended : List Nat
  shade     : ShadeState
  bars      : List (BitVec 64)
  shades    : List (BitVec 64)
  heard     : List (Nat × TrainRec)
  told      : List (BitVec 64 × BitVec 2 × Nat)
  links     : List (FarLink × PortState)
deriving DecidableEq, Repr

/-! ## Field network (R434 to R467) -/

/-- A request in reassembly (R444): SEQ, SEG_COUNT, the TARGET byte, and, once segment 0 is there, its access header. -/
structure Reasm where
  seq   : Nat
  count : Nat
  target : Nat
  total : Nat
  service : BitVec 8
  index : BitVec 16
  sub   : BitVec 8
  type  : BitVec 8
  parts : Table (List Byte)
  since : Nat
deriving DecidableEq, Repr

/-- An answer as stored by a session (R447, R448). -/
structure Answer where
  service : BitVec 8
  abort   : Nat
  type    : Nat
  data    : List Byte
deriving DecidableEq, Repr

/-- How an answer goes back: the tag of the DICT packet that brought the request (R451), and the encapsulation of its frame
(R440). -/
structure Via where
  tag : BitVec 16
  enc : Encap
deriving DecidableEq, Repr

/-- A session (R445): its master, LAST, whether LAST has been answered, the request's entry, the stored answer, the
reassembly, when it was last used, and the tag of its DICT packets (R451). -/
structure Session where
  master   : Master
  last     : Nat
  answered : Bool
  index    : BitVec 16
  sub      : BitVec 8
  answer   : Option Answer
  reasm    : Option Reasm
  used     : Nat
  via      : Via
deriving DecidableEq, Repr

/-- A request that the chain head has forwarded (R451, R452): its tag, master, target role and SEQ, the tick of its last
segment, its entry once segment 0 has come, whether an answer segment has returned, whether it writes Umbra to MODE (R523), and, for a mailbox, the answer
segments gathered. -/
structure Fwd where
  tag    : BitVec 16
  enc    : Encap
  master : Master
  role   : Nat
  seq    : Nat
  index  : BitVec 16
  sub    : BitVec 8
  since  : Nat
  got    : Bool
  umbra  : Bool
  count  : Nat
  parts  : Table (List Byte)
deriving DecidableEq, Repr

/-- The field network port and the dictionary's requests: the link, its role, signal quality, sessions, forwarded
requests, mailbox requests waiting for their target (R479) with the next SEQ per role, window addresses (R463),
requests held (R461, R462), and the field network source slots that forwarded requests name (R451). -/
structure FieldNet where
  link    : Bool
  master  : Bool
  strapMs : Bool
  sqi     : BitVec 3
  sess    : List Session
  fwd     : List Fwd
  mbWait  : List (Nat × Nat)
  mbSeq   : Table Nat
  window  : List (Master × Nat)
  held    : List (Master × DictReq × Bool)
  sources : List (BitVec 64)
  clockUse : Nat
deriving DecidableEq, Repr

/-! ## PCI Express and DMA (R468 to R497) -/

/-- A mailbox (R477). -/
structure Mailbox where
  req   : BitVec 64
  st    : Nat
  alen  : Nat
  abort : Nat
  atype : Nat
  count : Word
  data  : Memory
deriving DecidableEq, Repr

/-- The configuration registers of one PCI Express function (R468): Command, BARs, Device Control, and Advanced Error Reporting with
ECRC generation and checking. -/
structure PcieCfg where
  command    : BitVec 16
  bar0       : DWord
  bar2       : DWord
  devCtl     : BitVec 16
  uncorr     : Word
  uncorrMask : Word
  uncorrSev  : Word
  corr       : Word
  corrMask   : Word
  ecrcGen    : Bool
  ecrcCheck  : Bool
deriving DecidableEq, Repr

/-- The PCI Express port (R468 to R481): the link, Bus Master Enable and D3hot of PF0, D3hot of PF1 (`d3b`), the configuration
registers of the functions, the mailboxes, and MSI-X: its Enable, its masks, what is pending, and its table. -/
structure Pcie where
  up      : Bool
  gen     : Nat
  width   : Nat
  trained : Nat
  bme     : Bool
  d3      : Bool
  d3b     : Bool
  fns     : Table PcieCfg
  mb      : Table Mailbox
  msixOn  : Bool
  mask    : List Nat
  fmask   : Bool
  pend    : List Nat
  msixTab : Memory
deriving DecidableEq, Repr

/-- A DMA descriptor accepted by a channel (R484, R485): its own address, its 64 bytes, the bundle context of a SUBMIT,
whether the engine was idle with nothing else accepted (R483), and the STATUS found so far. -/
structure Desc where
  id     : Nat
  inHost : Bool
  addr   : Nat
  data   : BitVec 512
  ctx    : Option SlotCtx
  job    : Option JobRef
  taken  : Nat
  lone   : Bool
  status : Nat
  done   : Nat
  moved  : Bool
deriving DecidableEq, Repr

/-- The CH_STATE values of R497 that the channel itself holds; WAITING and RUNNING follow from its queue. -/
inductive ChanState where
  | disabled | enabled | stopping
deriving DecidableEq, Repr

/-- A DMA channel (R482 to R486). -/
structure Chan where
  st      : ChanState
  head    : Nat
  tail    : Nat
  read    : Nat
  acc     : List Desc
  lastRun : Nat
  waits   : Option Nat
deriving DecidableEq, Repr

/-- The channel that holds the engine and the descriptors left in its batch (R483), the hold of R492, the tag of an
outstanding remote access and the bytes that one returned. -/
structure DmaRun where
  chan : Nat
  left : Nat
  hold : Option Nat
  tag  : Option (BitVec 16)
  data : Option (List Byte)
deriving DecidableEq, Repr

structure Dma where
  ch      : Table Chan
  run     : Option DmaRun
  takes   : Nat
  cqTail  : Nat
  cqHead  : Nat
  cqOn    : Bool
  cqPhase : Bool
deriving DecidableEq, Repr

/-! ## Power, modes and supplies (R514 to R528) -/

/-- The states of a power domain (R514). -/
inductive DomState where
  | off | waking | on
deriving DecidableEq, Repr

/-- Power, modes and supplies. `acts` holds the rails whose actions of R526 are in force: a rail's last until every rail is
out of warning. `modeWait` is the master of a MODE write that is answered when the change is applied, `bulkPause` the
bulk tier's pause through the set points (R520), `wakeLatch` the wake events with the mode a MODE write names (R522). -/
structure Power where
  straps    : Straps
  dom       : Table DomState
  mode      : Nat
  hold      : Bool
  tripped   : Bool
  changing  : Bool
  entering  : Bool
  waking    : Bool
  logicT    : Table Int
  warn      : BitVec 8
  latched   : BitVec 8
  wakeCause : BitVec 8
  wakeLatch : List (Nat × Option Nat)
  bulkPause : Bool
  modeWait  : Option Master
  acts      : BitVec 8
  inReset   : Bool
  noNew     : Bool
deriving DecidableEq, Repr

/-! ## Start-up, firmware and attestation (R529 to R557) -/

/-- BOOT_STATE of R557. -/
inductive BootState where
  | booting | serving | recovery
deriving DecidableEq, Repr

/-- The states of FW_STATE (R544). -/
inductive FwState where
  | idle | verifying | handingOver | confirming | committing
deriving DecidableEq, Repr

/-- What verification finds in a staged firmware image (R540 to R542), with the image's own header fields. -/
structure ImageInfo where
  version  : BitVec 32
  security : BitVec 16
  abi      : BitVec 16
  abiMin   : BitVec 16
  formatOk : Bool
  keyOk    : Bool
  sigOk    : Bool
  digest   : BitVec 256
  size     : Nat
deriving DecidableEq, Repr

/-- Start-up, firmware and attestation. `prev` is the previous ledger record (R535), `pcieTop` the top generation that B9
tried last (R529, R532), `restartAt` the tick of a self-restart (R533). `ringLost`: the page of the newest record is
lost; `ringAlt` is ALT_IN_FORCE as that page carries it (R536). -/
structure Boot where
  st        : BootState
  step      : Nat
  waitReset : Bool
  restartAt : Option Nat
  present   : Ledger
  ring      : List Ledger
  ringLost  : Bool
  ringAlt   : BitVec 12
  alt       : BitVec 12
  fw        : FwState
  fwCores   : Nat
  fwResult  : BitVec 8
  imageLost : Bool
  running   : ImageInfo
  committed : ImageInfo
  staged    : Option ImageInfo
  fwSince   : Nat
  floor     : BitVec 16
  attNonce  : List Byte
  attState  : Nat
  attReport : List Byte
  attCount  : Word
  stopped   : Bool
  fatal     : BitVec 64
  b4Done    : Bool
  prev      : Option Ledger
  pcieTop   : Nat
deriving DecidableEq, Repr

/-- What is set at manufacture (R1, R467, R497). -/
structure Ident where
  extended : Bool
  identity : BitVec 64
  mac      : BitVec 48
  silicon  : BitVec 8
  pcieIds  : BitVec 64
deriving DecidableEq, Repr

/-! ## The whole state -/

/-- The states of the boundary-scan controller (R582, IEEE 1149.1). -/
inductive TapState where
  | testLogicReset | runTest | selectDr | captureDr | shiftDr | exit1Dr | pauseDr | exit2Dr | updateDr
  | selectIr | captureIr | shiftIr | exit1Ir | pauseIr | exit2Ir | updateIr
deriving DecidableEq, Repr

/-- The data register that an instruction of the boundary-scan port selects: BYPASS, IDCODE, or the boundary register. -/
inductive TapInstr where
  | bypass | idcode | sample | extest
deriving DecidableEq, Repr

/-- The boundary-scan port (R582): its controller, the instruction in force, the instruction and data registers as they shift, and
what the boundary register drives. -/
structure Tap where
  st    : TapState
  instr : TapInstr
  ir    : List Bool
  dr    : List Bool
  out   : List Bool
deriving DecidableEq, Repr

structure State where
  pending : List Instr
  clk     : Clock
  seq     : Seq
  sync    : Table Word
  mem     : Memory
  host    : Memory
  arr     : Arrays
  disp    : Dispatch
  eng     : Engines
  str     : Streams
  bulkQ   : TierQ
  deepQ   : TierQ
  mig     : Migration
  awr     : ArrayWrites
  media   : Media
  casc    : Cascade
  net     : FieldNet
  pcie    : Pcie
  dma     : Dma
  pwr     : Power
  boot    : Boot
  ident   : Ident
  tap     : Tap
  ent     : Table Nat
  cnt     : Table Nat
  cntRem  : Table Nat
  holdMax : Nat
  out     : List Emit
  freeIx  : Nat
  nextId  : Nat
deriving DecidableEq, Repr

/-! ## Defaults and reset -/

/-- The nominal margin set (R98): GAIN_TRIM 128, DSCALE 65,536, TREF 85 °C, with its CHECK (log 5). -/
def nominalSet : BitVec 64 :=
  let body : Nat := 128 * 2 ^ 8 + 65536 * 2 ^ 18 + (85 + 64) * 2 ^ 44
  BitVec.ofNat 64 (body + (crc8 (leBytes 7 body)).toNat * 2 ^ 56)

/-- An array as the first start finds it: an addressable slot serves its own address (R60), a spare none. -/
def physDefault (n : Nat) : PhysArray :=
  { st := .idle, mapped := decide (n % 264 < 256), addrSlot := if n % 264 < 256 then BitVec.ofNat 8 (n % 264) else 0,
    qreason := 0, fence := 0, gen := false, maint := false, barred0 := none, barred1 := none, barred2 := none,
    epoch := 0, redEpoch := 0, tagsOpen := [], nextTag := 0, ageRet := 0, refreshes := 0, prevValid := false,
    lastMeas := 0, widened := false, beyond := false, waits := false, stuck := false, fresh := false, erases := 0, eraseOpen := false,
    progOpen := false, rowsOpen := 0, rowsDone := 0, loops := 0, failures := 0, source := none, measured := [],
    baseline := 0, baseTemp := 100, tempLog := [] }

/-- The record of an array that has never been fenced, erased or programmed (R384). -/
def arrRecDefault (_ : Nat) : ArrRec :=
  { st := .idle, qreason := 0, fence := 0, barred0 := none, barred1 := none, barred2 := none, epoch := 0, erases := 0,
    eraseOpen := false, progOpen := false }

/-- The identity map of R60: address bank × 256 + slot on the array of the same bank and slot. -/
def mapDefault (a : Nat) : MapEntry := { phys := a / 256 * 264 + a % 256, st := .served }

/-- SET0 nominal, SET1 zero (R123): key (array × 32 + group) × 2 + set. -/
def marginDefault (k : Nat) : BitVec 64 := if k % 2 = 0 then nominalSet else 0

def pllDefault (_ : Nat) : Pll := { locked := false, tries := 0, lost := false }

def domClkDefault (_ : Nat) : DomClk := { written := 0, src := 0, code := 0, sw := .steady, down := false }

def emptyRing : Ring := { base := 0, slots := 0, head := 0, tail := 0 }

/-- A receiver entry whose bits are all zero: KIND 0 and RSTATE ATTACHED (R314). -/
def recvDefault (_ : Nat) : Receiver :=
  { kind := 0, stream := 0, device := 0, lossless := false, rst := .attached, detachLag := 0, rejoinFree := 0,
    missed := 0, hostBase := 0, hostSlots := 0, hostTail := 0, hostHead := 0, missedSince := 0, gapNext := false,
    rewritten := false }

def streamDefault (_ : Nat) : StreamBlk :=
  { inb := emptyRing, outb := emptyRing, settings := 0, recvs := [], st := .disabled, enqueued := 0, misses := 0,
    jobReg := 0, cur := none, closing := [], pushq := [], placed := [], readRecs := [], missDone := [] }

def objDefault (_ : Nat) : Obj :=
  { exist := false, held := false, domain := 0, hints := 0, pinWait := [], size := 0, mapFirst := 0, holdSync := 0, holdValue := 0,
    holdTicks := 0 }

def tileDefault (_ : Nat) : Tile :=
  { tier := 0, dstTier := 0, moving := false, dirty := false, recopies := 0, poisoned := false, home := 0, dst := 0 }

def storeBlkDefault (_ : Nat) : StoreBlk :=
  { erases := 0, eraseOpen := false, wp := 0, erasing := false, suspended := false, suspends := 0, bad := false
    serves := none }

def extDefault (_ : Nat) : Extent :=
  { st := .unmapped, log := [], based := false, block := 0, written := 0, merging := [], next := none }

def nandBlkDefault (_ : Nat) : NandBlk := { erases := 0, reads := 0, bad := false, erasing := false }

def mapRoleDefault (_ : Nat) : MapRole :=
  { st := .vacant, rank := 0, master := false, head := false, epoch := 0, serial := 0 }

def noUnits : Units := { ctrl := 0, req := 0, rsp := 0 }

/-- A port that is DOWN, with every buffer credit of R411. -/
def portDefault (_ : Nat) : Port :=
  { st := .down, lanes := 0, slow := false, peerRole := 0, peerPort := 0, delay := 0, retrains := 0, step := 0,
    attempt := 0, peer := none, replay := [], nextSeq := 0, rxSeq := none, nakOwed := false, replays := 0,
    ctrl := 128, req := 4096, rsp := 4096, rxLeft := none, held := noUnits, back := noUnits, winFwd := 0, winLocal := 0 }

def mailboxDefault (_ : Nat) : Mailbox :=
  { req := 0, st := 0, alen := 0, abort := 0, atype := 0, count := 0, data := [] }

def chanDefault (_ : Nat) : Chan :=
  { st := .disabled, head := 0, tail := 0, read := 0, acc := [], lastRun := 0, waits := none }

def accDefault (_ : Nat) : LineAcc :=
  { clips := 0, missing := [], late := false, bitsMin := 0, bitsMax := 0, visible := false }

def emptyImage : ImageInfo :=
  { version := 0, security := 0, abi := 0, abiMin := 0, formatOk := true, keyOk := true, sigOk := true, digest := 0, size := 0 }

def emptyStraps : Straps :=
  { id := 0, rank := 0, head := false, stby := false, t1ms := false, clkOutEn := false, recovery := false }

/-- A ledger record in which no step has run. -/
def emptyLedger : Ledger :=
  { startNum := 1, cause := 0, rail := 0, streak := 0, results := List.replicate 12 0, altUsed := 0, first := none,
    unconf := false, recLoad := false, detail := 0, bootMs := 0, seconds := 0, version := 0 }

def lockReset : Lockstep :=
  { started := false, offset := 0, holds := [], later := [], readies := [], latest := 0, releaseAt := none, passed := false,
    checkAt := none, blocked := false, words := [] }

def emptyTierQ : TierQ := { reqs := [], given := [0, 0, 0], grants := 0 }

def Clock.reset : Clock :=
  { cycle := 0, ticks := 0, frac := 0, secTicks := 0, powered := 0, due := [], crystal := false,
    crystalLate := false, onLantern := false, plls := [], doms := [], outSel := 0, faults := 0,
    faultNow := 0, enable := 0, running := 0, lanternHz := 0, ratioLost := 0,
    srcWait := none }

def Seq.reset : Seq :=
  { st := .halted, pc := 0, regs := [], stack := [], planned := 0, stall := none, idle := none, access := none,
    excHead := 0, haltOwed := none, recent := [], syncLog := [], moveQ := [], taking := [] }

def Arrays.reset : Arrays :=
  { phys := [], cells := [], refs := [], map := [], shown := [], margin := [], backing := [], backingAge := [],
    dirty := [], temp := [], tempHist := [], slewEnd := [], peri := [],
    pass := { running := false, first := false, left := [], queued := false, banks := [], early := [] }, refreshReq := [],
    moves := [], rebuilds := [], hv := [], rechecks := [], replanned := 4096, ktemp := 100, ageA := 0 }

def Dispatch.reset : Dispatch := { ops := [], lastEnd := [], clockWait := none }

def Engines.reset : Engines :=
  { acc := [], sliceFree := [], lanes := [], mq := [], mrun := [], vq := [], vrun := [], sect := [], tables := [], tablePending := 0,
    wokeAt := [], offPending := [] }

def Migration.reset : Migration :=
  { bulkSize := 0, deepSize := 0, tileMapOn := false, objs := [], tiles := [], recs := [], held := [], oldLocs := [],
    parked := [] }

def Media.reset : Media :=
  { lib := [], index := [], libReserved := 0, map := [], arrs := [], openBlks := [], stored := [], blk := [], trans := [], waiting := [],
    writing := none, suspendAll := false, pageRuns := false, lastScrub := 0, savedSecs := 0, savedEvery := 600, ext := [], nblk := [],
    logBlk := none, targets := 0, nandIf := 0,
    nandRate := 0, cellType := 0, nandBlocks := 0, marksRead := false, marginLost := [], roDeep := false, deepLost := false,
    deepHold := false, bulkHold := false, bulkLost := false }

def Cascade.reset : Cascade :=
  { role := 0, roleV := false, isHead := false, map := [], ports := [], routes := [], routeWait := [], sendWait := [],
    given := none, remote := [], rbinds := [], credits := [], lock := lockReset, watch := none, silent := [], suspended := [], shade := .none,
    bars := [], shades := [], heard := [], told := [], links := [] }

def FieldNet.reset : FieldNet :=
  { link := false, master := false, strapMs := false, sqi := 0, sess := [], fwd := [], mbWait := [], mbSeq := [],
    window := [], held := [], sources := [], clockUse := 0 }

/-- The configuration registers after a reset of their function: those of the PCI Express Base Specification (log 130). -/
def pcieCfgDefault (_ : Nat) : PcieCfg :=
  { command := 0, bar0 := 0, bar2 := 0, devCtl := 0x2000, uncorr := 0, uncorrMask := 0, uncorrSev := 0x462030, corr := 0
    corrMask := 0x2000, ecrcGen := false, ecrcCheck := false }

def Pcie.reset : Pcie :=
  { up := false, gen := 0, width := 0, trained := 0, bme := false, d3 := false, d3b := false, fns := [], mb := [], msixOn := false
    mask := List.range 64, fmask := false, pend := [], msixTab := [] }

def Dma.reset : Dma :=
  { ch := [], run := none, takes := 0, cqTail := 0, cqHead := 0, cqOn := false, cqPhase := true }

/-- The power state after reset: MODE at the default of MODE_START (1, R528). -/
def Power.reset : Power :=
  { straps := emptyStraps, dom := [], mode := 1, hold := false, tripped := false, changing := false,
    entering := false, waking := false, logicT := [], warn := 0, latched := 0, wakeCause := 0, wakeLatch := [],
    bulkPause := false, modeWait := none, acts := 0, inReset := true, noNew := false }

def Boot.reset : Boot :=
  { st := .booting, step := 0, waitReset := false, restartAt := none, present := emptyLedger, ring := [], ringLost := false, ringAlt := 0, alt := 0,
    fw := .idle, fwCores := 0, fwResult := 0, imageLost := false, running := emptyImage, committed := emptyImage,
    staged := none, fwSince := 0, floor := 0, attNonce := List.replicate 32 0, attState := 0, attReport := [],
    attCount := 0, stopped := false, fatal := 0, b4Done := false,
    prev := none, pcieTop := 0 }

/-- The boundary-scan port after power-on. -/
def Tap.reset : Tap := { st := .testLogicReset, instr := .idcode, ir := [], dr := [], out := [] }

def Ident.reset : Ident := { extended := false, identity := 0, mac := 0, silicon := 1, pcieIds := 0 }

/-- The machine right after reset, before boot step B0 ends (R529): every register at the value its rule gives, or at
the value log 5 names. -/
def State.reset : State :=
  { pending := [], clk := Clock.reset, seq := Seq.reset, sync := [], mem := [], host := [], arr := Arrays.reset,
    disp := Dispatch.reset, eng := Engines.reset, str := { blk := [], missHead := 0, enable := none }, bulkQ := emptyTierQ,
    deepQ := emptyTierQ, mig := Migration.reset, awr := { ws := [] }, media := Media.reset, casc := Cascade.reset,
    net := FieldNet.reset, pcie := Pcie.reset, dma := Dma.reset, pwr := Power.reset, boot := Boot.reset,
    ident := Ident.reset, tap := Tap.reset, ent := [], cnt := [], cntRem := [], holdMax := 0, out := [], freeIx := 0, nextId := 0 }

end Sys2Proof.Machine
end

