-- ==== Sys2Proof/Machine/Ops.lean ====
section
/-!
DEFINITION. The named operations that every chapter's commands share: settings, counters (R559 to R562), sync objects
(R139), scalar registers (R163), time and results that fall due (R142, R167, R305), exception records (R171 to R175),
marking jobs failed (R133), halting the sequencer (R177), and what the device emits.
-/
namespace Sys2Proof.Machine

/-- What a command answers. -/
abbrev Result := Host.Outcome State Fault Refusal

/-! ## Parts of the state -/

def State.modClk (s : State) (f : Clock → Clock) : State := { s with clk := f s.clk }
def State.modSeq (s : State) (f : Seq → Seq) : State := { s with seq := f s.seq }
def State.modArr (s : State) (f : Arrays → Arrays) : State := { s with arr := f s.arr }
def State.modDisp (s : State) (f : Dispatch → Dispatch) : State := { s with disp := f s.disp }
def State.modEng (s : State) (f : Engines → Engines) : State := { s with eng := f s.eng }
def State.modMig (s : State) (f : Migration → Migration) : State := { s with mig := f s.mig }
def State.modMedia (s : State) (f : Media → Media) : State := { s with media := f s.media }
def State.modCasc (s : State) (f : Cascade → Cascade) : State := { s with casc := f s.casc }
def State.modNet (s : State) (f : FieldNet → FieldNet) : State := { s with net := f s.net }
def State.modPcie (s : State) (f : Pcie → Pcie) : State := { s with pcie := f s.pcie }
def State.modDma (s : State) (f : Dma → Dma) : State := { s with dma := f s.dma }
def State.modPwr (s : State) (f : Power → Power) : State := { s with pwr := f s.pwr }
def State.modBoot (s : State) (f : Boot → Boot) : State := { s with boot := f s.boot }

/-- What leaves the device is appended to `out` (log 12). -/
def State.emit (s : State) (e : Emit) : State := { s with out := s.out ++ [e] }

/-- The next free value's index is taken (log 3). -/
def State.takeFree (s : State) : State := { s with freeIx := s.freeIx + 1 }

/-- The next `n` free values are used up. -/
def State.takeFrees (s : State) (n : Nat) : State := { s with freeIx := s.freeIx + n }

/-- `n` free bytes, and a free address. -/
def State.freeBytes (s : State) (n : Nat) : List Byte := (List.range n).map (fun i => Config.freeByte (s.freeIx + i))
def State.freeAddr (s : State) : Nat := Config.freeNat s.freeIx % 2 ^ 48

/-- An access that crosses the clocks of some ratios of R504, as bits: while one of those ratios is broken it may be lost,
repeated or altered with no error report (log 9). -/
def crossing (rs : BitVec 3) (s : State) (access altered : State → State) : Result :=
  .next (if s.clk.ratioLost &&& rs ≠ 0 then
    let t := s.takeFree
    match Config.freeNat s.freeIx % 4 with
    | 0 => t
    | 1 => access t
    | 2 => access (access t)
    | _ => altered t
  else access s)

/-- The next identity of an operation. -/
def State.takeId (s : State) : State := { s with nextId := s.nextId + 1 }

/-- Write bytes of the device memory. -/
def State.putMem (s : State) (a : Nat) (bs : List Byte) : State := { s with mem := Memory.puts s.mem a bs }

/-- Write bytes of host memory. -/
def State.putHost (s : State) (a : Nat) (bs : List Byte) : State := { s with host := Memory.puts s.host a bs }

/-! ## Settings and counters -/

/-- The value of a setting. -/
def State.ent? (s : State) (i j : Nat) : Nat := tget entDefault s.ent (ekey i j)

/-- Write a setting. -/
def State.setEnt (s : State) (i j v : Nat) : State := { s with ent := tset entDefault s.ent (ekey i j) v }

def zeroNat : Nat → Nat := fun _ => 0

/-- A counter of area 0x6000. -/
def State.cnt? (s : State) (i j : Nat) : Nat := tget zeroNat s.cnt (ekey i j)

/-- Add to a counter, saturating at 0xFFFF (R561). -/
def State.addCnt (s : State) (i j n : Nat) : State :=
  { s with cnt := tset zeroNat s.cnt (ekey i j) (min 0xFFFF (s.cnt? i j + n)) }

/-- The classes of R558: their subindexes in 0x6001; 0 is an event without a class. -/
def clsNone : Nat := 0
def clsCorrected : Nat := 1
def clsDegraded : Nat := 2
def clsRecovered : Nat := 3
def clsFailed : Nat := 4
def clsFatal : Nat := 5

/-- Add 1 to the total of a class (R559). -/
def State.addClass (s : State) (cls : Nat) : State := if cls = 0 then s else s.addCnt 0x6001 cls 1

/-- Count one event and its class (R559). -/
def State.count (s : State) (i j cls : Nat) : State := (s.addCnt i j 1).addClass cls

/-- Count elements: 1 each, and the class once when any was counted (R559, R562). -/
def State.countElems (s : State) (i j n cls : Nat) : State :=
  if n = 0 then s else (s.addCnt i j n).addClass cls

/-- Count cycles: 1 per 1,024, with a hidden 10-bit remainder (R562). -/
def State.countCycles (s : State) (i j n : Nat) : State :=
  let t := tget zeroNat s.cntRem (ekey i j) + n
  { s.addCnt i j (t / 1024) with cntRem := tset zeroNat s.cntRem (ekey i j) (t % 1024) }

/-! ## Sync objects and scalar registers -/

def zeroWord : Nat → Word := fun _ => 0
def zeroDWord : Nat → DWord := fun _ => 0

/-- The value of a sync object (R139). -/
def State.y (s : State) (n : Nat) : Word := tget zeroWord s.sync n

def State.roleOf (s : State) (r : Nat) : MapRole := tget mapRoleDefault s.casc.map r

/-- The members of this device's rank: the roles ACTIVE in its rank. -/
def State.rankMembers (s : State) : List Nat :=
  if s.casc.roleV then
    (List.range 32).filter (fun r => decide ((s.roleOf r).st = .active)
      && decide ((s.roleOf r).rank = (s.roleOf s.casc.role.toNat).rank))
  else []

/-- RANK_SIZE. -/
def State.rankSize (s : State) : Nat := s.rankMembers.length

/-- The device runs in a rank of two or more devices (R179). -/
def State.inRank (s : State) : Bool := decide (2 ≤ s.rankSize)

/-- The changes of sync objects that a check of the last 24 cycles may still have to leave out (R418). -/
def State.noteSync (s : State) (n seen : Nat) : List (Nat × Nat × Word) :=
  if s.inRank then s.seq.syncLog.filter (fun e => decide (s.clk.cycle ≤ e.1 + 24)) ++ [(seen, n, s.y n)] else s.seq.syncLog

/-- A sync object takes a value, which a check or a WAIT sees from cycle `seen` on (R142). -/
def State.yPut (s : State) (n : Nat) (v : Word) (seen : Nat) : State :=
  { s with sync := tset zeroWord s.sync n v, seq := { s.seq with syncLog := s.noteSync n seen } }

/-- A set replaces the value (R139). -/
def State.ySet (s : State) (n : Nat) (v : Word) : State := s.yPut n v (s.clk.cycle + 1)

/-- A signal adds its amount modulo 2^32 (R139). -/
def State.yAdd (s : State) (n : Nat) (v : Word) : State := s.ySet n (s.y n + v)

/-- The state with its sync objects as a check in cycle `c` sees them (R142, R418). -/
def State.asOf (s : State) (c : Nat) : State :=
  { s with sync := s.seq.syncLog.foldr (fun e m => if c < e.1 then tset zeroWord m e.2.1 e.2.2 else m) s.sync }

/-- A scalar register; X0 reads zero (R163). -/
def State.x (s : State) (r : BitVec 5) : DWord := if r = 0 then 0 else tget zeroDWord s.seq.regs r.toNat

/-- Write a scalar register; writes to X0 are discarded (R163). -/
def State.xSet (s : State) (r : BitVec 5) (v : DWord) : State :=
  if r = 0 then s else s.modSeq (fun q => { q with regs := tset zeroDWord q.regs r.toNat v })

/-! ## Fixed addresses (R320, R321) -/

def bufferSize : Nat := 96 * 1024 * 1024
def ibufBase : Nat := 0x10000000
def syncBase : Nat := 0x10400000
def excBase : Nat := 0x10420000
def streamBase : Nat := 0x10430000
def arrayBase : Nat := 0x10440000
def marginBase : Nat := 0x10500000
def objectBase : Nat := 0x11000000
def tileMapBase : Nat := 0x12000000
def arrayWindow : Nat := 0x100000000
def bulkBase : Nat := 0x200000000
def deepBase : Nat := 0x10000000000
def objectWindow : Nat := 0x100000000000
def tileSize : Nat := 131072

/-- Whether bytes `a` to `a + n - 1` lie in the buffer tier. -/
def inBuffer (a n : Nat) : Bool := decide (a + n ≤ bufferSize)

/-- The end of the usable bulk tier: below the top 16 MiB, which hold the tile map (R323). -/
def State.bulkEnd (s : State) : Nat := bulkBase + (s.mig.bulkSize - 16 * 1024 * 1024)

/-- Whether bytes lie in the bulk tier (R322, R323). -/
def State.inBulk (s : State) (a n : Nat) : Bool := decide (bulkBase ≤ a) && decide (a + n ≤ s.bulkEnd)

/-- Whether bytes lie in the deep tier (R322). -/
def State.inDeep (s : State) (a n : Nat) : Bool :=
  decide (deepBase ≤ a) && decide (a + n ≤ deepBase + s.mig.deepSize)

/-- Whether bytes lie in the buffer or the bulk tier. -/
def State.inBufBulk (s : State) (a n : Nat) : Bool := inBuffer a n || s.inBulk a n

/-! ## Streams and jobs (R133, R286, R288) -/

def State.stream (s : State) (n : Nat) : StreamBlk := tget streamDefault s.str.blk n

def State.setStream (s : State) (n : Nat) (b : StreamBlk) : State :=
  { s with str := { s.str with blk := tset streamDefault s.str.blk n b } }

def State.modStream (s : State) (n : Nat) (f : StreamBlk → StreamBlk) : State := s.setStream n (f (s.stream n))

/-- The current job of a stream, or one that JOB_DONE closes in this very cycle (R291). -/
def StreamBlk.jobIn (b : StreamBlk) (cycle : Nat) : Option Job :=
  b.cur.orElse (fun _ => b.closing.find? (fun j => j.byDone && decide (j.closed = cycle)))

/-- The job that an operation of a bundle belongs to (R133, R291): that of stream TAG, from its JOB_TAKE to its JOB_DONE,
both included; a job that a later slot of the bundle takes is one of them (log 89). -/
def State.jobOf (s : State) (c : SlotCtx) : Option JobRef :=
  if c.tagv then
    (((s.stream c.tag.toNat).jobIn s.clk.cycle).map (fun j => { stream := c.tag.toNat, num := j.num : JobRef })).orElse
      (fun _ => (s.seq.taking.find? (fun t => decide (t.1.stream = c.tag.toNat))).map (fun t => t.1))
  else none

/-- Mark one job failed, keeping the cause of its first exception (R133, R293). -/
def Job.fail (j : Job) (cause : BitVec 8) : Job :=
  { j with failed := true, cause := if j.cause = 0 then cause else j.cause }

/-- Apply a function to the job of a stream that has a given number, current or closing. -/
def StreamBlk.modJob (b : StreamBlk) (num : Nat) (f : Job → Job) : StreamBlk :=
  { b with
    cur := b.cur.map (fun j => if j.num = num then f j else j)
    closing := b.closing.map (fun j => if j.num = num then f j else j) }

/-- FAILED_SO_FAR of the job register block, once the block shows the job (R287). -/
def StreamBlk.showFailed (b : StreamBlk) (num : Nat) : StreamBlk :=
  if b.jobReg.getLsbD 544 && decide (bits b.jobReg.toNat 512 32 = num % 2 ^ 32) then
    { b with jobReg := b.jobReg ||| (1#1024 <<< 545) }
  else b

/-- Mark a job failed (R133): one that the bundle in issue is still to take is failed when it is taken. -/
def State.failJob (s : State) (j : Option JobRef) (cause : BitVec 8) : State :=
  match j with
  | none => s
  | some r =>
    (s.modStream r.stream (fun b => (b.modJob r.num (fun k => k.fail cause)).showFailed r.num)).modSeq (fun q => { q with
      taking := q.taking.map (fun t => if t.1 = r ∧ t.2 = 0 then (t.1, cause) else t) })

/-- The job register block of a take becomes readable, or VALID becomes 0 (R167, R287, R289). -/
def StreamBlk.showJob (b : StreamBlk) (v : Option (BitVec 1024)) : StreamBlk :=
  match v with
  | none => { b with jobReg := b.jobReg &&& ~~~(1#1024 <<< 544) }
  | some r =>
    let c : StreamBlk := { b with jobReg := r }
    match (b.cur.toList ++ b.closing).find? (fun j => decide (j.num % 2 ^ 32 = bits r.toNat 512 32)) with
    | some j => if j.failed then c.showFailed j.num else c
    | none => c

/-- A job closed by a halt (R177): CLOSING with FAILED and HALTED. -/
def StreamBlk.haltClose (b : StreamBlk) (now : Nat) : StreamBlk :=
  match b.cur with
  | none => b
  | some j =>
    { b with cur := none
             closing := b.closing ++ [{ j with failed := true, halted := true, closed := now, byDone := false }] }.showFailed
        j.num

/-- The sixteen stream numbers. -/
def streamNums : List Nat := List.range 16

/-- Every current job of every stream is closed failed (R177). -/
def State.closeCurrent (s : State) : State :=
  streamNums.foldl (fun t n => t.setStream n ((t.stream n).haltClose t.clk.cycle)) s

/-- The stall that ends is counted in cycles (R128). -/
def countStall (s : State) : State :=
  match s.seq.stall with
  | some x => s.countCycles 0x6004 2 (s.clk.cycle - x.since)
  | none => s

/-- The sequencer halts (R177): it issues nothing more, and every current job closes failed. Operations already issued
run on. -/
def State.haltSeq (s : State) (how : SeqState) : State :=
  ((countStall s).modSeq (fun q => { q with st := how, stall := none, idle := none, haltOwed := none })).closeCurrent

/-! ## Rank and role (R397 to R401) -/

/-- This device is its rank's master; a single device is its own (R17). -/
def State.isRankMaster (s : State) : Bool := !s.inRank || (s.roleOf s.casc.role.toNat).master

/-- Whether a role is present in the system (R141, R401): ACTIVE or STANDBY. -/
def State.rolePresent (s : State) (r : Nat) : Bool :=
  decide ((s.roleOf r).st = .active) || decide ((s.roleOf r).st = .standby)

/-- RANK_CYCLE: it counts from the rank's START (R416). -/
def State.rankCycle (s : State) : Nat :=
  if s.casc.lock.started then ((s.clk.cycle : Int) + s.casc.lock.offset).toNat else 0

/-- The sequencer cycle of a RANK_CYCLE value, as bits [23:0] name it: the nearest one to now (R416). -/
def State.cycleOfRank (s : State) (v : Nat) : Nat :=
  let d := (v + 2 ^ 24 - s.rankCycle % 2 ^ 24) % 2 ^ 24
  if d < 2 ^ 23 then s.clk.cycle + d else s.clk.cycle + d - 2 ^ 24

/-! ## The links of the chain (R399 to R405) -/

def State.port (s : State) (k : Nat) : Port := tget portDefault s.casc.ports k

def State.modPort (s : State) (k : Nat) (f : Port → Port) : State :=
  s.modCasc (fun c => { c with ports := tmod portDefault c.ports k f })

def portNums : List Nat := List.range 4

/-- The bits of a part identity that name a device in the system map (R401). -/
def lowId (x : BitVec 64) : Word := x.truncate 32

/-- This device as the map names it. -/
def State.myNode (s : State) : Word := lowId s.ident.identity

/-- The device that holds a role, or held it when it was declared dead (R401). -/
def State.nodeOf (s : State) (r : Nat) : Word :=
  if s.casc.roleV ∧ r = s.casc.role.toNat then s.myNode else (s.roleOf r).serial

/-- A link that has come up and has not gone DOWN since: one that retrains keeps its routes (R405, R413). -/
def Port.alive (p : Port) : Bool := decide (p.st = .up) || (decide (p.st = .training) && decide (p.lanes ≠ 0))

/-- The two directions of a link. -/
def FarLink.hops (l : FarLink) : List Hop :=
  [{ src := l.serialA, port := l.portA.toNat, dst := l.serialB, delay := l.delay.toNat },
   { src := l.serialB, port := l.portB.toNat, dst := l.serialA, delay := l.delay.toNat }]

/-- The links of this device's own ports. -/
def State.ownLinks (s : State) : List FarLink :=
  portNums.filterMap (fun k =>
    let p := s.port k
    if p.alive then p.peer.map (fun r => { serialA := s.myNode, portA := BitVec.ofNat 2 k, serialB := lowId r.serial,
                                           portB := r.port, delay := p.delay })
    else none)

/-- Every hop that packets can take: over this device's ports and over the links between other devices that are UP. -/
def State.hops (s : State) : List Hop :=
  (s.ownLinks ++ (s.casc.links.filter (fun l => decide (l.2 = .up))).map (fun l => l.1)).flatMap FarLink.hops

/-- The devices from which another is reached in at most `n` hops. -/
def ball (h : List Hop) (dst : Word) : Nat → List Word
  | 0 => [dst]
  | n + 1 =>
    let b := ball h dst n
    b ++ ((h.filter (fun e => b.contains e.dst && !b.contains e.src)).map (fun e => e.src)).eraseDups

/-- The hops from a device to another, when there is a path. -/
def hopsTo (h : List Hop) (dst src : Word) : Option Nat := (List.range 32).find? (fun n => (ball h dst n).contains src)

/-- The first hop of the path of fewest hops, over the lowest port (R405). -/
def nextHop (h : List Hop) (dst src : Word) : Option Hop :=
  match hopsTo h dst src with
  | some (n + 1) =>
    let b := ball h dst n
    (List.range 4).findSome? (fun k => h.find? (fun e => decide (e.src = src) && decide (e.port = k) && b.contains e.dst))
  | _ => none

/-- The hops of that path, at most `n`. -/
def pathTo (h : List Hop) (dst : Word) : Nat → Word → List Hop
  | 0, _ => []
  | n + 1, src => match nextHop h dst src with | none => [] | some e => e :: pathTo h dst n e.dst

/-- The route of an ordered pair of roles: the port over which its source sends (R405). -/
def State.routeOf (s : State) (src dst : Nat) : Option Nat := (nextHop s.hops (s.nodeOf dst) (s.nodeOf src)).map (fun e => e.port)

/-! ## Flits (R407, R411, R412) -/

def Units.get (u : Units) (c : Nat) : Nat := if c = 0 then u.ctrl else if c = 1 then u.rsp else u.req

def Units.set (u : Units) (c n : Nat) : Units :=
  if c = 0 then { u with ctrl := n } else if c = 1 then { u with rsp := n } else { u with req := n }

/-- The CREDITS field that returns freed units, and what it leaves for a later flit (R407). -/
def Units.credits (u : Units) : Nat := min 255 u.ctrl + min 4095 u.req * 2 ^ 8 + min 4095 u.rsp * 2 ^ 20

def Units.rest (u : Units) : Units := { ctrl := u.ctrl - 255, req := u.req - 4095, rsp := u.rsp - 4095 }

/-- A flit as a port sends it: LINK_HEADER, units, CREDITS and CRC (R407). -/
def flitBytes (p : Port) (ftype seq lock : Nat) (nak : Bool) (units : List Byte) : List Byte :=
  let head := ftype + seq * 2 ^ 2 + p.rxSeq.getD 0 * 2 ^ 14 + b2n p.rxSeq.isSome * 2 ^ 26 + b2n nak * 2 ^ 27 + lock * 2 ^ 32
  let body := leBytes 8 head ++ (units ++ List.replicate (112 - units.length) 0) ++ leBytes 4 p.back.credits
  body ++ leBytes 4 (crc32 body).toNat

/-- A port sends a flit: freed units are returned with it (R411). -/
def State.sendFlit (s : State) (k ftype seq lock : Nat) (nak : Bool) (units : List Byte) : State :=
  (s.modPort k (fun q => { q with back := q.back.rest })).emit (.flit k (flitBytes (s.port k) ftype seq lock nak units))

/-- A link that passes flits. -/
def State.linked (s : State) (k : Nat) : Bool := decide ((s.port k).st = .up) || decide ((s.port k).st = .quarantine)

/-- An IDLE flit; its SEQ is 0 (log 40). -/
def State.sendIdle (s : State) (k lock : Nat) (nak : Bool) : State := s.sendFlit k 0 0 lock nak []

/-! ## Lockstep words (R417) -/

/-- The hops between members of this device's rank: words travel on rank links (R417). -/
def State.rankHops (s : State) : List Hop :=
  let ms := s.rankMembers.map s.nodeOf
  s.hops.filter (fun e => ms.contains e.src && ms.contains e.dst)

/-- The path of a word between two members. -/
def State.lockPath (s : State) (src dst : Nat) : List Hop := pathTo s.rankHops (s.nodeOf dst) 4 (s.nodeOf src)

/-- The LINK_DELAY of a word's path to this device (R404, R420). -/
def State.pathDelay (s : State) (src : Nat) : Nat := ((s.lockPath src s.casc.role.toNat).map (fun e => e.delay)).sum

/-- The UP ports cabled to members of the rank. -/
def State.rankPorts (s : State) : List Nat :=
  portNums.filter (fun k => decide ((s.port k).st = .up)
    && s.rankHops.any (fun e => decide (e.src = s.myNode) && decide (e.port = k)))

/-- The rank ports over which the words of a member leave this device, toward the members that need them (R417). -/
def State.wordPorts (s : State) (origin : Nat) : List Nat :=
  s.rankPorts.filter (fun k => s.rankMembers.any (fun m =>
    (s.lockPath origin m).any (fun e => decide (e.src = s.myNode) && decide (e.port = k))))

/-- A lockstep word leaves over some ports, each in the next flit (R407, R417). -/
def State.putLock (s : State) (ports : List Nat) (t : BitVec 3) (origin : BitVec 5) (v : Nat) : State :=
  ports.foldl (fun u k => u.sendIdle k (t.toNat + origin.toNat * 2 ^ 3 + v % 2 ^ 24 * 2 ^ 8) false) s

/-- Send a lockstep word of this device on every rank link (R417). -/
def State.sendLock (s : State) (t : BitVec 3) (v : Nat) : State := s.putLock s.rankPorts t s.casc.role v

/-- A lockstep word of another member goes on (R417). -/
def State.forwardLock (s : State) (origin : BitVec 5) (t : BitVec 3) (v : Nat) : State :=
  s.putLock (s.wordPorts origin.toNat) t origin v

/-- Insert a due result after every earlier or equal cycle. -/
def insertDue (k : Nat) (d : Due) : List (Nat × Due) → List (Nat × Due)
  | [] => [(k, d)]
  | (j, e) :: t => if k < j then (k, d) :: (j, e) :: t else (j, e) :: insertDue k d t

/-- Schedule a result for a cycle. -/
def State.schedule (s : State) (k : Nat) (d : Due) : State :=
  s.modClk (fun c => { c with due := insertDue k d c.due })

/-- A signal takes effect in the present cycle: after the changes of this cycle's sync slots, and a WAIT sees it in the next
(R142, R144). -/
def State.signalBy (s : State) (obj : BitVec 14) (amount : Word) : State :=
  s.schedule (s.clk.cycle + 1) (.signal obj amount)

def State.signal (s : State) (obj : BitVec 14) : State := s.signalBy obj 1

/-- HALT names the cycle 48 cycles after the event; bundles issue up to it, and then each member halts (R421). The rank master
halts as `d` says; another member tells the master, and halts on the HALT of the master (log 112). -/
def State.rankHaltAll (s : State) (d : Due) : State :=
  let t := s.sendLock 7 (bits (s.rankCycle + 48) 0 24)
  if s.isRankMaster then t.schedule (s.clk.cycle + 49) d else t

/-- The present bundle's waits are treated as held, and it is still to issue (R176, R313). -/
def State.waitsHeld (s : State) : Bool := match s.seq.stall with | some x => x.held | none => false

/-- Issue goes on, or the halt that a HALT slot or EXC_POLICY 1 owes is carried out at the end of the bundle (R135,
R175), which a broken wait lets issue first (R313); in a rank the halt of a fault is the rank's (R421). -/
def State.settleHalt (s : State) : State :=
  if s.waitsHeld then s
  else
    match s.seq.haltOwed with
    | some .faultHalted =>
      if s.inRank then (s.modSeq (fun q => { q with haltOwed := none })).rankHaltAll (.halt true)
      else s.haltSeq .faultHalted
    | some how => s.haltSeq how
    | none => s

/-- The sequencer is running: it issues, or would (R182). -/
def State.seqActive (s : State) : Bool := decide (s.seq.st ≠ .halted) && decide (s.seq.st ≠ .faultHalted)

/-! ## Exception records (R171 to R175) -/

def causeUndef : BitVec 8 := 1
def causeRange : BitVec 8 := 2
def causeDesc : BitVec 8 := 3
def causeBus : BitVec 8 := 4
def causeStack : BitVec 8 := 5
def causeWait : BitVec 8 := 6
def causeDict : BitVec 8 := 7
def causeTrap : BitVec 8 := 8
def causeEcc : BitVec 8 := 9
def causeLockstep : BitVec 8 := 10
def causeNoPeer : BitVec 8 := 11
def causeOpFailed : BitVec 8 := 12

/-- The 32 bytes of an exception record (R173). -/
def ExcRec.bytes (r : ExcRec) : List Byte :=
  leBytes 32 (r.bundle.toNat + r.slot.toNat * 2 ^ 16 + r.cause.toNat * 2 ^ 20 + r.tag.toNat * 2 ^ 28
    + b2n r.tagv * 2 ^ 32 + b2n r.halted * 2 ^ 33 + r.detail.toNat * 2 ^ 48 + (r.cycle % 2 ^ 64) * 2 ^ 64
    + r.opTag.toNat * 2 ^ 128 + (r.addr % 2 ^ 48) * 2 ^ 144)

/-- The second counter that a record of some causes is counted in (R559, R563). -/
def State.countCause (s : State) (cause : BitVec 8) (detail : BitVec 16) : State :=
  if cause = causeTrap then s.addCnt 0x6004 7 1
  else
    let t := s.count 0x6004 1 clsFailed
    if cause = causeEcc then t.addCnt 0x6004 6 1
    else if cause = causeLockstep then t.addCnt 0x6004 9 1
    else if cause = causeWait then (if detail = 0 then t.addCnt 0x6004 8 1 else t.addCnt 0x6008 3 1)
    else t

/-- Whether a cause halts the sequencer under EXC_POLICY 1 (R175). -/
def State.policyHalts (s : State) (cause : BitVec 8) : Bool :=
  decide (s.ent? 0x4100 5 = 1) && decide (cause ≠ causeTrap) && decide (cause ≠ causeEcc)
    && decide (cause ≠ causeLockstep)

/-- Record k goes to offset 32 * (k mod 256) of the exception ring, and EXC_HEAD counts it (R172). -/
def State.writeExc (s : State) (r : ExcRec) : State :=
  { s with mem := Memory.puts s.mem (excBase + 32 * (s.seq.excHead.toNat % 256)) r.bytes
           seq := { s.seq with excHead := s.seq.excHead + 1 } }

/-- An exception becomes visible: the record, its counters, the failed job (R133, R171), and the halt that EXC_POLICY
owes unless the sequencer has halted already (R175). A TRAP marks no job. -/
def State.raiseExc (s : State) (r : ExcRec) : State :=
  let halts := s.policyHalts r.cause && s.seqActive
  let t := (s.writeExc { r with halted := r.halted || halts }).countCause r.cause r.detail
  let u := if r.cause = causeTrap then t else t.failJob r.job r.cause
  if halts then u.modSeq (fun q => { q with haltOwed := some .faultHalted }) else u

/-- An exception record of a slot, at the present cycle. -/
def State.slotRec (s : State) (c : SlotCtx) (cause : BitVec 8) (detail : Nat) : ExcRec :=
  { bundle := c.bundle, slot := c.slot, cause := cause, tag := c.tag, tagv := c.tagv, halted := false,
    detail := BitVec.ofNat 16 detail, cycle := s.clk.cycle, opTag := 0, addr := 0, job := s.jobOf c }

/-- A slot fault of this cycle (R171). -/
def State.slotFault (s : State) (c : SlotCtx) (cause : BitVec 8) (detail : Nat) : State :=
  s.raiseExc (s.slotRec c cause detail)

/-- An operation that ends failed after its issue: cause OP_FAILED against its job (R174, R575). -/
def State.opFailed (s : State) (c : SlotCtx) (job : Option JobRef) (opTag : BitVec 16) (detail : Nat) : State :=
  s.raiseExc { s.slotRec c causeOpFailed detail with opTag := opTag, job := job }

/-! ## Time (R142, R167, R305) -/

/-- Sub-tick units in a tick: the least unit in which every sequencer clock's cycle is whole (log 2). -/
def tickUnits : Nat := 17072

def State.domClk (s : State) (k : Nat) : DomClk := tget domClkDefault s.clk.doms k

/-- The division of SEQ_CLK as it acts: DIV + 1 while VDD_CORE or VDD_SRAM is in warning (R526). -/
def State.seqDiv (s : State) : Nat :=
  (s.domClk 0).code + (if s.pwr.acts.getLsbD 0 || s.pwr.acts.getLsbD 1 then 1 else 0)

/-- The length of a sequencer cycle in sub-tick units: SEQ_PLL at 2,200 MHz gives 88 cycles per tick, and at 2,134 MHz
while it refers to the lantern 85.36 (R510); the crystal gives one tick, and the lantern 16 MHz gives 25 ticks in 16
cycles (R305, R498, R502). -/
def State.cycleUnits (s : State) : Nat :=
  let src := (s.domClk 0).src
  (if src = 0 then (if s.clk.onLantern then 200 else 194) else if src = 1 then tickUnits else 26675) * 2 ^ s.seqDiv

/-- A result takes effect. -/
def State.applyDue (s : State) (d : Due) : State :=
  match d with
  | .reg r v _ => s.xSet r v
  | .store a bs _ => s.putMem a bs
  | .signal o v => s.yPut o.toNat (s.y o.toNat + v) s.clk.cycle
  | .exc r => (s.raiseExc r).settleHalt
  | .jobReg n v => s.modStream n (fun b => b.showJob v)
  | .halt fault => if s.seqActive then s.haltSeq (if fault then .faultHalted else .halted) else s
  | .lockstep r => if s.seqActive then (s.raiseExc r).haltSeq .faultHalted else s

/-- Add ticks, and whole seconds of power (R305, R467). -/
def Clock.addTicks (c : Clock) (n : Nat) : Clock :=
  { c with ticks := c.ticks + n
           powered := c.powered + (c.secTicks + n) / 25000000
           secTicks := (c.secTicks + n) % 25000000 }

/-- The clock moves on by `n` sequencer cycles. -/
def State.advance (s : State) (n : Nat) : State :=
  let u := s.clk.frac + n * s.cycleUnits
  s.modClk (fun c => { (c.addTicks (u / tickUnits)) with cycle := c.cycle + n, frac := u % tickUnits })

/-- Time passes up to cycle `k`: each result that falls due takes effect in its own cycle, in order, with those that it
schedules in turn: of a load and an ADDI whose results are readable in one cycle, the load's stands (R129, log 97). A result
due at the present cycle that stands in the list longer than the count reaches waits for the next passage of time. -/
def drainDue (k : Nat) : Nat → State → State
  | 0, s => s.advance (k - s.clk.cycle)
  | n + 1, s =>
    match s.clk.due with
    | [] => s.advance (k - s.clk.cycle)
    | (j, d) :: t =>
      if j ≤ k then
        drainDue k n (((s.advance (j - s.clk.cycle)).modClk (fun c => { c with due := t })).applyDue d)
      else s.advance (k - s.clk.cycle)

/-- Let `n` sequencer cycles pass. -/
def State.passCycles (s : State) (n : Nat) : State := drainDue (s.clk.cycle + n) (2 * s.clk.due.length + 16) s

/-- Let time pass until cycle `k`; nothing when it has come. -/
def State.toCycle (s : State) (k : Nat) : State :=
  if s.clk.cycle < k then s.passCycles (k - s.clk.cycle) else s

/-- SEQ_CLK runs: outside Umbra mode (mode 4), from SEQ_PLL once it has locked, from the crystal once it is stable, or
from the lantern oscillator (R182, R499, R502). -/
def State.seqClockRuns (s : State) : Bool :=
  decide (s.pwr.mode ≠ 4) &&
    (let d := s.domClk 0
     if d.src = 0 then (tget pllDefault s.clk.plls 0).locked
     else if d.src = 1 then s.clk.crystal || s.clk.onLantern else true)

/-- Let time pass until tick `t`, with the sequencer cycles that fit (R182: CYCLE_COUNT counts only while the sequencer
clock runs). -/
def State.toTick (s : State) (t : Nat) : State :=
  if s.clk.ticks < t then
    if s.seqClockRuns then s.passCycles (ceilDiv ((t - s.clk.ticks) * tickUnits - s.clk.frac) s.cycleUnits)
    else s.modClk (fun c => c.addTicks (t - c.ticks))
  else s

/-- The first state in which `p` holds, as results fall due; none when it holds in none of them. -/
def State.firstWhere (p : State → Bool) : Nat → State → Option State
  | 0, s => if p s then some s else none
  | n + 1, s =>
    if p s then some s
    else match s.clk.due with
      | [] => none
      | d :: _ => State.firstWhere p n (s.toCycle d.1)

/-- The first state in which `p` holds as all the present results fall due. -/
def State.first (s : State) (p : State → Bool) : Option State := State.firstWhere p (s.clk.due.length + 1) s

/-- Ticks of a time in microseconds. -/
def usTicks (us : Nat) : Nat := us * 25

/-- TIME_TICKS bits [31:0]. -/
def State.tick32 (s : State) : Word := BitVec.ofNat 32 s.clk.ticks

/-! ## Holds (R574, R576) -/

/-- A hold that ends is entered in HOLD_LONGEST at its whole length in microseconds (R576). -/
def State.noteHold (s : State) (start : Option Nat) : State :=
  match start with
  | none => s
  | some t => { s with holdMax := max s.holdMax ((s.clk.ticks - t) / 25) }

/-- HOLD_BACK_TIMEOUT in ticks (R574). -/
def State.holdTicks (s : State) : Nat := usTicks (s.ent? 0x6000 1)

/-! ## Lists with identities -/

/-- Apply a function to every element with a property. -/
def modBy {α : Type} (p : α → Bool) (f : α → α) (l : List α) : List α := l.map (fun a => if p a then f a else a)

/-- Remove every element with a property. -/
def dropBy {α : Type} (p : α → Bool) (l : List α) : List α := l.filter (fun a => !p a)

end Sys2Proof.Machine
end

