-- ==== Sys2Proof/Machine/Flags.lean ====
section
/-!
DEFINITION. Status that commands test and entries show: mode limits (R24, R517 to R519), gating of blocks (R512 to
R514), the converting-array ceilings (R80, R120), sequencer clock state for arrays (R503), stream run-dry times (R303),
record status words (R52, R293) and the counters' saturation (R578).
-/
namespace Sys2Proof.Machine

/-! ## Modes (R517 to R519) -/

/-- The mode whose limits apply: Penumbra during a thermal hold of a serving mode (R519, R524). -/
def State.modeEff (s : State) : Nat := if s.pwr.mode = 4 then 4 else if s.pwr.hold then 3 else s.pwr.mode

/-- The converting-array ceiling of a mode (R24, R517). -/
def modeCeiling (m : Nat) : Nat :=
  if m = 0 then 4096 else if m = 1 then 2048 else if m = 2 then 1536 else if m = 3 then 256 else 0

/-- Slices and sections that a mode allows, as a mask (R517). -/
def modeUnits (m : Nat) : Nat := if m < 3 then 0xFF else if m = 3 then 0x03 else 0

/-- Rotation units that a mode allows (R517). -/
def modeRotation (m : Nat) : Nat := if m < 3 then 0x0F else if m = 3 then 0x01 else 0

/-- TRANSITION (R520). -/
def State.transition (s : State) : Bool := s.pwr.changing || s.pwr.entering || s.pwr.waking

/-- MODE_EFFECTIVE (R519). -/
def State.modeEffective (s : State) : Nat := s.modeEff + b2n s.pwr.hold * 8 + b2n s.transition * 16

/-- Whether the device serves: service has started, it is in a serving mode, and no fatal event has stopped it. -/
def State.serving (s : State) : Bool :=
  decide (s.boot.st = .serving) && decide (s.pwr.mode ≠ 4) && !s.boot.stopped

/-- Whether new descriptors, moves, array writes and jobs are accepted (R521 step 1, R560). -/
def State.acceptsWork (s : State) : Bool := !s.boot.stopped && !s.pwr.noNew && !s.pwr.tripped

/-! ## Power domains and gating (R513, R514) -/

/-- Domains 135 and 147 are never OFF (R514); the others start OFF (log 5). -/
def domDefault (k : Nat) : DomState := if k = 135 ∨ k = 147 then .on else .off

def State.dom (s : State) (k : Nat) : DomState := tget domDefault s.pwr.dom k

def State.setDom (s : State) (k : Nat) (d : DomState) : State :=
  s.modPwr (fun p => { p with dom := tset domDefault p.dom k d })

/-- The domains of a block of R512, as first domain and number. -/
def blockDomains (b : Nat) : Nat × Nat :=
  if b = 0 then (134, 1) else if b = 1 then (0, 64) else if b = 2 then (64, 48) else if b = 3 then (134, 1)
  else if b = 4 then (132, 2) else if b = 5 then (139, 1) else if b = 6 then (139, 1) else if b = 7 then (140, 1)
  else if b = 8 then (145, 1) else if b = 9 then (146, 1) else (141, 4)

/-- A block of R512 is gated while its clock is stopped, or while a domain of it is OFF or WAKING (R513); the cascade ports,
each a domain that its own bit powers, while none of them is ON (R516). -/
def State.gated (s : State) (b : Nat) : Bool :=
  !s.clk.running.getLsbD b ||
    (let d := blockDomains b
     if b = 10 then (List.range d.2).all (fun i => decide (s.dom (d.1 + i) ≠ .on))
     else (List.range d.2).any (fun i => decide (s.dom (d.1 + i) ≠ .on)))

/-- CLOCK_STATE: the blocks whose clock runs (R513, R528). -/
def State.clockState (s : State) : Nat := (List.range 11).foldl (fun v b => v + b2n (!s.gated b) * 2 ^ b) 0

def blkSeq : Nat := 0
def blkReducers : Nat := 1
def blkBuffer : Nat := 2
def blkStream : Nat := 3
def blkExpanders : Nat := 4
def blkMigration : Nat := 5
def blkDma : Nat := 6
def blkPcie : Nat := 7
def blkBulk : Nat := 8
def blkDeep : Nat := 9
def blkCascade : Nat := 10

/-- A rail is in warning (R525). -/
def State.warned (s : State) : Bool := decide (s.pwr.warn ≠ 0)

/-- Whether one rail's actions are in force (R526). -/
def State.railWarned (s : State) (k : Nat) : Bool := s.pwr.acts.getLsbD k

/-- Bulk-tier accesses are held: a VDDQ_DDR warning (R526) or a DDR_PLL relock (R510). -/
def State.bulkHeld (s : State) : Bool := s.railWarned 3 || s.media.bulkHold

/-- Bulk-tier accesses wait through a change of set point (R520). -/
def State.bulkPaused (s : State) : Bool := s.pwr.bulkPause

/-! ## The sequencer clock and the arrays (R503) -/

def State.pll (s : State) (k : Nat) : Pll := tget pllDefault s.clk.plls k

/-- SEQ_CLK runs from SEQ_PLL at 2,200 MHz, referenced to a stable crystal, with DIV 0 and no switch under way. -/
def State.seqFull (s : State) : Bool :=
  let d := s.domClk 0
  decide (d.src = 0) && decide (d.code = 0) && decide (d.sw = .steady) && (s.pll 0).locked && s.clk.crystal
    && !s.clk.onLantern

/-! ## Ceilings (R80, R81, R120, R121) -/

/-- The junction maximum of the grade, in quarters of a degree (R1, R89): 100 °C or 125 °C. -/
def State.junctionMax (s : State) : Int := if s.ident.extended then 125 * 4 else 100 * 4

/-- A bank's temperature before its first sample: 25 °C (log 5). -/
def tempDefault (_ : Nat) : Int := 100

def State.bankTemp (s : State) (b : Nat) : Int := tget tempDefault s.arr.temp b

def State.logicTemp (s : State) (k : Nat) : Int := tget tempDefault s.pwr.logicT k

/-- The hottest bank temperature, TEMP_MAX (R124). -/
def State.tempMax (s : State) : Int := (List.range 64).foldl (fun m b => max m (s.bankTemp b)) (s.bankTemp 0)

/-- TEMP_LOGIC_MAX (R524). -/
def State.tempLogicMax (s : State) : Int :=
  (List.range 16).foldl (fun m b => max m (s.logicTemp b)) (s.logicTemp 0)

/-- The hottest of all 80 sensors (R524). -/
def State.tAll (s : State) : Int := max s.tempMax s.tempLogicMax

/-- K_temp in hundredths for a hottest bank temperature, with the hysteresis of R121: it falls at a threshold and rises
3 °C below it. -/
def kTempNext (jmax t : Int) (k : Nat) : Nat :=
  let fall : Nat := if t > jmax - 20 then 50 else if t > jmax - 40 then 75 else 100
  let rise : Nat := if t > jmax - 20 - 12 then 50 else if t > jmax - 40 - 12 then 75 else 100
  if fall < k then fall else if k < rise then rise else k

/-- The replanned ceiling (R120): max(64, floor(C * 128 / (128 + 0.12 A) * K)). -/
def replannedCeiling (cMode a k : Nat) : Nat := max 64 (cMode * 128 * k / (12800 + 12 * a))

/-- The effective ceiling (R80). -/
def State.ceiling (s : State) : Nat :=
  if s.modeEff = 4 then 0 else min (modeCeiling s.modeEff) (min s.arr.replanned (s.ent? 0x3000 2))

/-! ## Arrays -/

def State.array (s : State) (n : Nat) : PhysArray := tget physDefault s.arr.phys n

def State.modArray (s : State) (n : Nat) (f : PhysArray → PhysArray) : State :=
  s.modArr (fun a => { a with phys := tmod physDefault a.phys n f })

/-- The map entry of an address, numbered bank * 256 + slot. -/
def State.mapOf (s : State) (a : Nat) : MapEntry := tget mapDefault s.arr.map a

def State.setMap (s : State) (a : Nat) (e : MapEntry) : State :=
  s.modArr (fun r => { r with map := tset mapDefault r.map a e })

/-- Number of the physical array bank.slot (R59). -/
def arrayNum (bank slot : Nat) : Nat := bank * 264 + slot

/-- AGE_PERI of a bank (R94). -/
def zeroByte : Nat → BitVec 8 := fun _ => 0
def State.agePeri (s : State) (bank : Nat) : Nat := (tget zeroByte s.arr.peri bank).toNat

/-- AGE_INDEX: the larger of AGE_RET and AGE_PERI (R94). -/
def State.ageIndex (s : State) (n : Nat) : Nat := max (s.array n).ageRet.toNat (s.agePeri (n / 264))

/-- The physical array numbers of a bank. -/
def bankArrays (b : Nat) : List Nat := (List.range 264).map (fun i => arrayNum b i)

/-- All physical array numbers. -/
def allArrays : List Nat := List.range 16896

/-- IDLE and holding no address (R62); an array whose erase is owed or was cut short is not yet free (R118, R393). -/
def PhysArray.free (p : PhysArray) : Bool := decide (p.st = .idle) && !p.mapped && !p.eraseOpen && !p.progOpen

/-- The highest AGE_PERI among mapped arrays (R120); it is one value per bank. -/
def State.ageA? (s : State) : Nat :=
  (List.range 64).foldl (fun m b => if (bankArrays b).any (fun n => (s.array n).mapped) then max m (s.agePeri b) else m) 0

/-! ## Fatal events (R560) -/

/-- A fatal event: the sequencer halts, nothing new is accepted, and FATAL_RECORD is written. -/
def State.goFatal (s : State) (cause detail : Nat) : State :=
  let t := s.haltSeq .halted
  (t.modBoot (fun b => { b with
    stopped := true
    fatal := BitVec.ofNat 64 (cause + detail * 2 ^ 8 + b.present.startNum.toNat * 2 ^ 16) })).addClass clsFatal

/-! ## Counters (R578) -/

/-- SATURATED_COUNT: counters at 0xFFFF. -/
def State.saturated (s : State) : Nat := (s.cnt.filter (fun p => p.2 == 0xFFFF)).length

end Sys2Proof.Machine
end

