-- ==== Sys2Proof/Machine/Operands.lean ====
section
/-!
DEFINITION. Every operand layout of the slots and descriptors: the bundle (R130, R131) and its slots (R134 to R164), the
group descriptor (R147 to R150), the matrix and vector task descriptors (R231, R244), and job records (R285). Reserved
fields are ignored (R5).
-/
namespace Sys2Proof.Machine

/-! ## The bundle -/

/-- Bits [lo + w - 1 : lo] as a bit vector. -/
def fld (v lo w : Nat) : BitVec w := BitVec.ofNat w (v / 2 ^ lo)

/-- A slot as decoded: a NOP, an undefined opcode, a field that must be zero and is not (its number in R599), or a
command. -/
inductive SlotDec where
  | nop
  | undef
  | bad (field : Nat)
  | cmd (i : Instr)
deriving DecidableEq, Repr

/-- The header's context for a slot (R131). -/
def slotCtx (w : Nat) (pc : BitVec 16) (slot : Nat) : SlotCtx :=
  { bundle := pc, slot := BitVec.ofNat 4 slot, rep := fld w 0 10, tagv := bit w 11, tag := fld w 12 4 }

/-- The control slot (R134, R135). -/
def decControl (c : SlotCtx) (v : Nat) : SlotDec :=
  let reg : BitVec 5 := fld v 4 5
  let arg : BitVec 16 := fld v 9 16
  match bits v 0 4 with
  | 0 => .nop
  | 1 => .cmd (.jump c arg)
  | 2 => .cmd (.bnz c reg arg)
  | 3 => .cmd (.bz c reg arg)
  | 4 => .cmd (.loop c reg arg)
  | 5 => .cmd (.call c arg)
  | 6 => .cmd (.ret c)
  | 7 => .cmd (.idle c arg)
  | 8 => .cmd (.trap c arg)
  | 9 => .cmd (.halt c)
  | _ => .undef

/-- A sync slot (R140, R141). -/
def decSync (c : SlotCtx) (v : Nat) : SlotDec :=
  let obj : BitVec 14 := fld v 4 14
  match bits v 0 4 with
  | 0 => .nop
  | 1 => .cmd (.signal c obj (fld v 18 14))
  | 2 => .cmd (.set c obj (fld v 18 14))
  | 3 => .cmd (.setX c obj (fld v 18 5))
  | 4 => .cmd (.waitGe c obj (fld v 18 14))
  | 5 => .cmd (.waitGeX c obj (fld v 18 5))
  | 6 => .cmd (.signalPeer c obj (fld v 18 5))
  | _ => .undef

/-- A dispatch slot (R146). -/
def decDispatch (c : SlotCtx) (v : Nat) : SlotDec :=
  match bits v 0 4 with
  | 0 => .nop
  | 1 => .cmd (.launch c (fld v 4 14) (fld v 18 20) (fld v 38 2))
  | _ => .undef

/-- A matrix slot (R155, R156). -/
def decMatrix (c : SlotCtx) (v : Nat) : SlotDec :=
  let f := bit v 4
  let sl : BitVec 8 := fld v 5 8
  let d : BitVec 20 := fld v 13 20
  match bits v 0 4 with
  | 0 => .nop
  | 1 => .cmd (.matmul c f sl d)
  | 2 => .cmd (.matmulAcc c f sl d)
  | 3 => .cmd (.matmulX c f sl d)
  | 4 => .cmd (.matmulXAcc c f sl d)
  | 5 => .cmd (.accStore c f sl d)
  | 6 => .cmd (.accLoad c f sl d)
  | 7 => .cmd (.outerAcc c f sl d)
  | _ => .undef

/-- A vector slot (R158, R159). -/
def decVector (c : SlotCtx) (v : Nat) : SlotDec :=
  let u : BitVec 8 := fld v 4 8
  let d : BitVec 20 := fld v 12 20
  match bits v 0 4 with
  | 0 => .nop
  | 1 => .cmd (.run c u d)
  | 2 => .cmd (.config c u d)
  | 3 => .cmd (.rotate c u d)
  | _ => .undef

/-- A stream slot (R161). -/
def decStream (c : SlotCtx) (v : Nat) : SlotDec :=
  let st : BitVec 4 := fld v 4 4
  match bits v 0 4 with
  | 0 => .nop
  | 1 => .cmd (.jobTake c st (fld v 8 14))
  | 2 => .cmd (.jobDone c st (fld v 8 5))
  | 3 => .cmd (.ringPush c st (fld v 8 5))
  | _ => .undef

/-- The DMA slot (R162); CHAN must be 0 unless the opcode is SUBMIT. DESIGN CHOICE (log 127): OP NOP with another CHAN is a NOP. -/
def decDma (c : SlotCtx) (v : Nat) : SlotDec :=
  let reg : BitVec 5 := fld v 8 5
  match bits v 0 4 with
  | 0 => .nop
  | 1 => .cmd (.submit c (fld v 4 4) reg)
  | 2 => if bits v 4 4 = 0 then .cmd (.migrate c reg) else .bad 0x102
  | 3 => if bits v 4 4 = 0 then .cmd (.prefetch c reg) else .bad 0x102
  | _ => .undef

/-- The scalar slot (R163, R164). -/
def decScalar (c : SlotCtx) (v : Nat) : SlotDec :=
  let d : BitVec 5 := fld v 5 5
  let r : BitVec 5 := fld v 10 5
  let imm : BitVec 9 := fld v 15 9
  match bits v 0 5 with
  | 0x00 => .nop
  | 0x01 => .cmd (.addi c d r imm)
  | 0x02 => .cmd (.add c d r)
  | 0x03 => .cmd (.sub c d r)
  | 0x04 => .cmd (.and c d r)
  | 0x05 => .cmd (.or c d r)
  | 0x06 => .cmd (.shli c d r imm)
  | 0x07 => .cmd (.shri c d r imm)
  | 0x08 => .cmd (.movhi c d imm)
  | 0x09 => .cmd (.ld c d r imm)
  | 0x0A => .cmd (.st c d r imm)
  | 0x0B => .cmd (.dictRd c d r)
  | 0x0C => .cmd (.dictWr c d r)
  | 0x0D => .cmd (.cyc c d)
  | 0x0E => .cmd (.syncRd c d r)
  | 0x0F => .cmd (.tagjob c d r)
  | _ => .undef

/-- The slots of a bundle in the order of R127, each with its context. -/
def decBundle (pc : BitVec 16) (w : Nat) : List (SlotCtx × SlotDec) :=
  let at' := fun (n lo wd : Nat) (f : SlotCtx → Nat → SlotDec) =>
    let c := slotCtx w pc n
    (c, f c (bits w lo wd))
  [at' 0 16 32 decControl, at' 1 48 32 decSync, at' 2 80 32 decSync, at' 3 112 40 decDispatch,
   at' 4 152 40 decDispatch, at' 5 192 40 decDispatch, at' 6 232 40 decDispatch, at' 7 272 40 decMatrix,
   at' 8 312 40 decMatrix, at' 9 352 32 decVector, at' 10 384 32 decVector, at' 11 416 24 decStream,
   at' 12 440 24 decStream, at' 13 464 24 decDma, at' 14 488 24 decScalar]

/-! ## Signed fields -/

/-- The low `n` bits of a number as a signed value (two's complement). -/
def signed (n v : Nat) : Int := if v % 2 ^ n < 2 ^ (n - 1) then (v % 2 ^ n : Int) else (v % 2 ^ n : Int) - 2 ^ n

/-! ## The group descriptor (R147 to R150) -/

structure GroupHdr where
  acode   : Nat
  w8      : Bool
  ps16    : Bool
  shift   : Nat
  members : Nat
  lines   : Nat
  actBase : Nat
  opTag   : BitVec 16
deriving DecidableEq, Repr

/-- The header of R148. -/
def groupHdr (v : Nat) : GroupHdr :=
  { acode := bits v 0 2, w8 := bit v 2, ps16 := bit v 3, shift := bits v 4 4, members := bits v 8 13,
    lines := bits v 21 13, actBase := bits v 64 21, opTag := fld v 128 16 }

/-- The size of a group descriptor (R147). -/
def GroupHdr.size (h : GroupHdr) : Nat := 64 + 16 * h.lines + 8 * h.members

/-- A line record as encoded (R149). -/
structure LineEnc where
  mask   : BitVec 32
  banks  : Nat
  dst    : Nat
  status : Nat
deriving DecidableEq, Repr

def lineEnc (v : Nat) : LineEnc :=
  { mask := fld v 0 32, banks := bits v 32 7, dst := bits v 64 21, status := bits v 96 21 }

/-- A member record as encoded (R150). -/
structure MemberEnc where
  bank  : Nat
  slot  : Nat
  first : Nat
  count : Nat
  line  : Nat
  off   : Nat
deriving DecidableEq, Repr

def memberEnc (v : Nat) : MemberEnc :=
  { bank := bits v 0 6, slot := bits v 6 8, first := bits v 14 9, count := bits v 23 10, line := bits v 33 12,
    off := bits v 45 19 }

/-! ## Job records (R285) -/

def jobOfRecord (num : Nat) (r : BitVec 512) : Job :=
  let v := r.toNat
  { num := num, jobTag := fld v 0 32, marker := bit v 32, deadlineV := bit v 33, deadline := fld v 64 32,
    statusV := bit v 34, statusHost := bit v 35, statusAddr := bits v 128 64, failed := false, missed := false,
    skipped := false, halted := false, cause := 0, status := 0, closed := 0, byDone := false }

/-- A record as 512 bits from memory. -/
def recordAt (m : Memory) (a : Nat) : BitVec 512 := BitVec.ofNat 512 (leNat (Memory.gets m a 64))

/-- `n` bytes of memory as a number. -/
def numAt (m : Memory) (a n : Nat) : Nat := leNat (Memory.gets m a n)

end Sys2Proof.Machine
end

