-- ==== Sys2Proof/Machine/Rings.lean ====
section
/-!
DEFINITION. Rings, records and packets as the stream unit and the sequencer share them: ring fill and slots (R279,
R280), the one read of each inbound record (R280), what stands at the head (R294, R306), run-dry times (R303), whether
an operation of a job is still running (R291, R292), and the header of a packet this device sends (R408).
-/
namespace Sys2Proof.Machine

/-- (TAIL - HEAD) mod (2 * SLOTS), the number of records between two indexes (R280, R317). -/
def ringDist (slots tail head : Nat) : Nat := (((tail : Int) - head) % ((2 * slots : Nat) : Int)).toNat

/-- The fill of a ring (R280). -/
def Ring.fill (r : Ring) : Nat := ringDist r.slots r.tail r.head

/-- The address of the slot of index `i` (R280). -/
def Ring.slot (r : Ring) (i : Nat) : Nat := r.base + 64 * (i % r.slots)

/-- The next index. -/
def Ring.next (r : Ring) (i : Nat) : Nat := (i + 1) % (2 * r.slots)

/-! ## Bandwidth controllers (R301) -/

def State.tierQ (s : State) (t : TierCtl) : TierQ := match t with | .bulk => s.bulkQ | .deep => s.deepQ

def State.setTierQ (s : State) (t : TierCtl) (q : TierQ) : State :=
  match t with | .bulk => { s with bulkQ := q } | .deep => { s with deepQ := q }

/-- A request joins its controller's queue: class 0 read, 1 write, 2 remote (R301). -/
def State.tierReq (s : State) (t : TierCtl) (cls : Nat) (stream : Option Nat) (bytes : Nat) : State :=
  if bytes = 0 then s
  else
    let q := s.tierQ t
    (s.setTierQ t { q with reqs := q.reqs ++ [{ id := s.nextId, cls := cls, stream := stream, arrival := s.clk.ticks,
                                                blocks := ceilDiv bytes 64, starved := false }] }).takeId

/-- The class of a master's request (R301). -/
def Master.cls (m : Master) (write : Bool) : Nat :=
  match m with | .peer _ => 2 | _ => if write then 1 else 0

/-- Note the request of an access to the bulk or the deep tier. -/
def State.noteTier (s : State) (a n cls : Nat) (stream : Option Nat) : State :=
  if s.inBulk a n then s.tierReq .bulk cls stream n
  else if s.inDeep a n then s.tierReq .deep cls stream n
  else s

/-- The stream that the requests of a bundle's operation carry: the TAG of the bundle (R301). -/
def ctxStream (c : SlotCtx) : Option Nat := if c.tagv then some c.tag.toNat else none

/-! ## The records of an inbound ring (R280, R286) -/

def noRec : Nat → Option (BitVec 512) := fun _ => none

/-- The record of index `i`: as it was read, or as its slot stands now (R280). -/
def State.recordOf (s : State) (n i : Nat) : BitVec 512 :=
  let b := s.stream n
  match tget noRec b.readRecs i with
  | some r => r
  | none => recordAt s.mem (b.inb.slot i)

/-- The indexes of the records in an inbound ring, oldest first. -/
def StreamBlk.indexes (b : StreamBlk) : List Nat :=
  (List.range b.inb.fill).map (fun k => (b.inb.head + k) % (2 * b.inb.slots))

/-- The device reads one record whole, once (R280). -/
def readRecord (n : Nat) (s : State) (i : Nat) : State :=
  let b := s.stream n
  if tget noRec b.readRecs i = none then
    (s.noteTier (b.inb.slot i) 64 0 none).setStream n { b with
      readRecs := tset noRec b.readRecs i (some (recordAt s.mem (b.inb.slot i))) }
  else s

/-- The records of a ring that the device has still to read are read: before it uses a field of one, so that every field
comes from that one read (R280, log 6). -/
def State.readRing (s : State) (n : Nat) : State := (s.stream n).indexes.foldl (fun t i => readRecord n t i) s

/-- The records of the rings in a mask are read. -/
def State.readRings (s : State) (mask : BitVec 16) : State :=
  streamNums.foldl (fun t n => if mask.getLsbD n then t.readRing n else t) s

/-- JOB_NUM of the record `k` places behind the head (R286): ENQUEUED counts every record in the ring. -/
def StreamBlk.numAt (b : StreamBlk) (k : Nat) : Nat := (b.enqueued - BitVec.ofNat 32 (b.inb.fill - k)).toNat

/-- The job of the record `k` places behind the head, MISSED when its deadline passed in the ring (R307). -/
def State.jobAt (s : State) (n k : Nat) : Job :=
  let b := s.stream n
  let j := jobOfRecord (b.numAt k) (s.recordOf n ((b.inb.head + k) % (2 * b.inb.slots)))
  let miss := b.missDone.contains j.num
  { j with missed := miss, failed := miss && b.settings.getLsbD 2 }

/-- The jobs in the inbound ring, oldest first. -/
def State.queued (s : State) (n : Nat) : List Job :=
  (List.range (s.stream n).inb.fill).map (fun k => s.jobAt n k)

/-- A deadline has passed (R305). -/
def State.passed (s : State) (deadline : Word) : Bool := Word.reached s.tick32 deadline

/-- Settings of R284. -/
def StreamBlk.rt (b : StreamBlk) : Bool := b.settings.getLsbD 0
def StreamBlk.skipLate (b : StreamBlk) : Bool := b.settings.getLsbD 1
def StreamBlk.missFails (b : StreamBlk) : Bool := b.settings.getLsbD 2
def StreamBlk.doneSync (b : StreamBlk) : Nat := bits b.settings.toNat 4 14
def StreamBlk.doneSyncV (b : StreamBlk) : Bool := b.settings.getLsbD 18
def StreamBlk.msixV (b : StreamBlk) : Bool := b.settings.getLsbD 19
def StreamBlk.msixVec (b : StreamBlk) : Nat := bits b.settings.toNat 20 6
def StreamBlk.missSync (b : StreamBlk) : Nat := bits b.settings.toNat 32 14
def StreamBlk.missSyncV (b : StreamBlk) : Bool := b.settings.getLsbD 46
def StreamBlk.drain (b : StreamBlk) : Nat := bits b.settings.toNat 48 16

/-- A record is skipped when its stream skips late jobs and its deadline has passed (R306). -/
def State.late (s : State) (n : Nat) (j : Job) : Bool :=
  (s.stream n).skipLate && j.deadlineV && s.passed j.deadline

/-- A ring that holds a record other than a marker (R138, R318). -/
def State.ringHasWork (s : State) (n : Nat) : Bool := (s.queued n).any (fun j => !j.marker)

/-- Closing jobs that JOB_DONE closed (R283, R290), and the others. -/
def StreamBlk.closedByDone (b : StreamBlk) : Nat := (b.closing.filter (fun j => j.byDone)).length
def StreamBlk.closedOther (b : StreamBlk) : Nat := (b.closing.filter (fun j => !j.byDone)).length

/-! ## Receivers (R314, R315) -/

def StreamBlk.recv (b : StreamBlk) (k : Nat) : Receiver := tget recvDefault b.recvs k

def StreamBlk.modRecv (b : StreamBlk) (k : Nat) (f : Receiver → Receiver) : StreamBlk :=
  { b with recvs := tmod recvDefault b.recvs k f }

/-- A receiver that takes records: on, and ATTACHED. -/
def Receiver.attached (r : Receiver) : Bool := decide (r.kind ≠ 0) && decide (r.rst = .attached)

/-- The records placed and not yet delivered to receiver `k`: its lag (R315). -/
def StreamBlk.lag (b : StreamBlk) (k : Nat) : Nat := (b.placed.filter (fun p => p.waits.contains k)).length

/-- The records that a KIND 3 host ring holds (R317). -/
def Receiver.hostFill (r : Receiver) : Nat := ringDist r.hostSlots r.hostTail r.hostHead

/-- The credits of a remote ring bound to a sender's receiver entry (R424), keyed stream * 4 + entry. -/
def farRing0 (_ : Nat) : FarRing := { free := 0, slots := 0, cut := false }

def State.farRing (s : State) (n k : Nat) : FarRing := tget farRing0 s.casc.credits (n * 4 + k)

def State.modFar (s : State) (n k : Nat) (f : FarRing → FarRing) : State :=
  s.modCasc (fun c => { c with credits := tmod farRing0 c.credits (n * 4 + k) f })

def State.credit (s : State) (n k : Nat) : Nat := (s.farRing n k).free

/-- The free slots of the ring of receiver `k` (R315 to R317). -/
def State.recvFree (s : State) (n k : Nat) : Nat :=
  let r := (s.stream n).recv k
  if r.kind = 1 then (let t := (s.stream r.stream).inb; t.slots - t.fill)
  else if r.kind = 2 then s.credit n k
  else if r.kind = 3 then r.hostSlots - r.hostFill
  else 0

/-! ## Run-dry time (R303) -/

/-- The deadline of the oldest job with one that is not COMPLETE: closing, then current, then queued. -/
def State.firstDeadline (s : State) (n : Nat) : Option Word :=
  let b := s.stream n
  ((b.closing ++ b.cur.toList ++ s.queued n).find? (fun j => j.deadlineV)).map (fun j => j.deadline)

/-- now + f * DRAIN_PERIOD of the first attached receiver; the fill of a ring on another device is the slots that it
granted when it was bound less its free ones (log 88). -/
def State.drainTime (s : State) (n : Nat) : Option Word :=
  let b := s.stream n
  if b.drain = 0 then none
  else
    match (List.range 4).find? (fun k => (b.recv k).attached) with
    | none => none
    | some k =>
      let r := b.recv k
      let f := if r.kind = 1 then (s.stream r.stream).inb.fill else if r.kind = 3 then r.hostFill
        else (s.farRing n k).slots - s.credit n k
      some (s.tick32 + BitVec.ofNat 32 (f * usTicks b.drain))

/-- The run-dry time: the earlier of the two (R303). -/
def State.runDry (s : State) (n : Nat) : Option Word :=
  match s.firstDeadline n, s.drainTime n with
  | none, d => d
  | d, none => d
  | some a, some b => some (if Word.reached b a then a else b)

/-! ## Operations still running (R291, R292, R311) -/

/-- Every operation that has not completed: its identity (0 for a scalar access), the slot that issued it, its job. -/
def State.running (s : State) : List (Nat × SlotCtx × Option JobRef) :=
  (s.disp.ops.map (fun o => (o.id, o.ctx, o.job)))
    ++ ((List.range 2).flatMap (fun k => (tget (fun _ => []) s.eng.mq k).map (fun t => (t.id, t.ctx, t.job))))
    ++ (s.eng.mrun.map (fun t => (t.id, t.ctx, t.job)))
    ++ ((List.range 2).flatMap (fun k => (tget (fun _ => []) s.eng.vq k).map (fun t => (t.id, t.ctx, t.job))))
    ++ (s.eng.vrun.map (fun t => (t.id, t.ctx, t.job)))
    ++ (s.dma.ch.flatMap (fun c => c.2.acc.filterMap (fun d => d.ctx.map (fun x => (d.id, x, d.job)))))
    ++ (s.seq.moveQ.map (fun m => (m.id, m.ctx, m.job)))
    ++ (s.seq.access.toList.map (fun a => (0, a.ctx, a.job)))

/-- An exception record, a store or a loaded register of a job that is not yet visible. -/
def State.dueFor (s : State) (r : JobRef) : Bool :=
  s.clk.due.any (fun d => match d.2 with
    | .exc e => decide (e.job = some r)
    | .store _ _ j | .reg _ _ j => decide (j = some r)
    | _ => false)

/-- Condition 1 of R292 does not hold: an operation of the job has not completed. -/
def State.jobBusy (s : State) (r : JobRef) : Bool :=
  (s.running.any (fun p => decide (p.2.2 = some r))) || s.dueFor r

/-- An operation issued with TAGV = 1 and TAG = n is running, a move record whose tiles still move among them (R311,
R332). -/
def State.tagBusy (s : State) (n : Nat) : Bool :=
  s.running.any (fun p => decide (ctxStream p.2.1 = some n))
    || s.mig.recs.any (fun r => r.ctx.any (fun c => decide (ctxStream c = some n)))

/-! ## Packets (R408, R409) -/

def ptWrite : BitVec 4 := 1
def ptRead : BitVec 4 := 2
def ptReadRsp : BitVec 4 := 3
def ptWriteAck : BitVec 4 := 4
def ptSignal : BitVec 4 := 5
def ptRingRec : BitVec 4 := 6
def ptRingCredit : BitVec 4 := 7
def ptRingBind : BitVec 4 := 8
def ptDict : BitVec 4 := 9
def ptDictRsp : BitVec 4 := 10
def ptProbe : BitVec 4 := 11
def ptEpoch : BitVec 4 := 12
def ptRecheck : BitVec 4 := 13

/-- A packet from this device's role (R408). -/
def State.mkPkt (s : State) (t : BitVec 4) (dst : BitVec 5) (units addr rtag arg : Nat) : Pkt :=
  { ptype := t, dst := dst, src := s.casc.role, srcEpoch := (s.roleOf s.casc.role.toNat).epoch,
    units := BitVec.ofNat 5 units, hops := 0, addr := BitVec.ofNat 48 addr, rtag := BitVec.ofNat 16 rtag,
    arg := BitVec.ofNat 16 arg }

/-- The virtual channel of a packet type: 0 CTRL, 1 RSP, 2 REQ (R409). -/
def chanOf (t : BitVec 4) : Nat :=
  if t = ptRingCredit ∨ t = ptRingBind ∨ t = ptProbe ∨ t = ptEpoch ∨ t = ptRecheck then 0
  else if t = ptReadRsp ∨ t = ptWriteAck ∨ t = ptDictRsp then 1
  else 2

/-- A port is powered and clocked: its domain is ON, the CASCADE block runs, and neither its PLL nor the crystal is
faulty (R510, R512, R516). -/
def State.portLive (s : State) (k : Nat) : Bool :=
  decide (s.dom (141 + k) = .on) && s.clk.running.getLsbD blkCascade && !s.clk.faultNow.getLsbD (6 + k)
    && !s.clk.faultNow.getLsbD 0

/-- Training begins from T0. -/
def Port.train (p : Port) : Port := { p with st := .training, step := 0, attempt := 0 }

/-- Ports train at 16 Gb/s only: the alternate of B8 is in force in this start (R529). -/
def State.slowPorts (s : State) : Bool :=
  s.boot.present.altUsed.getLsbD 8 || (decide (s.boot.st = .booting) && s.boot.alt.getLsbD 8)

/-- A port trains from T0, under the alternate of B8 at the lower rate only (R402, R529). -/
def State.trainPort (s : State) (k : Nat) : State :=
  s.modPort k (fun p => { p.train with attempt := if s.slowPorts then 3 else 0 })

def noRoute : Nat → Option Nat := fun _ => none

def roleNums : List Nat := List.range 32

/-- The master of a rank: its lowest active role, and in rank 0 the chain head (R399). -/
def State.masterOf (s : State) (rank : BitVec 3) : Option Nat :=
  let ms := roleNums.filter (fun r => decide ((s.roleOf r).st = .active) && decide ((s.roleOf r).rank = rank))
  match ms.find? (fun r => (s.roleOf r).head) with
  | some h => some h
  | none => ms.head?

/-- The way to a shade: over a port in QUARANTINE that it is cabled to, else toward a device with a link to it that is not UP
(R428, R429). -/
def State.shadeRoute (s : State) (r : Nat) : Option Nat :=
  let n := s.nodeOf r
  match portNums.find? (fun k => decide ((s.port k).st = .quarantine) && decide ((s.port k).peerRole.toNat = r)) with
  | some k => some k
  | none =>
    let last := s.casc.links.filter (fun l => decide (l.2 ≠ .up) && (decide (l.1.serialA = n) || decide (l.1.serialB = n)))
    (nextHop (s.hops ++ last.flatMap (fun l => FarLink.hops l.1)) n s.myNode).map (fun e => e.port)

/-- The port of a packet's route (R405); a RECHECK for a device without one reaches a shade (R428). -/
def State.portFor (s : State) (p : Pkt) : Option Nat :=
  match tget noRoute s.casc.routes p.dst.toNat with
  | some k => some k
  | none => if p.ptype = ptRecheck then s.shadeRoute p.dst.toNat else none

/-- The credits of a channel at a port (R411). -/
def Port.credit (p : Port) (c : Nat) : Nat := if c = 0 then p.ctrl else if c = 1 then p.rsp else p.req

def Port.spend (p : Port) (c n : Nat) : Port :=
  if c = 0 then { p with ctrl := p.ctrl - n } else if c = 1 then { p with rsp := p.rsp - n }
  else { p with req := p.req - n }

/-- The record of this device that a packet carries: the sending stream and entry of a RING_REC (R409). -/
def State.ringOf (s : State) (p : Pkt) : Option (Nat × Nat) :=
  if p.ptype = ptRingRec ∧ p.src = s.casc.role then some (bits p.rtag.toNat 0 4, bits p.rtag.toNat 4 2) else none

/-- The flits of a REQ packet count in the window of 16 (R414). -/
def Port.window (p : Port) (fwd : Bool) (n : Nat) : Port :=
  let f := p.winFwd + if fwd then n else 0
  let l := p.winLocal + if fwd then 0 else n
  if 16 ≤ f + l then { p with winFwd := 0, winLocal := 0 } else { p with winFwd := f, winLocal := l }

/-- The header unit of a packet (R408). -/
def Pkt.header (p : Pkt) : Nat :=
  p.ptype.toNat + p.dst.toNat * 2 ^ 4 + p.src.toNat * 2 ^ 9 + p.srcEpoch.toNat * 2 ^ 16 + p.units.toNat * 2 ^ 32
    + p.hops.toNat * 2 ^ 40 + p.addr.toNat * 2 ^ 48 + p.rtag.toNat * 2 ^ 96 + p.arg.toNat * 2 ^ 112

/-- Bytes cut into pieces of `n`; the fuel bounds their number. -/
def cutBytes (n : Nat) : Nat → List Byte → List (List Byte)
  | 0, _ => []
  | _ + 1, [] => []
  | k + 1, l => l.take n :: cutBytes n k (l.drop n)

/-- The units of a packet, seven to a flit (R407). -/
def Outgoing.flits (x : Outgoing) : List (List Byte) :=
  let n := ceilDiv x.data.length 16
  cutBytes 112 (1 + n) (leBytes 16 (Pkt.header x.pkt) ++ (x.data ++ List.replicate (16 * n - x.data.length) 0))

/-- DATA flits leave in order, and each stays in the replay buffer (R412). -/
def sendData (k : Nat) (r : Option (Nat × Nat)) : List (List Byte) → State → State
  | [], s => s
  | u :: t, s =>
    let q := (s.port k).nextSeq
    sendData k r t ((s.sendFlit k 1 q 0 false u).modPort k (fun p => { p with
      replay := p.replay ++ [{ seq := q, ring := r, units := u }], nextSeq := (q + 1) % 4096 }))

/-- Units of a channel in a receive buffer have been passed on or consumed: the next flit returns them (R411). -/
def State.freeUnits (s : State) (k c n : Nat) : State :=
  let m := min n ((s.port k).held.get c)
  if m = 0 then s
  else
    let t := s.modPort k (fun p => { p with
      held := p.held.set c (p.held.get c - m), back := p.back.set c (p.back.get c + m) })
    if s.linked k then t.sendIdle k 0 false else t

/-- A packet is discarded and counted (R409). -/
def discardPkt (s : State) : State := s.addCnt 0x600B 3 1

/-- A packet leaves when its destination's route is not changing (R405), its port is UP, credits for the whole packet
are held (R411) and the replay buffer has room (R412). Each packet begins in a flit of its own (log 40). -/
def State.trySend (s : State) (x : Outgoing) : Option State :=
  let p := x.pkt
  let units := 1 + ceilDiv x.data.length 16
  let flits := ceilDiv units 7
  if s.casc.routeWait.any (fun w => decide (w.1 = p.dst.toNat)) then none
  else
    match s.portFor p with
    | none => none
    | some k =>
      let q := s.port k
      let open' : Bool := decide (q.st = .up) || (decide (q.st = .quarantine) && decide (p.ptype = ptRecheck))
      let c := chanOf p.ptype
      if open' ∧ units ≤ q.credit c ∧ q.replay.length + flits ≤ 256 then
        let t := sendData k (s.ringOf p) x.flits (s.modPort k (fun q =>
          (if c = 2 then q.window (decide (p.src ≠ s.casc.role)) flits else q).spend c units))
        some (match x.via with | some j => t.freeUnits j c units | none => t)
      else none

/-- Forwarded traffic, as against what this device itself originates (R414). -/
def State.isForward (s : State) (p : Pkt) : Bool := decide (p.src ≠ s.casc.role)

/-- FWD and LOCAL of CASC_SPLIT (R414). -/
def State.cascShare (s : State) (fwd : Bool) : Nat := bits (s.ent? 0x7000 8) (if fwd then 0 else 4) 4

/-- The flits of the present window of 16 that one side has used. -/
def Port.used (p : Port) (fwd : Bool) : Nat := if fwd then p.winFwd else p.winLocal

/-- A REQ packet has used the share of its side in the window while the other side, whose share is not used up, has one
that can leave over the same port (R414). -/
def State.shareHeld (s : State) (x : Outgoing) : Bool :=
  let fwd := s.isForward x.pkt
  match s.portFor x.pkt with
  | none => false
  | some k =>
    decide (s.cascShare fwd ≤ (s.port k).used fwd) && decide ((s.port k).used (!fwd) < s.cascShare (!fwd)) &&
      s.casc.sendWait.any (fun y => decide (chanOf y.pkt.ptype = 2) && decide (s.isForward y.pkt = !fwd) &&
        decide (s.portFor y.pkt = some k) && (s.trySend y).isSome)

/-- The first packet of a channel that can leave: those of one role to another leave in order (R406), and REQ packets by
the shares of CASC_SPLIT (R414). -/
def State.sendOne (s : State) (c : Nat) : Option State :=
  (List.range s.casc.sendWait.length).findSome? (fun i =>
    match s.casc.sendWait[i]? with
    | none => none
    | some x =>
      if chanOf x.pkt.ptype ≠ c ∨ (s.casc.sendWait.take i).any (fun y =>
          decide (chanOf y.pkt.ptype = c) && decide (y.pkt.dst = x.pkt.dst) && decide (y.pkt.src = x.pkt.src))
          ∨ (c = 2 ∧ s.shareHeld x) then none
      else (s.trySend x).map (fun t => t.modCasc (fun k => { k with sendWait := k.sendWait.eraseIdx i })))

/-- At most `n` packets of a channel leave. -/
def drainSends (c : Nat) : Nat → State → State
  | 0, s => s
  | n + 1, s => match s.sendOne c with | none => s | some t => drainSends c n t

/-- CTRL units leave first, then RSP units, then REQ units (R414). -/
def State.flushSends (s : State) : State :=
  let n := s.casc.sendWait.length
  drainSends 2 n (drainSends 1 n (drainSends 0 n s))

/-- Hand a packet to the cascade ports; what leaves is appended to `out` (log 12). -/
def State.sendPkt (s : State) (x : Outgoing) : State :=
  (s.modCasc (fun k => { k with sendWait := k.sendWait ++ [x] })).flushSends

/-- A device that is absent from the map can be sent this: a RECHECK, and the EPOCH that gives a shade its role (R428, R429). -/
def forShade (t : BitVec 4) : Bool := decide (t = ptRecheck) || decide (t = ptEpoch)

/-- Send a packet from this device; one to an absent role is discarded and counted (R409). -/
def State.send (s : State) (t : BitVec 4) (dst : BitVec 5) (addr rtag arg : Nat) (data : List Byte := []) : State :=
  if !s.rolePresent dst.toNat ∧ !forShade t then discardPkt s
  else s.sendPkt { pkt := s.mkPkt t dst (ceilDiv data.length 16) addr rtag arg, data := data, via := none }

end Sys2Proof.Machine
end

