-- ==== Sys2Proof/Machine/Frames.lean ====
section
/-!
DEFINITION. Field network frames as bytes (R434, R437 to R439): the Ethernet frame with its 802.1Q tag, padding and FCS, the
IPv4, UDP, ICMP and ARP headers with their checksums, most significant byte first. The first octet of a MAC address stands in
its bits [47:40], and that of an IPv4 address in bits [31:24] (log 129).
-/
namespace Sys2Proof.Machine

/-- Bytes with the most significant first (R438). -/
def beBytes (n v : Nat) : List Byte := (leBytes n v).reverse

def beNat (bs : List Byte) : Nat := leNat bs.reverse

/-- The field of `n` bytes at an offset. -/
def beAt (bs : List Byte) (i n : Nat) : Nat := beNat ((bs.drop i).take n)

/-- The sum of the 16-bit words of some bytes. -/
def sum16 : List Byte → Nat
  | [] => 0
  | [a] => a.toNat * 256
  | a :: b :: t => a.toNat * 256 + b.toNat + sum16 t

/-- A sum with its carries added back. -/
def foldSum (n : Nat) : Nat :=
  let a := n % 65536 + n / 65536
  a % 65536 + a / 65536

/-- The internet checksum of some bytes, and whether bytes with their checksum among them pass. -/
def inetSum (bs : List Byte) : Nat := 65535 - foldSum (sum16 bs)

def sumOk (bs : List Byte) : Bool := decide (foldSum (sum16 bs) = 65535)

/-! ## Frames that leave -/

/-- An Ethernet frame (R437): padded to the Ethernet minimum, with its FCS. -/
def ethFrame (dst src : BitVec 48) (vlan : Option (BitVec 16)) (etype : Nat) (body : List Byte) : List Byte :=
  let tag := match vlan with | some v => beBytes 2 0x8100 ++ beBytes 2 v.toNat | none => []
  let f := beBytes 6 dst.toNat ++ beBytes 6 src.toNat ++ tag ++ beBytes 2 etype ++ body
  let p := f ++ List.replicate (60 - f.length) 0
  p ++ leBytes 4 (crc32 p).toNat

/-- An IPv4 packet with a header of 20 bytes; its identification and time to live are the implementation's (log 129). -/
def ipPacket (src dst : BitVec 32) (proto : Nat) (data : List Byte) : List Byte :=
  let head := fun (sum : Nat) => beBytes 2 0x4500 ++ beBytes 2 (20 + data.length) ++ beBytes 2 Config.ipIdent.toNat ++ beBytes 2 0
    ++ beBytes 1 Config.ipTtl.toNat ++ beBytes 1 proto ++ beBytes 2 sum ++ beBytes 4 src.toNat ++ beBytes 4 dst.toNat
  head (inetSum (head 0)) ++ data

/-- What the UDP checksum covers besides the datagram. -/
def pseudoHeader (src dst : BitVec 32) (len : Nat) : List Byte :=
  beBytes 4 src.toNat ++ beBytes 4 dst.toNat ++ beBytes 2 17 ++ beBytes 2 len

/-- A UDP datagram with its checksum; one of zero is sent as all ones. -/
def udpDatagram (src dst : BitVec 32) (sport dport : Nat) (data : List Byte) : List Byte :=
  let n := 8 + data.length
  let d := fun (sum : Nat) => beBytes 2 sport ++ beBytes 2 dport ++ beBytes 2 n ++ beBytes 2 sum ++ data
  let c := inetSum (pseudoHeader src dst n ++ d 0)
  d (if c = 0 then 65535 else c)

/-- A segment of this device in a frame of an encapsulation (R437, R439, R440). -/
def encapFrame (mac : BitVec 48) (e : Encap) (seg : List Byte) : List Byte :=
  match e.net with
  | .raw etype => ethFrame e.mac mac e.vlan etype.toNat seg
  | .udp ip port myIp myPort =>
    ethFrame e.mac mac e.vlan 0x0800 (ipPacket myIp ip 17 (udpDatagram myIp ip myPort.toNat port.toNat seg))

/-- An ARP reply of this device. -/
def arpFrame (mac : BitVec 48) (ip : BitVec 32) (vlan : Option (BitVec 16)) (theirMac : BitVec 48) (theirIp : BitVec 32) :
    List Byte :=
  ethFrame theirMac mac vlan 0x0806 (beBytes 8 0x0001080006040002 ++ beBytes 6 mac.toNat ++ beBytes 4 ip.toNat
    ++ beBytes 6 theirMac.toNat ++ beBytes 4 theirIp.toNat)

/-- An ICMP echo reply of this device: `rest` are the identifier, the sequence number and the data of the request. -/
def echoFrame (mac : BitVec 48) (ip : BitVec 32) (vlan : Option (BitVec 16)) (theirMac : BitVec 48) (theirIp : BitVec 32)
    (rest : List Byte) : List Byte :=
  ethFrame theirMac mac vlan 0x0800 (ipPacket ip theirIp 1
    (beBytes 2 0 ++ beBytes 2 (inetSum (beBytes 4 0 ++ rest)) ++ rest))

/-! ## Frames that arrive -/

/-- A received frame: its addresses, its 802.1Q tag, its EtherType, and what follows, padding included. -/
structure FrameIn where
  dst   : BitVec 48
  src   : BitVec 48
  vlan  : Option (BitVec 16)
  etype : Nat
  body  : List Byte
deriving DecidableEq, Repr

/-- A frame of 64 to 1,522 bytes, with a good FCS and at most one tag (R434). -/
def parseFrame (f : List Byte) : Option FrameIn :=
  let b := f.take (f.length - 4)
  let i := if beAt b 12 2 = 0x8100 then 16 else 12
  if f.length < 64 ∨ 1522 < f.length ∨ (crc32 b).toNat ≠ leNat (f.drop (f.length - 4)) ∨ beAt b i 2 = 0x8100 then none
  else some {
    dst := BitVec.ofNat 48 (beAt b 0 6), src := BitVec.ofNat 48 (beAt b 6 6)
    vlan := if i = 16 then some (BitVec.ofNat 16 (beAt b 14 2)) else none, etype := beAt b i 2, body := b.drop (i + 2) }

/-- The data of an IPv4 packet of a protocol to an address, with its source: a header of 20 bytes without options, a good checksum
and no fragment (R439). -/
def ipData (body : List Byte) (proto : Nat) (ip : BitVec 32) : Option (BitVec 32 × List Byte) :=
  let n := beAt body 2 2
  if beAt body 0 1 ≠ 0x45 ∨ !sumOk (body.take 20) ∨ beAt body 6 2 % 2 ^ 14 ≠ 0 ∨ n < 20 ∨ body.length < n ∨ beAt body 9 1 ≠ proto
      ∨ beAt body 16 4 ≠ ip.toNat then none
  else some (BitVec.ofNat 32 (beAt body 12 4), (body.take n).drop 20)

/-- The data of a UDP datagram to a port, with its source port; its checksum is checked when it is not zero (R439). -/
def udpData (src dst : BitVec 32) (d : List Byte) (port : Nat) : Option (BitVec 16 × List Byte) :=
  let n := beAt d 4 2
  if n < 8 ∨ d.length < n ∨ beAt d 2 2 ≠ port ∨ (beAt d 6 2 ≠ 0 ∧ !sumOk (pseudoHeader src dst n ++ d.take n)) then none
  else some (BitVec.ofNat 16 (beAt d 0 2), (d.take n).drop 8)

/-- An ARP request for an address: who asks. -/
def arpAsk (body : List Byte) (ip : BitVec 32) : Option (BitVec 48 × BitVec 32) :=
  if beAt body 0 8 = 0x0001080006040001 ∧ beAt body 24 4 = ip.toNat then
    some (BitVec.ofNat 48 (beAt body 8 6), BitVec.ofNat 32 (beAt body 14 4))
  else none

/-- What an ICMP echo request carries after its checksum. -/
def echoRest (d : List Byte) : Option (List Byte) := if beAt d 0 2 = 0x0800 ∧ 8 ≤ d.length ∧ sumOk d then some (d.drop 4) else none

end Sys2Proof.Machine
end

