-- ==== Sys2Proof/Machine/Access.lean ====
section
/-!
DEFINITION. How a master is answered: abort codes (R458), MSI-X messages (R481), mailbox answers (R478), stored answers
and their segments (R441 to R448), path answers (R475), which entries answer in the present state (R460 to R462), and the
one way in which a write of an entry is decided and answered.
-/
namespace Sys2Proof.Machine

/-! ## Codes -/

/-- The abort codes of R458. -/
def abNoEntry : Nat := 1
def abNoSub : Nat := 2
def abReadOnly : Nat := 3
def abWriteOnly : Nat := 4
def abType : Nat := 5
def abRange : Nat := 6
def abBusy : Nat := 7
def abGated : Nat := 8
def abPath : Nat := 9
def abSequence : Nat := 10
def abSegment : Nat := 11
def abService : Nat := 12
def abResources : Nat := 13
def abNoRole : Nat := 14
def abTimeout : Nat := 15
def abCancelled : Nat := 16

/-- A write that will be answered later (R424, R506). -/
def abLater : Nat := 0x10000

/-- What a write of an entry gives: 0 and the new state, or an abort code and the state unchanged (R457). -/
abbrev WriteRes := Nat × State

/-! ## Host memory and MSI-X -/

/-- The PCI Express link is usable (R493), on the chain head (R16, R495). -/
def State.hostReach (s : State) : Bool :=
  s.pcie.up && s.pcie.bme && !s.pcie.d3 && (s.casc.isHead || !s.casc.roleV)

/-- An MSI-X message: sent, or pending while its vector or the function is masked (R481); none while MSI-X is not enabled
(log 130). -/
def State.sendMsix (s : State) (v : Nat) : State :=
  if !s.pcie.msixOn then s
  else if s.pcie.fmask ∨ s.pcie.mask.contains v then
    s.modPcie (fun p => { p with pend := if p.pend.contains v then p.pend else p.pend ++ [v] })
  else s.emit (.msix v)

/-! ## Mailboxes (R477, R478) -/

def State.mb (s : State) (n : Nat) : Mailbox := tget mailboxDefault s.pcie.mb n

def State.setMb (s : State) (n : Nat) (b : Mailbox) : State :=
  s.modPcie (fun p => { p with mb := tset mailboxDefault p.mb n b })

/-- The answer of a mailbox: MB_DATA, then ALEN, ATYPE and ABORT, then DONE, then the message (R478). -/
def fillMailbox (n code type : Nat) (data : List Byte) (s : State) : State :=
  let b := s.mb n
  let t := s.setMb n { b with
    data := Memory.puts b.data 0 data, alen := data.length, abort := code, atype := type, st := 2, count := b.count + 1 }
  if n < 4 ∧ bit b.req.toNat 58 then t.sendMsix (bits b.req.toNat 52 6) else t

/-! ## Segments (R441 to R444) -/

/-- A segment as bytes. -/
def encSegment (g : Segment) : List Byte :=
  leBytes 16 (g.version.toNat + b2n g.sync * 2 ^ 4 + g.service.toNat * 2 ^ 8 + g.seq.toNat * 2 ^ 16
    + g.segIndex.toNat * 2 ^ 32 + g.segCount.toNat * 2 ^ 48 + g.payload.length * 2 ^ 64 + g.target.toNat * 2 ^ 80
    + b2n g.targetV * 2 ^ 87) ++ g.payload

/-- The segment that some bytes begin with; what follows it is ignored (R438, R441). -/
def decSegment (b : List Byte) : Option Segment :=
  let v := leNat (b.take 16)
  let n := bits v 64 16
  if b.length < 16 + n then none
  else some {
    version := fld v 0 4, sync := bit v 4, service := fld v 8 8, seq := fld v 16 16, segIndex := fld v 32 16
    segCount := fld v 48 16, target := fld v 80 5, targetV := bit v 87, payload := (b.drop 16).take n }

/-- SEG_COUNT of a message of `n` data bytes (R444). -/
def segsFor (n : Nat) : Nat := 1 + ceilDiv (n - 232) 240

/-- The payload of segment `i` of a message (R442, R444). -/
def segPayload (hdr data : List Byte) (i : Nat) : List Byte :=
  if i = 0 then hdr ++ data.take 232 else (data.drop (232 + 240 * (i - 1))).take 240

/-- The access header (R442). -/
def accessHeader (index : BitVec 16) (sub : BitVec 8) (type total : Nat) : List Byte :=
  leBytes 8 (index.toNat + sub.toNat * 2 ^ 16 + type % 256 * 2 ^ 24 + total * 2 ^ 32)

/-- The segments of a message in ascending SEG_INDEX (R444). -/
def segments (sync : Bool) (service : BitVec 8) (seq : Nat) (hdr data : List Byte) : List Segment :=
  (List.range (segsFor data.length)).map (fun i =>
    { version := 1, sync := sync, service := service, seq := BitVec.ofNat 16 seq, segIndex := BitVec.ofNat 16 i,
      segCount := BitVec.ofNat 16 (segsFor data.length), target := 0, targetV := false,
      payload := segPayload hdr data i })

/-- A segment goes to a master of this device: to one on the field network in a frame, while the link is up and no test mode
stops SDP (R436, R467). -/
def State.sendFrame (s : State) (m : Master) (enc : Encap) (g : Segment) : State :=
  match m with
  | .t1 _ => if s.net.link ∧ s.ent? 0x1100 3 = 0 then s.emit (.frame (encapFrame s.ident.mac enc (encSegment g))) else s
  | _ => s.emit (.segment m g)

/-- One answer segment goes to its master: in a frame of the request's encapsulation, or in a DICT_RSP packet to the device
at which the request entered (R440, R451). -/
def sendSegment (m : Master) (via : Via) (g : Segment) (s : State) : State :=
  match m with
  | .peer arg => s.send ptDictRsp (BitVec.ofNat 5 (bits arg.toNat 0 5)) 0 via.tag.toNat 0 (encSegment g)
  | _ => s.sendFrame m via.enc g

/-- Send an answer: ABORT, or READ_ANSWER and WRITE_ANSWER (R443). -/
def sendAnswer (m : Master) (via : Via) (seq : Nat) (index : BitVec 16) (sub : BitVec 8) (a : Answer) (s : State) :
    State :=
  let data := if a.abort = 0 then a.data else leBytes 4 a.abort
  (segments false (if a.abort = 0 then a.service else 0xC0) seq (accessHeader index sub a.type data.length) data).foldl
    (fun t g => sendSegment m via g t) s

/-- The session of a master. -/
def State.session (s : State) (m : Master) : Option Session := s.net.sess.find? (fun x => decide (x.master = m))

def State.modSession (s : State) (m : Master) (f : Session → Session) : State :=
  s.modNet (fun n => { n with sess := modBy (fun x => decide (x.master = m)) f n.sess })

/-! ## Answers (R448, R458) -/

/-- A stalling scalar access is over: its hold ends, and the stream goes on (R167, R576). -/
def endAccess (a : ScalarAccess) (s : State) : State :=
  (s.noteHold a.hold).modSeq (fun q => { q with access := none, planned := max q.planned (s.clk.cycle + 1) })

/-- A DICT_RD or DICT_WR returns: a refused one is a slot fault whose DETAIL is the abort code (R166, R174). -/
def answerBundle (code : Nat) (data : List Byte) (s : State) : State :=
  match s.seq.access with
  | none => s
  | some a =>
    let t := endAccess a s
    if code ≠ 0 then (t.raiseExc { t.slotRec a.ctx causeDict code with job := a.job }).settleHalt
    else match a.op with
      | .dictRd d _ _ => t.xSet d (BitVec.ofNat 64 (leNat data))
      | _ => t

/-- An answer to a master that asks through a session: stored there and sent over its path. -/
def answerSession (m : Master) (code type : Nat) (service : BitVec 8) (data : List Byte) (s : State) : State :=
  match s.session m with
  | some x =>
    if x.answered ∨ x.reasm.isSome then s.emit (.answer m code type data)
    else
      let a : Answer := { service := service, abort := code, type := type, data := data }
      sendAnswer m x.via x.last x.index x.sub a (s.modSession m (fun y => { y with answered := true, answer := some a }))
  | none => s.emit (.answer m code type data)

/-- Answer a request of a master: to the bundle's scalar access, into its mailbox, or into its session and over its path.
An abort answer is counted in ABORTS_SENT. -/
def State.answer (s : State) (m : Master) (code type : Nat) (service : BitVec 8) (data : List Byte) : State :=
  match m with
  | .bundle => answerBundle code data s
  | .mailbox n =>
    let t := if code = 0 then s else s.count 0x600C 7 clsFailed
    if (t.mb n.toNat).st = 1 then fillMailbox n.toNat code type data t else t.emit (.answer m code type data)
  | _ => answerSession m code type service data (if code = 0 then s else s.count 0x600C 7 clsFailed)

/-- WRITE_ANSWER. -/
def svcWrite : BitVec 8 := 0x82
def svcRead : BitVec 8 := 0x81

/-- A write that was to be answered later is answered, unless its request was dropped meanwhile. -/
def State.answerLate (s : State) (m : Option Master) (type code : Nat) : State :=
  match m with
  | some who => s.answer who code type svcWrite []
  | none => s

/-- The type of an entry, as an answer gives it (R442). -/
def entryType (i j : Nat) : Nat :=
  match findRow i j with
  | some r => r.typ
  | none => if indexExists i ∧ j = 0 then tU8 else 0

/-- Answer a dictionary write to an entry of type `ty`: at once, or later where the write says so. -/
def answerWrite (m : Master) (ty : Nat) (r : WriteRes) : State :=
  if r.1 = abLater then r.2 else r.2.answer m r.1 ty svcWrite []

/-- A path answer: the new state, or a failure that changes nothing, counted for PCI Express (R475). -/
def pathAnswer (m : Master) (s : State) (r : Option State) : State :=
  match r with
  | some t => t.emit (.pathOk m)
  | none => (s.emit (.pathFail m)) |> fun t => if m = .host then t.count 0x600D 1 clsFailed else t

/-- A write on a path to a region of one block: it fails while the block is gated (R513). -/
def pathCmd (m : Master) (blk : Nat) (r : Option State) (s : State) : Result :=
  .next (pathAnswer m s (if s.gated blk then none else r))

/-! ## Which entries answer (R460 to R462) -/

/-- Areas that answer in Umbra mode (R461). -/
def areaUmbra (i : Nat) : Bool :=
  decide (i = 0x1000) || decide (i = 0x1100) || decide (i = 0x2000) || (decide (0x6000 ≤ i) && decide (i ≤ 0x6010))

/-- The block that gates an entry in a serving mode (R465). -/
def entryBlock (i j : Nat) : Option Nat :=
  if i = 0x4100 then some blkSeq
  else if i = 0x4300 ∨ i = 0x4301 then some blkExpanders
  else if i = 0x4400 then some blkStream
  else if i = 0x4500 ∨ i = 0x4510 ∨ i = 0x4511 then some blkMigration
  else if i = 0x4600 ∧ 3 ≤ j ∧ j ≤ 9 then some blkDeep
  else if 0x5100 ≤ i ∧ i ≤ 0x511F then some blkPcie
  else none

/-- Whether an entry answers in the present device state (R460). -/
def State.entryOpen (s : State) (i j : Nat) : Bool :=
  if s.boot.st = .recovery then decide (i = 0x1000) || decide (i = 0x1200) || decide (i = 0x8000)
  else if s.boot.stopped then areaUmbra i || decide (i = 0x8000)
  else if s.pwr.mode = 4 then areaUmbra i
  else match entryBlock i j with
    | some b => !s.gated b
    | none => true

/-- The dictionary answers from B4 of a start, and in RECOVERY, until a thermal trip turns core 0 OFF (R524, R529, R550). -/
def State.answers (s : State) : Bool := (s.boot.b4Done || decide (s.boot.st = .recovery)) && !s.pwr.tripped

/-- Requests are held: the device is moving into or out of Umbra mode (R461), or core 0 hands over the dictionary
(R462). -/
def State.umbraMove (s : State) : Bool := s.pwr.entering || s.pwr.waking
def State.coreHolds (s : State) : Bool := decide (s.boot.fw = .handingOver) && decide (s.boot.fwCores = 3)

/-- A held write of a serving mode to MODE during the entry into Umbra mode is a latched wake event (R522). -/
def latchMode (r : DictReq) (write : Bool) (s : State) : State :=
  if s.pwr.entering ∧ write ∧ r.index = 0x2000 ∧ r.sub = 1 ∧ leNat r.data < 4 then
    s.modPwr (fun p => { p with wakeLatch := p.wakeLatch ++ [(2, some (leNat r.data))] })
  else s

/-- A request is held until the move or the handover ends (R461, R462). -/
def holdRequest (m : Master) (r : DictReq) (write : Bool) (s : State) : State :=
  let t := latchMode r write (s.modNet (fun n => { n with held := n.held ++ [(m, r, write)] }))
  if s.umbraMove then t else t.addCnt 0x600F 13 1

/-- A request waits behind what it needs. -/
def waitRequest (m : Master) (r : DictReq) (write : Bool) (s : State) : State :=
  s.modNet (fun n => { n with held := n.held ++ [(m, r, write)] })

/-- The master that waits for a STORE_SETTINGS to be committed (R456). -/
def Transact.waiter (t : Transact) : Option Master := match t.data with | .settings _ m => m | _ => none

/-- A write of this master is still to be answered (R424, R456, R506, R520). -/
def State.awaits (s : State) (m : Master) : Bool :=
  decide (s.pwr.modeWait = some m) || decide (s.clk.srcWait = some (some m))
    || s.str.enable.any (fun w => decide (w.master = some m))
    || (s.media.waiting ++ s.media.writing.toList).any (fun t => decide (t.waiter = some m))

/-- A transaction whose master waits for it no more. -/
def Transact.unasked (gone : Master → Bool) (t : Transact) : Transact :=
  match t.data with | .settings v m => { t with data := .settings v (m.filter (fun x => !gone x)) } | _ => t

/-- The requests of some masters are dropped wherever they wait: what a write of theirs has begun goes on, and nothing answers
it (R447, R493). -/
def State.dropAwaits (s : State) (gone : Master → Bool) : State :=
  let keep := fun (m : Option Master) => m.filter (fun x => !gone x)
  let t := (((s.modPwr (fun p => { p with modeWait := keep p.modeWait })).modClk (fun c => { c with
    srcWait := c.srcWait.map keep })).modMedia (fun m => { m with
      waiting := m.waiting.map (fun t => t.unasked gone), writing := m.writing.map (fun t => t.unasked gone) })).modNet
        (fun n => { n with held := n.held.filter (fun h => !gone h.1) })
  { t with str := { t.str with enable := t.str.enable.map (fun w => { w with master := keep w.master }) } }

/-- A request waits for an earlier one of its master: a master's requests are taken one at a time, and each write is
answered before the next is taken (R459, R567). -/
def State.behind (s : State) (m : Master) : Bool := s.awaits m || s.net.held.any (fun h => decide (h.1 = m))

/-- A write of `n` bytes with value `v` to entry `i`:`j`: unanswered before B4, held, behind an earlier request of its
master, GATED, or decided by `w`. -/
def entryWrite (m : Master) (i j n v : Nat) (w : State → WriteRes) (s : State) : Result :=
  let r : DictReq := { index := BitVec.ofNat 16 i, sub := BitVec.ofNat 8 j, type := 0, want := 0, data := leBytes n v }
  .next (if !s.answers then s
    else if s.umbraMove ∨ s.coreHolds then holdRequest m r true s
    else if s.behind m then waitRequest m r true s
    else if !s.entryOpen i j then s.answer m abGated (entryType i j) svcWrite []
    else answerWrite m (entryType i j) (w s))

/-! ## Requests forwarded to a fenced role (R452) -/

/-- The type of the entry that a mailbox request names (R478). -/
def State.mbType (s : State) (n : Nat) : Nat := entryType (bits (s.mb n).req.toNat 0 16) (bits (s.mb n).req.toNat 16 8)

/-- The chain head answers a forwarded request with an abort of its own. -/
def abortFwd (f : Fwd) (code : Nat) (s : State) : State :=
  let t := s.modNet (fun n => { n with fwd := n.fwd.filter (fun x => decide (x.tag ≠ f.tag)) })
  match f.master with
  | .mailbox n => t.answer (.mailbox n) code (t.mbType n.toNat) svcWrite []
  | m => sendAnswer m { tag := 0, enc := f.enc } f.seq f.index f.sub
      { service := 0, abort := code, type := entryType f.index.toNat f.sub.toNat, data := [] } (t.count 0x600C 7 clsFailed)

/-- Every request forwarded to a role that is fenced ends with NO_ROLE, and so do the mailbox requests that wait for it
(R479). -/
def abortRole (r : Nat) (s : State) : State :=
  let l := s.net.mbWait.filter (fun w => decide (w.2 = r))
  let t := (s.net.fwd.filter (fun f => decide (f.role = r))).foldl (fun t f => abortFwd f abNoRole t) s
  l.foldl (fun u w => u.answer (.mailbox (BitVec.ofNat 3 w.1)) abNoRole (u.mbType w.1) svcWrite [])
    (t.modNet (fun n => { n with mbWait := n.mbWait.filter (fun w => decide (w.2 ≠ r)) }))

end Sys2Proof.Machine
end

