-- ==== Sys2Proof/Machine/Control.lean ====
section
/-!
DEFINITION. The control, sync and scalar slots (R134 to R145, R163 to R167), the commands that start, halt and resume
the sequencer (R182), and the release from IDLE (R138). A slot's operation takes the state before the bundle's cycle,
which it reads, and the state that the slots before it left, which it changes (R126, R127).
-/
namespace Sys2Proof.Machine

/-- One sequencer cycle passes (log 2); with the sequencer's clock off, one tick (R182). -/
def idleCycle (s : State) : State :=
  if s.seqClockRuns then s.passCycles 1 else s.modClk (fun c => c.addTicks 1)

/-- A slot command on its own: the operation, then the halt that it may owe (R175). -/
def slotCmd (op : State → State → State) (s : State) : Result := .next (op s s).settleHalt

/-! ## Control -/

/-- A taken branch (R137): the target issues max(4, REPEAT + 1) cycles later; in a rank its BRANCH word is sent (R421). -/
def takeBranch (c : SlotCtx) (target : BitVec 16) (s : State) : State :=
  let t := s.modSeq (fun q => { q with
    pc := target, planned := max q.planned (s.clk.cycle + max 4 (c.rep.toNat + 1)) })
  if s.inRank then
    let v := target.toNat + 2 ^ 16 + bits c.bundle.toNat 0 7 * 2 ^ 17
    (t.sendLock 5 v).modCasc (fun k => { k with
      lock := { k.lock with words := k.lock.words ++ [(k.role, BitVec.ofNat 24 v)] } })
  else t

def opJump (c : SlotCtx) (arg : BitVec 16) (_pre s : State) : State := takeBranch c arg s

def opBnz (c : SlotCtx) (reg : BitVec 5) (arg : BitVec 16) (pre s : State) : State :=
  if pre.x reg ≠ 0 then takeBranch c arg s else s

def opBz (c : SlotCtx) (reg : BitVec 5) (arg : BitVec 16) (pre s : State) : State :=
  if pre.x reg = 0 then takeBranch c arg s else s

def opLoop (c : SlotCtx) (reg : BitVec 5) (arg : BitVec 16) (pre s : State) : State :=
  let v := pre.x reg
  if v = 0 then s
  else
    let t := s.xSet reg (v - 1)
    if v - 1 ≠ 0 then takeBranch c arg t else t

/-- CALL pushes the index of the next bundle; with 8 entries held it is a STACK fault (R136). -/
def opCall (c : SlotCtx) (arg : BitVec 16) (pre s : State) : State :=
  if 8 ≤ pre.seq.stack.length then s.slotFault c causeStack 0
  else takeBranch c arg (s.modSeq (fun q => { q with stack := (c.bundle + 1) :: q.stack }))

def opRet (c : SlotCtx) (pre s : State) : State :=
  match pre.seq.stack with
  | [] => s.slotFault c causeStack 0
  | a :: rest => takeBranch c a (s.modSeq (fun q => { q with stack := rest }))

/-- Whether a ring of a stream in a mask holds work (R135, R138). -/
def State.maskedWork (s : State) (mask : BitVec 16) : Bool :=
  streamNums.any (fun n => mask.getLsbD n && s.ringHasWork n)

/-- IDLE (R135, R138): a zero mask is a RANGE fault of ARG; a masked ring that holds work lets issue go on. -/
def opIdle (c : SlotCtx) (mask : BitVec 16) (pre s : State) : State :=
  if mask = 0 then s.slotFault c causeRange 0x103
  else if (pre.readRings mask).maskedWork mask then s.readRings mask
  else (s.readRings mask).modSeq (fun q => { q with st := .idle, idle := some mask })

/-- TRAP records its code; issue continues and no job fails (R135, R174). -/
def opTrap (c : SlotCtx) (code : BitVec 16) (_pre s : State) : State := s.slotFault c causeTrap code.toNat

/-- HALT: the sequencer halts once the bundle has ended (R135, R177). -/
def opHalt (_c : SlotCtx) (_pre s : State) : State := s.modSeq (fun q => { q with haltOwed := some .halted })

/-! ## Sync -/

def opSignal (_c : SlotCtx) (obj arg : BitVec 14) (_pre s : State) : State :=
  s.yAdd obj.toNat (arg.zeroExtend 32)

def opSet (_c : SlotCtx) (obj arg : BitVec 14) (_pre s : State) : State := s.ySet obj.toNat (arg.zeroExtend 32)

def opSetX (_c : SlotCtx) (obj : BitVec 14) (reg : BitVec 5) (pre s : State) : State :=
  s.ySet obj.toNat ((pre.x reg).truncate 32)

/-- WAIT_GE holds: unsigned comparison (R141). -/
def waitGeHolds (obj arg : BitVec 14) (s : State) : Bool := decide (arg.toNat ≤ (s.y obj.toNat).toNat)

/-- WAIT_GE_X holds: the difference modulo 2^32, read as signed, is 0 or more (R141). -/
def waitGeXHolds (obj : BitVec 14) (reg : BitVec 5) (s : State) : Bool :=
  Word.reached (s.y obj.toNat) ((s.x reg).truncate 32)

/-- The sequencer stalls from this cycle (R128). -/
def beginStall (s : State) : State :=
  match s.seq.stall with
  | some _ => s
  | none => s.modSeq (fun q => { q with
      st := .stalled
      stall := some { since := s.clk.cycle, tick := s.clk.ticks, window := s.ent? 0x4400 4, held := false,
                      probed := false } })

/-- SIGNAL_PEER (R141, R422): 1 is added on the named device; an absent device is a NO_PEER fault. A member of the same rank is
told the issue cycle. -/
def opSignalPeer (c : SlotCtx) (obj : BitVec 14) (dev : BitVec 5) (pre s : State) : State :=
  if !pre.rolePresent dev.toNat then s.slotFault c causeNoPeer 0
  else if dev = pre.casc.role ∧ pre.casc.roleV then s.yAdd obj.toNat 1
  else if pre.inRank ∧ pre.rankMembers.contains dev.toNat then s.emit (.peerSignal dev obj (BitVec.ofNat 24 s.rankCycle))
  else s.send ptSignal dev obj.toNat 0 1

/-! ## Scalar -/

def simm (imm : BitVec 9) : DWord := imm.signExtend 64

def opAddi (_c : SlotCtx) (d r : BitVec 5) (imm : BitVec 9) (pre s : State) : State :=
  s.xSet d (pre.x r + simm imm)
def opAdd (_c : SlotCtx) (d r : BitVec 5) (pre s : State) : State := s.xSet d (pre.x d + pre.x r)
def opSub (_c : SlotCtx) (d r : BitVec 5) (pre s : State) : State := s.xSet d (pre.x d - pre.x r)
def opAnd (_c : SlotCtx) (d r : BitVec 5) (pre s : State) : State := s.xSet d (pre.x d &&& pre.x r)
def opOr (_c : SlotCtx) (d r : BitVec 5) (pre s : State) : State := s.xSet d (pre.x d ||| pre.x r)

/-- IMM[5:0] as a shift amount (R164). -/
def shamt (imm : BitVec 9) : Nat := bits imm.toNat 0 6

def opShli (_c : SlotCtx) (d r : BitVec 5) (imm : BitVec 9) (pre s : State) : State :=
  s.xSet d (pre.x r <<< shamt imm)
def opShri (_c : SlotCtx) (d r : BitVec 5) (imm : BitVec 9) (pre s : State) : State :=
  s.xSet d (pre.x r >>> shamt imm)
def opMovhi (_c : SlotCtx) (d : BitVec 5) (imm : BitVec 9) (pre s : State) : State :=
  s.xSet d ((pre.x d <<< 9) ||| imm.zeroExtend 64)
def opCyc (_c : SlotCtx) (d : BitVec 5) (_pre s : State) : State := s.xSet d (BitVec.ofNat 64 s.clk.cycle)

/-- SYNC_RD: readable at t + 2 (R164, R167). -/
def opSyncRd (c : SlotCtx) (d r : BitVec 5) (pre s : State) : State :=
  s.schedule (s.clk.cycle + 2) (.reg d ((pre.y (bits (pre.x r).toNat 0 14)).zeroExtend 64) (s.jobOf c))

/-- The address of an LD or ST: X[SRC] + 8 * IMM, modulo 2^64 (R164). -/
def ldAddr (r : BitVec 5) (imm : BitVec 9) (pre : State) : Nat := (pre.x r + (simm imm <<< 3)).toNat

/-- A scalar access that stalls the stream until it returns (R167). -/
def startAccess (c : SlotCtx) (op : ScalarOp) (s : State) : State :=
  s.modSeq (fun q => { q with access := some { ctx := c, job := s.jobOf c, op := op, hold := none, sent := false } })

/-- A bus error of a scalar access (R165): nothing changes but the record. -/
def busError (c : SlotCtx) (addr : Nat) (s : State) : State :=
  s.raiseExc { s.slotRec c causeBus 0 with addr := addr }

/-- LD (R165, R167): a buffer-tier load is readable at t + 12; any other waits for its tier. -/
def opLd (c : SlotCtx) (d r : BitVec 5) (imm : BitVec 9) (pre s : State) : State :=
  let a := ldAddr r imm pre
  if a % 8 ≠ 0 then s.raiseExc { s.slotRec c causeRange 0 with addr := a }
  else if inBuffer a 8 then
    (if pre.gated blkBuffer then busError c a s
     else s.schedule (s.clk.cycle + 12) (.reg d (BitVec.ofNat 64 (numAt pre.mem a 8)) (s.jobOf c)))
  else startAccess c (.ld d a) s

/-- ST (R165, R167): a buffer-tier store is visible at t + 12. -/
def opSt (c : SlotCtx) (d r : BitVec 5) (imm : BitVec 9) (pre s : State) : State :=
  let a := ldAddr r imm pre
  if a % 8 ≠ 0 then s.raiseExc { s.slotRec c causeRange 0 with addr := a }
  else if inBuffer a 8 then
    (if pre.gated blkBuffer then busError c a s
     else s.schedule (s.clk.cycle + 12) (.store a (leBytes 8 (pre.x d).toNat) (s.jobOf c)))
  else startAccess c (.st a (leBytes 8 (pre.x d).toNat)) s

/-- The entry that X[SRC] names: index [23:8], subindex [7:0] (R164). -/
def entryIdx (v : DWord) : BitVec 16 := fld v.toNat 8 16
def entrySub (v : DWord) : BitVec 8 := fld v.toNat 0 8

def opDictRd (c : SlotCtx) (d r : BitVec 5) (pre s : State) : State :=
  startAccess c (.dictRd d (entryIdx (pre.x r)) (entrySub (pre.x r))) s

def opDictWr (c : SlotCtx) (d r : BitVec 5) (pre s : State) : State :=
  startAccess c (.dictWr (entryIdx (pre.x r)) (entrySub (pre.x r)) (pre.x d)) s

def opTagjob (c : SlotCtx) (d r : BitVec 5) (pre s : State) : State :=
  startAccess c (.tagjob d (fld (pre.x r).toNat 0 4)) s

/-! ## The meanings of the slots -/

def execJump (c : SlotCtx) (arg : BitVec 16) (s : State) : Result := slotCmd (opJump c arg) s
def execBnz (c : SlotCtx) (reg : BitVec 5) (arg : BitVec 16) (s : State) : Result := slotCmd (opBnz c reg arg) s
def execBz (c : SlotCtx) (reg : BitVec 5) (arg : BitVec 16) (s : State) : Result := slotCmd (opBz c reg arg) s
def execLoop (c : SlotCtx) (reg : BitVec 5) (arg : BitVec 16) (s : State) : Result := slotCmd (opLoop c reg arg) s
def execCall (c : SlotCtx) (arg : BitVec 16) (s : State) : Result := slotCmd (opCall c arg) s
def execRet (c : SlotCtx) (s : State) : Result := slotCmd (opRet c) s
def execIdle (c : SlotCtx) (mask : BitVec 16) (s : State) : Result := slotCmd (opIdle c mask) s
def execTrap (c : SlotCtx) (code : BitVec 16) (s : State) : Result := slotCmd (opTrap c code) s
def execHalt (c : SlotCtx) (s : State) : Result := slotCmd (opHalt c) s
def execSignal (c : SlotCtx) (obj arg : BitVec 14) (s : State) : Result := slotCmd (opSignal c obj arg) s
def execSet (c : SlotCtx) (obj arg : BitVec 14) (s : State) : Result := slotCmd (opSet c obj arg) s
def execSetX (c : SlotCtx) (obj : BitVec 14) (reg : BitVec 5) (s : State) : Result := slotCmd (opSetX c obj reg) s

/-- WAIT_GE: the bundle issues when the condition holds, and stalls otherwise (R128, R141). -/
def execWaitGe (_c : SlotCtx) (obj arg : BitVec 14) (s : State) : Result :=
  .next (if waitGeHolds obj arg s || s.waitsHeld then s else beginStall s)

def execWaitGeX (_c : SlotCtx) (obj : BitVec 14) (reg : BitVec 5) (s : State) : Result :=
  .next (if waitGeXHolds obj reg s || s.waitsHeld then s else beginStall s)

def execSignalPeer (c : SlotCtx) (obj : BitVec 14) (dev : BitVec 5) (s : State) : Result :=
  slotCmd (opSignalPeer c obj dev) s
def execAddi (c : SlotCtx) (d r : BitVec 5) (imm : BitVec 9) (s : State) : Result := slotCmd (opAddi c d r imm) s
def execAdd (c : SlotCtx) (d r : BitVec 5) (s : State) : Result := slotCmd (opAdd c d r) s
def execSub (c : SlotCtx) (d r : BitVec 5) (s : State) : Result := slotCmd (opSub c d r) s
def execAnd (c : SlotCtx) (d r : BitVec 5) (s : State) : Result := slotCmd (opAnd c d r) s
def execOr (c : SlotCtx) (d r : BitVec 5) (s : State) : Result := slotCmd (opOr c d r) s
def execShli (c : SlotCtx) (d r : BitVec 5) (imm : BitVec 9) (s : State) : Result := slotCmd (opShli c d r imm) s
def execShri (c : SlotCtx) (d r : BitVec 5) (imm : BitVec 9) (s : State) : Result := slotCmd (opShri c d r imm) s
def execMovhi (c : SlotCtx) (d : BitVec 5) (imm : BitVec 9) (s : State) : Result := slotCmd (opMovhi c d imm) s
def execLd (c : SlotCtx) (d r : BitVec 5) (imm : BitVec 9) (s : State) : Result := slotCmd (opLd c d r imm) s
def execSt (c : SlotCtx) (d r : BitVec 5) (imm : BitVec 9) (s : State) : Result := slotCmd (opSt c d r imm) s
def execDictRd (c : SlotCtx) (d r : BitVec 5) (s : State) : Result := slotCmd (opDictRd c d r) s
def execDictWr (c : SlotCtx) (d r : BitVec 5) (s : State) : Result := slotCmd (opDictWr c d r) s
def execCyc (c : SlotCtx) (d : BitVec 5) (s : State) : Result := slotCmd (opCyc c d) s
def execSyncRd (c : SlotCtx) (d r : BitVec 5) (s : State) : Result := slotCmd (opSyncRd c d r) s
def execTagjob (c : SlotCtx) (d r : BitVec 5) (s : State) : Result := slotCmd (opTagjob c d r) s

/-! ## Master writes of sync objects (R145) -/

/-- A write of VALUE sets the object. -/
def execSyncValueWrite (m : Master) (obj : BitVec 14) (value : Word) (s : State) : Result :=
  pathCmd m blkSeq (some (s.ySet obj.toNat value)) s

/-- A write of ADD adds to the object. -/
def execSyncAddWrite (m : Master) (obj : BitVec 14) (value : Word) (s : State) : Result :=
  pathCmd m blkSeq (some (s.yAdd obj.toNat value)) s

/-! ## IDLE_RESUME, start, halt and resume (R138, R182) -/

/-- Issue resumes 8 cycles after a masked ring becomes non-empty (R138). -/
def execIdleResume (s : State) : Result :=
  .next (match s.seq.idle with
    | some mask =>
      let t := s.readRings mask
      if t.seq.st = .idle ∧ t.maskedWork mask then
        t.modSeq (fun q => { q with st := .running, idle := none, planned := max q.planned (t.clk.cycle + 8) })
      else t
    | none => s)

/-- Issue starts at SEQ_START with the registers cleared (R163, R177), at a given cycle. The call stack is emptied with them
(log 90). What was issued before a halt runs to its end (R177): a scalar access still outstanding returns before the first
bundle issues, and a register result still due is written when it falls due (log 91). -/
def startIssue (cyc : Nat) (s : State) : State :=
  s.modSeq (fun q => { q with
    st := .running, pc := BitVec.ofNat 16 (s.ent? 0x4100 3), regs := [], stack := [],
    planned := cyc, stall := none, idle := none, haltOwed := none })

/-- Issue goes on at SEQ_PC (R177). -/
def resumeIssue (cyc : Nat) (s : State) : State :=
  s.modSeq (fun q => { q with st := .running, planned := cyc, stall := none, idle := none, haltOwed := none })

/-- In a rank the master names a cycle 64 ahead in START, sets RANK_CYCLE to agree, and every member starts there
(R419). -/
def rankStart (s : State) : State :=
  let v := bits (s.rankCycle + 64) 0 24
  startIssue (s.clk.cycle + 64) ((s.sendLock 6 v).modCasc (fun k => { k with
    lock := { lockReset with started := true, offset := (v : Int) - ((s.clk.cycle : Int) + 64) } }))

/-- A single device is a rank of one: its RANK_CYCLE counts from its own start (R17, R416). -/
def loneStart (s : State) : State :=
  startIssue (s.clk.cycle + 1) (s.modCasc (fun k => { k with
    lock := { lockReset with started := true, offset := -((s.clk.cycle : Int) + 1) } }))

/-- Write of SEQ_CONTROL (R182, R419): 1 start, 2 halt after the present bundle, 3 resume. On the master of a rank both 1
and 3 send START, with which every member starts at SEQ_START (R419, log 92). DESIGN CHOICE (log 127): a write of 2 while a bundle
is STALLED halts at once, and that bundle does not issue. -/
def wSeqControl (v : Nat) (s : State) : WriteRes :=
  if v = 1 ∨ v = 3 then
    if s.seqActive ∨ s.boot.stopped then (abBusy, s)
    else if s.inRank then
      if !s.isRankMaster then (abBusy, s)
      else (0, rankStart s)
    else (0, if v = 1 then loneStart s else resumeIssue (s.clk.cycle + 1) s)
  else if v = 2 then
    if s.seqActive then
      (0, if s.inRank then s.rankHaltAll (.halt false) else s.haltSeq .halted)
    else (0, s)
  else (abRange, s)

def execSeqControlStart (m : Master) (s : State) : Result := entryWrite m 0x4100 1 1 1 (wSeqControl 1) s
def execSeqControlHalt (m : Master) (s : State) : Result := entryWrite m 0x4100 1 1 2 (wSeqControl 2) s
def execSeqControlResume (m : Master) (s : State) : Result := entryWrite m 0x4100 1 1 3 (wSeqControl 3) s

end Sys2Proof.Machine
end

