-- ==== Sys2Proof/Machine/Tiers.lean ====
section
/-!
DEFINITION. What several chapters share of the tiers: the FTL's map of a written tile (R387, R389), and bytes written to a
physical tier location.
-/
namespace Sys2Proof.Machine

/-! ## The FTL (R387, R389) -/

def State.ext (s : State) (e : Nat) : Extent := tget extDefault s.media.ext e

def State.setExt (s : State) (e : Nat) (x : Extent) : State :=
  s.modMedia (fun m => { m with ext := tset extDefault m.ext e x })

def State.nandBlk (s : State) (b : Nat) : NandBlk := tget nandBlkDefault s.media.nblk b

def State.setNandBlk (s : State) (b : Nat) (x : NandBlk) : State :=
  s.modMedia (fun m => { m with nblk := tset nandBlkDefault m.nblk b x })

/-- NAND blocks that hold an extent's base location, the one that it moves to or logged tiles, and the open log block. -/
def State.usedBlocks (s : State) : List Nat :=
  s.media.ext.flatMap (fun p => (if p.2.based then [p.2.block] else []) ++ p.2.next.toList
    ++ (p.2.log ++ p.2.merging).map (fun x => x.2)) ++ (s.media.logBlk.map (fun x => x.1)).toList

/-- The free good block with the lowest erase count (R389), or the most-worn one. -/
def State.freeBlock (s : State) (worn : Bool) : Option Nat :=
  let used := s.usedBlocks
  (List.range s.media.nandBlocks).foldl (fun best b =>
    if used.contains b ∨ (s.nandBlk b).bad then best
    else match best with
      | none => some b
      | some c =>
        let x := (s.nandBlk b).erases
        let y := (s.nandBlk c).erases
        if (if worn then y < x else x < y) then some b else best) none

/-- The blocks of an extent's locations that nothing uses any more are released: they are marked ERASING, and erased before
any use (R387, R393, log 111). -/
def State.releaseBlock (s : State) (x : Extent) : State :=
  let used := s.usedBlocks
  ((if x.based then [x.block] else []) ++ (x.log ++ x.merging).map (fun y => y.2)).foldl (fun t b =>
    if used.contains b then t else t.setNandBlk b { t.nandBlk b with erasing := true }) s

/-- A block marked ERASING is erased in full before it is used (R393). -/
def State.eraseNand (s : State) (b : Nat) : State :=
  if (s.nandBlk b).erasing then
    s.setNandBlk b { s.nandBlk b with erases := (s.nandBlk b).erases + 1, reads := 0, erasing := false }
  else s

/-- An extent starts to be merged or moved: RELOCATING, with the block that will hold it (R387, R389). -/
def State.relocate (s : State) (worn : Bool) (e : Nat) : State :=
  if (s.ext e).st = .relocating then s
  else
    match s.freeBlock worn with
    | none => s
    | some b => (s.eraseNand b).setExt e { s.ext e with st := .relocating, next := some b }

/-- A RELOCATING extent is whole in its new location: the map switches in one step, and the old location is released
(R387). -/
def State.switchExt (s : State) (e : Nat) : State :=
  let x := s.ext e
  match x.next with
  | none => s
  | some b => (s.setExt e { x with st := .mapped, log := [], merging := [], based := true, block := b, next := none }).releaseBlock x

/-- The block that takes the next logged tile: the open log block while it has room for one of its 32, else the free block
with the lowest erase count (R387, R389). -/
def State.openLog (s : State) : Nat × State :=
  match s.media.logBlk with
  | some (b, n) =>
    if n < 32 ∧ !(s.nandBlk b).bad then (b, s.modMedia (fun m => { m with logBlk := some (b, n + 1) }))
    else
      match s.freeBlock false with
      | some c => (c, (s.eraseNand c).modMedia (fun m => { m with logBlk := some (c, 1) }))
      | none => (b, s)
  | none =>
    match s.freeBlock false with
    | some c => (c, (s.eraseNand c).modMedia (fun m => { m with logBlk := some (c, 1) }))
    | none => (0, s)

/-- A tile of the deep tier is written (R387): it goes to the extent's log, a tile written again in place of its log copy, and
an extent whose log is full is merged. A tile of a RELOCATING extent joins the merge. -/
def State.ftlWrite (s : State) (tile : Nat) : State :=
  let e := tile / 32
  let k := tile % 32
  let p := s.openLog
  let x := { p.2.ext e with written := s.clk.ticks }
  match x.st with
  | .relocating => p.2.setExt e { x with merging := dropBy (fun y => decide (y.1 = k)) x.merging ++ [(k, p.1)] }
  | _ =>
    let t := p.2.setExt e { x with st := .logged, log := dropBy (fun y => decide (y.1 = k)) x.log ++ [(k, p.1)] }
    if (t.ext e).log.length = 32 then t.relocate false e else t

/-- The tiles of the deep tier that bytes touch. -/
def deepTiles (a n : Nat) : List Nat :=
  if n = 0 then []
  else
    let lo := (a - deepBase) / tileSize
    let hi := (a + n - 1 - deepBase) / tileSize
    (List.range (hi + 1 - lo)).map (fun i => lo + i)

/-- The block that a tile of the deep tier is read from: its log copy's, else the base location's. -/
def Extent.readAt (x : Extent) (k : Nat) : Option Nat :=
  (((x.merging ++ x.log).find? (fun y => decide (y.1 = k))).map (fun y => y.2)).orElse
    (fun _ => if x.based then some x.block else none)

/-- Count a read of the block that holds a tile (R390). -/
def State.ftlRead (s : State) (tile : Nat) : State :=
  match (s.ext (tile / 32)).readAt (tile % 32) with
  | some b => s.setNandBlk b { s.nandBlk b with reads := (s.nandBlk b).reads + 1 }
  | none => s

/-- Write bytes at a physical location of a tier; a deep-tier write passes through the FTL. -/
def State.writePhys (s : State) (a : Nat) (bs : List Byte) : State :=
  let t := s.putMem a bs
  if deepBase ≤ a ∧ a < deepBase + 2 ^ 40 then (deepTiles a bs.length).foldl (fun u k => u.ftlWrite k) t else t

/-- A write by the device itself at a physical location: a request of the tier that holds it (R301), and the bytes. -/
def State.writeNoted (s : State) (a : Nat) (bs : List Byte) (cls : Nat) (stream : Option Nat) : State :=
  (s.noteTier a bs.length cls stream).writePhys a bs

/-- A device address at which a status, result or completion may be written: the buffer, bulk or deep tier. -/
def State.inTier (s : State) (a n : Nat) : Bool := inBuffer a n || s.inBulk a n || s.inDeep a n

/-! ## Objects and tiles (R325 to R327) -/

def State.obj (s : State) (o : Nat) : Obj := tget objDefault s.mig.objs o

def State.setObj (s : State) (o : Nat) (x : Obj) : State :=
  s.modMig (fun m => { m with objs := tset objDefault m.objs o x })

def State.tileEnt (s : State) (i : Nat) : Tile := tget tileDefault s.mig.tiles i

def State.setTile (s : State) (i : Nat) (x : Tile) : State :=
  s.modMig (fun m => { m with tiles := tset tileDefault m.tiles i x })

/-- TILE_COUNT (R325). -/
def Obj.tiles (o : Obj) : Nat := ceilDiv o.size tileSize

/-- The base of a tier in R320; HOME_TIER 0 is the array window. -/
def tierBase (t : Nat) : Nat := if t = 0 then arrayWindow else if t = 1 then 0 else if t = 2 then bulkBase else deepBase

/-- The object and the byte within it of an object-window address. -/
def objOf (a : Nat) : Nat := (a - objectWindow) / 2 ^ 30
def objByte (a : Nat) : Nat := (a - objectWindow) % 2 ^ 30

/-- The object that a move record names, and its KIND (R331). -/
def MoveRec.obj (r : MoveRec) : Nat := bits r.raw.toNat 8 14
def MoveRec.kind (r : MoveRec) : Nat := bits r.raw.toNat 0 4

/-- A DESTROY of the object has been accepted and has not run (R335). -/
def State.destroying (s : State) (o : Nat) : Bool :=
  s.mig.recs.any (fun r => decide (r.obj = o) && decide (r.kind = 1) && !r.started)

/-- The tile entry that an object-window byte belongs to, when the object exists and holds the byte (R327). -/
def State.tileOf (s : State) (a : Nat) : Option Nat :=
  let o := s.obj (objOf a)
  if o.exist ∧ !s.destroying (objOf a) ∧ objByte a < o.size then some (o.mapFirst + objByte a / tileSize) else none

/-- The physical address of an object-window byte (R326, R327): none where the access fails. -/
def State.translate (s : State) (a : Nat) : Option Nat :=
  match s.tileOf a with
  | none => none
  | some i =>
    let t := s.tileEnt i
    if t.poisoned ∨ t.tier = 0 then none else some (tierBase t.tier + t.home * tileSize + a % tileSize)

/-! ## Reads of the expanders (R351) -/

/-- The bytes that an expander reads at an address: object-window bytes at each tile's home (R327); none where some byte
lies outside every tier, in no tile that can be read, or at an array-tier home. -/
def State.unitBytes (s : State) (a n : Nat) : Option (List Byte) :=
  if objectWindow ≤ a then (List.range n).mapM (fun i => (s.translate (a + i)).map (fun p => Memory.byte s.mem p))
  else if s.inTier a n then some (Memory.gets s.mem a n)
  else none

/-- An address that an expander may be given: in a tier, or in the object window. -/
def State.unitAddr (s : State) (a : Nat) : Bool :=
  s.inTier a 64 || (decide (objectWindow ≤ a) && decide (a + 64 ≤ 2 * objectWindow))

/-- A read of the deep tier counts in the NAND blocks it touches (R390). -/
def State.noteRead (s : State) (p n : Nat) : State :=
  if s.inDeep p 1 then (deepTiles p n).foldl (fun u k => u.ftlRead k) s else s

/-- The tier request of an expander's read (R301): that of the tile's home for an object-window address. -/
def State.noteUnit (s : State) (a n : Nat) (stream : Option Nat) : State :=
  match (if objectWindow ≤ a then s.translate a else some a) with
  | some p => (s.noteTier p n 0 stream).noteRead p n
  | none => s

end Sys2Proof.Machine
end

