-- ==== Sys2Proof/Machine/Streams.lean ====
section
/-!
DEFINITION. The stream unit (R277 to R319): taking, closing and completing jobs, pushing and placing records,
receivers, deadlines, waits that cannot end, and the bandwidth controllers' grants.
-/
namespace Sys2Proof.Machine

/-! ## Taking a job (R288, R289) -/

/-- A slot of an inbound ring is freed: its record is forgotten, HEAD passes it, and a bound remote producer gets one
credit (R280, R424). -/
def popHead (n : Nat) (s : State) : State :=
  let b := s.stream n
  let t := s.setStream n { b with
    inb := { b.inb with head := b.inb.next b.inb.head }
    readRecs := tset noRec b.readRecs b.inb.head none
    missDone := b.missDone.filter (fun k => k != b.numAt 0) }
  match s.casc.rbinds.find? (fun r => decide (r.stream = n)) with
  | some r => t.send ptRingCredit r.role n (r.sender + 16 * r.entry) 1
  | none => t

/-- The head record enters CLOSING as a marker (R294), or as a skipped job, which is counted (R306). -/
def closeHead (n : Nat) (skipped : Bool) (s : State) : State :=
  let j := s.jobAt n 0
  let k := { j with closed := s.clk.cycle, skipped := skipped, failed := j.failed || skipped }
  let t := (popHead n s).modStream n (fun b => { b with closing := b.closing ++ [k] })
  if skipped then t.count 0x6008 2 clsFailed else t

/-- The head can enter CLOSING now: it is a marker or a late job, and fewer than 64 such jobs are closing (R290). -/
def State.headCloses (s : State) (n : Nat) : Bool :=
  let j := s.jobAt n 0
  decide ((s.stream n).inb.fill ≠ 0) && (j.marker || s.late n j) && decide ((s.stream n).closedOther < 64)

/-- Markers and late jobs at the head move to CLOSING in ring order (R289). -/
def passHeads (n : Nat) : Nat → State → State
  | 0, s => s
  | k + 1, s => if s.headCloses n then passHeads n k (closeHead n (!(s.jobAt n 0).marker) s) else s

/-- The job register block of a take (R287). -/
def takeReg (s : State) (raw : BitVec 512) (j : Job) : BitVec 1024 :=
  BitVec.ofNat 1024 (raw.toNat + (j.num % 2 ^ 32) * 2 ^ 512 + 2 ^ 544
    + b2n j.failed * 2 ^ 545 + b2n (j.deadlineV && s.passed j.deadline) * 2 ^ 546 + (s.clk.ticks % 2 ^ 64) * 2 ^ 576)

/-- The head record as it becomes current: failed already where a slot before its JOB_TAKE failed it (R133). -/
def State.takenJob (s : State) (n : Nat) : Job :=
  let j := s.jobAt n 0
  match s.seq.taking.find? (fun t => decide (t.1 = { stream := n, num := j.num }) && decide (t.2 ≠ 0)) with
  | some t => j.fail t.2
  | none => j

/-- The first record that is taken becomes the current job; its job register block is readable 20 cycles later (R167,
R289). -/
def takeHead (n : Nat) (s : State) : State :=
  let j := s.takenJob n
  let raw := s.recordOf n (s.stream n).inb.head
  ((popHead n s).modStream n (fun b => { b with cur := some j })).schedule (s.clk.cycle + 20)
    (.jobReg n (some (takeReg s raw j)))

/-- JOB_TAKE (R289). The ARG object is signalled at t + 20, seen from t + 21 (R142); a fault's record is visible at
t + 20 and its signal comes at t + 21. -/
def opJobTake (c : SlotCtx) (stream : BitVec 4) (arg : BitVec 14) (_pre s : State) : State :=
  let n := stream.toNat
  let t := s.clk.cycle
  if s.gated blkStream then s.slotFault c causeBus 0
  else if (s.stream n).cur.isSome then
    (s.schedule (t + 20) (.exc (s.slotRec c causeRange 0))).schedule (t + 22) (.signal arg 1)
  else
    let s0 := s.readRing n
    let s1 := if (s0.stream n).st = .enabled then passHeads n (s0.stream n).inb.fill s0 else s0
    let b := s1.stream n
    let s2 :=
      if b.st = .enabled ∧ b.inb.fill ≠ 0 ∧ ¬ ((s1.jobAt n 0).marker ∨ s1.late n (s1.jobAt n 0)) ∧ ¬ s.boot.stopped
      then takeHead n s1 else s1.schedule (t + 20) (.jobReg n none)
    s2.schedule (t + 21) (.signal arg 1)

def execJobTake (c : SlotCtx) (stream : BitVec 4) (arg : BitVec 14) (s : State) : Result :=
  slotCmd (opJobTake c stream arg) s

/-! ## Closing a job and pushing records (R290, R296) -/

/-- JOB_DONE (R290). -/
def opJobDone (c : SlotCtx) (stream : BitVec 4) (reg : BitVec 5) (pre s : State) : State :=
  let n := stream.toNat
  if s.gated blkStream then s.slotFault c causeBus 0
  else
    match (s.stream n).cur with
    | none => s.slotFault c causeRange 0
    | some j =>
      let v := pre.x reg
      s.modStream n (fun b =>
        let c : StreamBlk := { b with
          cur := none
          closing := b.closing ++ [{ j with
            status := v.truncate 16, failed := j.failed || v.getLsbD 16, closed := s.clk.cycle, byDone := true }] }
        if v.getLsbD 16 then c.showFailed j.num else c)

/-- The current job of a stream holds 4 jobs closed by JOB_DONE: the bundle stalls (R290). -/
def jobDoneFull (n : Nat) (s : State) : Bool :=
  (s.stream n).cur.isSome && decide (4 ≤ (s.stream n).closedByDone)

def execJobDone (c : SlotCtx) (stream : BitVec 4) (reg : BitVec 5) (s : State) : Result :=
  if jobDoneFull stream.toNat s then .next (beginStall s) else slotCmd (opJobDone c stream reg) s

/-- The identities of the running operations of a job (R296). -/
def State.opsOf (s : State) (j : Option JobRef) : List Nat :=
  match j with
  | none => []
  | some r => (s.running.filter (fun p => decide (p.2.2 = some r) && decide (p.1 ≠ 0))).map (fun p => p.1)

/-- RING_PUSH (R296): the 64 bytes at X[reg], on a 64-byte boundary of the buffer tier. It belongs to the job of the
bundle's TAG (R291), whose operations issued before it it waits for (log 93). -/
def opRingPush (c : SlotCtx) (stream : BitVec 4) (reg : BitVec 5) (pre s : State) : State :=
  let n := stream.toNat
  let a := (pre.x reg).toNat
  if s.gated blkStream then s.slotFault c causeBus 0
  else if (s.stream n).st ≠ .enabled then s.slotFault c causeRange 0x102
  else if a % 64 ≠ 0 ∨ !inBuffer a 64 then s.raiseExc { s.slotRec c causeRange 0 with addr := a }
  else
    s.modStream n (fun b => { b with pushq := b.pushq ++ [{
      issued := s.clk.cycle, job := s.jobOf c, stream := ctxStream c,
      data := Memory.gets pre.mem a 64, after := s.opsOf (s.jobOf c) }] })

/-- `k` further pushes would make a fifth entry of the push queue (R296). -/
def pushOver (n k : Nat) (s : State) : Bool := decide (4 < (s.stream n).pushq.length + k)

def execRingPush (c : SlotCtx) (stream : BitVec 4) (reg : BitVec 5) (s : State) : Result :=
  if pushOver stream.toNat 1 s then .next (beginStall s) else slotCmd (opRingPush c stream reg) s

/-! ## Placing and delivering records (R296, R314 to R316) -/

/-- Outbound slots free once every receiver that was ATTACHED at placement has its record or was detached (R315). -/
def freePlaced : List Placed → Ring → List Placed × Ring
  | [], r => ([], r)
  | p :: t, r => if p.waits = [] then freePlaced t { r with head := r.next r.head } else (p :: t, r)

def StreamBlk.free (b : StreamBlk) : StreamBlk :=
  let x := freePlaced b.placed b.outb
  { b with placed := x.1, outb := x.2 }

/-- Records not delivered to a receiver count in MISSED, saturated at 0xFFFF (R314). -/
def Receiver.miss (r : Receiver) (n : Nat) : Receiver :=
  { r with missed := min 0xFFFF (r.missed + n), missedSince := r.missedSince + n }

/-- No placed record waits for receiver `k` any more. -/
def StreamBlk.dropWaits (b : StreamBlk) (k : Nat) : StreamBlk :=
  { b with placed := b.placed.map (fun p => { p with
      waits := p.waits.filter (fun w => w != k), sent := p.sent.filter (fun w => w != k) }) }

/-- The records sent to receiver `k` that its link has not acknowledged. -/
def StreamBlk.unacked (b : StreamBlk) (k : Nat) : Nat := (b.placed.filter (fun p => p.sent.contains k)).length

/-- A receiver leaves: `lost` records count as missed and its outbound slots free (R316). -/
def StreamBlk.leave (b : StreamBlk) (k lost : Nat) (dest : RecvState) : StreamBlk :=
  let c := b.modRecv k (fun r => { r.miss lost with rst := dest })
  (c.dropWaits k).free

/-- A receiver becomes DETACHED; the event is degraded, and the missed records are counted (R316). -/
def detach (n k lost : Nat) (s : State) : State :=
  ((s.modStream n (fun b => b.leave k lost .detached)).count 0x6008 4 clsDegraded).addCnt 0x6008 5 lost

/-- A receiver is fenced: OFF (R316, R426). -/
def fenceRecv (n k : Nat) (s : State) : State :=
  let lag := (s.stream n).lag k
  (s.modStream n (fun b => b.leave k lag .off)).addCnt 0x6008 5 lag

/-- DETACH_LAG as it acts (R314). -/
def StreamBlk.detachLag (b : StreamBlk) (k : Nat) : Nat :=
  let d := (b.recv k).detachLag
  if d = 0 ∨ b.outb.slots < d then b.outb.slots else d

def recvNums : List Nat := List.range 4

/-- A receiver whose lag reaches DETACH_LAG is detached, unless it is LOSSLESS (R316); a record already on its link is still
delivered and is not missed. -/
def lagCheck (n : Nat) (s : State) : State :=
  recvNums.foldl (fun t k =>
    let b := t.stream n
    if (b.recv k).attached ∧ !(b.recv k).lossless ∧ b.detachLag k ≤ b.lag k ∧ b.lag k ≠ 0 then
      detach n k (b.lag k - b.unacked k) t
    else t) s

/-- Placement of a record (R296, R315, R316): the slot at TAIL is written and TAIL advances; entries a master rewrote
are ATTACHED again; detached and fenced receivers miss it; with no receiver its slot frees at once. -/
def place (n : Nat) (data : List Byte) (stream : Option Nat) (s : State) : State :=
  let b := s.stream n
  let b1 := recvNums.foldl (fun x k =>
    let r := x.recv k
    if r.rewritten then
      x.modRecv k (fun q => { q with rst := .attached, rewritten := false, gapNext := decide (q.missedSince ≠ 0) })
    else x) b
  let att := recvNums.filter (fun k => (b1.recv k).attached)
  let off := recvNums.filter (fun k => decide ((b1.recv k).kind ≠ 0) && !(b1.recv k).attached)
  let b2 := off.foldl (fun x k => x.modRecv k (fun r => r.miss 1)) b1
  let b3 : StreamBlk := { b2 with
    outb := { b2.outb with tail := b2.outb.next b2.outb.tail }
    placed := b2.placed ++ [{ data := data, waits := att, sent := [] }] }
  let t := ((s.writeNoted (b.outb.slot b.outb.tail) data 1 stream).setStream n b3.free).addCnt 0x6008 5 off.length
  lagCheck n (if att = [] then t.addCnt 0x6008 8 1 else t)

/-- The oldest push can be placed: the operations it waits for have ended and the outbound ring has a free slot. -/
def State.pushReady (s : State) (n : Nat) (p : Push) : Bool :=
  (p.after.all (fun i => !(s.running.any (fun o => decide (o.1 = i)))))
    && decide ((s.stream n).outb.fill < (s.stream n).outb.slots)

/-- RECORD_PLACED: at max(t + 24, c + 8), in push order (R296). -/
def execRecordPlaced (stream : BitVec 4) (s : State) : Result :=
  let n := stream.toNat
  .next (match (s.stream n).pushq with
    | [] => s
    | p :: rest =>
      if s.pushReady n p then
        place n p.data p.stream ((s.toCycle (max (p.issued + 24) (s.clk.cycle + 8))).modStream n (fun b => { b with
          pushq := rest }))
      else s)

/-- The delivered copy carries GAP and GAP_COUNT (R314). -/
def gapCopy (data : List Byte) (r : Receiver) : List Byte :=
  let v := leNat data
  let base := v - (bits v 36 1) * 2 ^ 36 - (bits v 48 16) * 2 ^ 48
  leBytes 64 (if r.gapNext then base + 2 ^ 36 + (min 0xFFFF r.missedSince) * 2 ^ 48 else base)

/-- A record enters an inbound ring: it is written at TAIL, by a request of a class of its own (R301), TAIL advances, and
ENQUEUED counts it (R286). -/
def enqueue (n cls : Nat) (data : List Byte) (s : State) : State :=
  let b := s.stream n
  (s.writeNoted (b.inb.slot b.inb.tail) data cls none).setStream n { b with
    inb := { b.inb with tail := b.inb.next b.inb.tail }, enqueued := b.enqueued + 1 }

/-- A placed record is still to be sent to receiver `k`. -/
def Placed.owes (p : Placed) (k : Nat) : Bool := p.waits.contains k && !p.sent.contains k

/-- The first placed record still to be sent to receiver `k`, with its place in the ring. -/
def StreamBlk.firstFor (b : StreamBlk) (k : Nat) : Option (Placed × Nat) :=
  (b.placed.find? (fun p => p.owes k)).map (fun p => (p, b.placed.findIdx (fun p => p.owes k)))

/-- Apply a function to the first element with a property. -/
def modFirst {α : Type} (p : α → Bool) (f : α → α) : List α → List α
  | [] => []
  | a :: t => if p a then f a :: t else a :: modFirst p f t

/-- Receiver `k` has received a placed record. -/
def Placed.took (p : Placed) (k : Nat) : Placed :=
  { p with waits := p.waits.filter (fun w => w != k), sent := p.sent.filter (fun w => w != k) }

/-- The oldest record sent to receiver `k` has been received (R315). -/
def received (n k : Nat) (s : State) : State :=
  s.modStream n (fun b =>
    let c : StreamBlk := { b with placed := modFirst (fun p => p.sent.contains k) (fun p => p.took k) b.placed }
    c.free)

/-- A delivery to one receiver (R314, R315, R423, R495). HOST_TAIL advances in the cycle after the record is written. A record for
another device is sent; it counts as received once its
link acknowledges it (R316). -/
def deliver (n k : Nat) (p : Placed) (at' : Nat) (s : State) : State :=
  let r := (s.stream n).recv k
  let d := gapCopy p.data r
  let gone : Placed → Placed := fun p => if r.kind = 2 then { p with sent := p.sent ++ [k] } else p.took k
  let t := (s.noteTier ((s.stream n).outb.slot ((s.stream n).outb.head + at')) 64 (if r.kind = 2 then 2 else 0) none).modStream n
    (fun b =>
      let c : StreamBlk := { b with placed := modFirst (fun p => p.owes k) gone b.placed }
      (c.modRecv k (fun q => { q with
        gapNext := false, missedSince := if q.gapNext then 0 else q.missedSince })).free)
  if r.kind = 1 then enqueue r.stream 1 d t
  else if r.kind = 2 then
    (t.send ptRingRec (BitVec.ofNat 5 r.device) r.stream (n + 16 * k) 0 d).modFar n k (fun x => { x with free := x.free - 1 })
  else
    ((t.putHost (r.hostBase + 64 * (r.hostTail % r.hostSlots)) d).toCycle (t.clk.cycle + 1)).modStream n (fun b =>
      b.modRecv k (fun q => { q with hostTail := (q.hostTail + 1) % (2 * q.hostSlots) }))

/-- The next record of a receiver is delivered, when it is ATTACHED and its ring has a free slot; a local delivery is
visible 8 cycles after (R315). A host ring is reached only while the link is usable (R495). -/
def deliverNext (n k : Nat) (s : State) : State :=
  let r := (s.stream n).recv k
  match (s.stream n).firstFor k with
  | none => s
  | some (p, i) =>
    if r.attached ∧ s.recvFree n k ≠ 0 ∧ (r.kind ≠ 3 ∨ s.hostReach) then
      deliver n k p i (if r.kind = 1 then s.toCycle (s.clk.cycle + 8) else s)
    else s

/-- RECORD_DELIVERY. -/
def execRecordDelivery (stream : BitVec 4) (recv : BitVec 2) (s : State) : Result :=
  .next (deliverNext stream.toNat recv.toNat s)

/-- Records that waited for the host are sent (R495): each host ring takes what it has room for. -/
def deliverWaiting (s : State) : State :=
  streamNums.foldl (fun t n => recvNums.foldl (fun u k =>
    if ((u.stream n).recv k).kind = 3 then
      (List.range (u.stream n).placed.length).foldl (fun v _ => deliverNext n k v) u
    else u) t) s

/-- RECEIVER_REJOIN: a DETACHED receiver whose ring has REJOIN_FREE free slots is ATTACHED again (R316). -/
def execReceiverRejoin (stream : BitVec 4) (recv : BitVec 2) (s : State) : Result :=
  let n := stream.toNat
  let k := recv.toNat
  let r := (s.stream n).recv k
  .next (if r.kind ≠ 0 ∧ r.rst = .detached ∧ max 1 r.rejoinFree ≤ s.recvFree n k then
    s.modStream n (fun b => b.modRecv k (fun q => { q with rst := .attached, gapNext := true }))
  else s)

/-! ## Receiver entries as masters write them (R314, R317) -/

/-- The fields of a receiver entry that a master writes; the device keeps RSTATE, MISSED and HOST_TAIL. -/
def recvWrite (v : Nat) (r : Receiver) : Receiver :=
  { r with
    kind := bits v 0 2, stream := bits v 2 4, device := bits v 6 5, lossless := bit v 11, detachLag := bits v 16 7,
    rejoinFree := bits v 24 7, hostBase := bits v 64 64, hostSlots := bits v 128 7, hostHead := bits v 160 16 }

/-- Whether a KIND 3 entry is one the device takes (R314, R318, R495). -/
def State.recvOk (s : State) (v : Nat) : Bool :=
  decide (bits v 0 2 ≠ 3) ||
    (decide (3 ≤ bits v 128 7) && decide (bits v 128 7 ≤ 64) && decide (bits v 64 64 % 64 = 0)
      && (s.casc.isHead || !s.casc.roleV))

/-- The write of a whole entry: the new state when it is allowed (R317). KIND = 0 releases the entry's lag. -/
def recvEntryWrite (n k v : Nat) (s : State) : Option State :=
  let b := s.stream n
  let r := b.recv k
  if !s.recvOk v then none
  else if b.st = .disabled ∧ bits v 0 2 ≠ 0 then
    some (s.modStream n (fun b => b.modRecv k (fun q => { recvWrite v q with rewritten := decide (q.rst ≠ .attached) })))
  else if r.rst ≠ .attached then
    some (s.modStream n (fun b => b.modRecv k (fun q => { recvWrite v q with rewritten := true })))
  else if bits v 0 2 = 0 then
    some (s.modStream n (fun b => ((b.dropWaits k).modRecv k (recvWrite v)).free))
  else none

/-- A receiver entry as the master-written fields stand (R314). -/
def Receiver.written (r : Receiver) : Nat :=
  r.kind + r.stream * 2 ^ 2 + r.device * 2 ^ 6 + b2n r.lossless * 2 ^ 11 + r.detachLag * 2 ^ 16 + r.rejoinFree * 2 ^ 24
    + r.hostBase * 2 ^ 64 + r.hostSlots * 2 ^ 128 + r.hostHead * 2 ^ 160

/-- The write of HOST_HEAD alone: in a KIND 3 entry it advances by no more than the records the host ring holds; another
entry is written where a master may write it (R317). -/
def hostHeadOk (n k v : Nat) (s : State) : Option State :=
  let r := (s.stream n).recv k
  if r.kind = 3 then
    (if v < 2 * r.hostSlots ∧ ringDist r.hostSlots v r.hostHead ≤ r.hostFill then
       some (s.modStream n (fun b => b.modRecv k (fun q => { q with hostHead := v })))
     else none)
  else if (s.stream n).st = .disabled ∨ r.rst ≠ .attached then recvEntryWrite n k { r with hostHead := v }.written s
  else none

def execReceiverEntryWrite (m : Master) (stream : BitVec 4) (recv : BitVec 2) (value : BitVec 256) (s : State) : Result :=
  pathCmd m blkStream (recvEntryWrite stream.toNat recv.toNat value.toNat s) s

def execHostHeadWrite (m : Master) (stream : BitVec 4) (recv : BitVec 2) (value : BitVec 16) (s : State) : Result :=
  pathCmd m blkStream (hostHeadOk stream.toNat recv.toNat value.toNat s) s

/-! ## Doorbells and record reads (R280, R281) -/

/-- An enabled stream names ring `n` as a local receiver (R281). -/
def State.localProducer (s : State) (n : Nat) : Bool :=
  streamNums.any (fun p => decide ((s.stream p).st = .enabled)
    && recvNums.any (fun k => decide (((s.stream p).recv k).kind = 1) && decide (((s.stream p).recv k).stream = n)))

/-- A remote ring is bound to ring `n` (R424). -/
def State.remoteProducer (s : State) (n : Nat) : Bool := s.casc.rbinds.any (fun r => decide (r.stream = n))

/-- A TAIL write of an inbound ring: the new state when it is accepted (R280, R281); after a fatal event no job is
accepted (R560). -/
def tailWrite (n v : Nat) (s : State) : Option State :=
  let b := s.stream n
  let nf := ({ b.inb with tail := v } : Ring).fill
  if b.st = .enabled ∧ !s.boot.stopped ∧ !s.localProducer n ∧ !s.remoteProducer n ∧ v < 2 * b.inb.slots
      ∧ b.inb.fill ≤ nf ∧ nf ≤ b.inb.slots then
    some (s.setStream n { b with
      inb := { b.inb with tail := v }, enqueued := b.enqueued + BitVec.ofNat 32 (nf - b.inb.fill) })
  else none

def execInboundTailWrite (m : Master) (stream : BitVec 4) (tail : BitVec 16) (s : State) : Result :=
  pathCmd m blkStream (tailWrite stream.toNat tail.toNat s) s

/-- The device reads one record whole, once, at a moment of its own between the doorbell and the first use of a field
(R280, log 6). -/
def execJobRecordRead (stream : BitVec 4) (index : BitVec 16) (s : State) : Result :=
  .next (if (s.stream stream.toNat).indexes.contains index.toNat then readRecord stream.toNat s index.toNat else s)

/-! ## Enabling and disabling (R281, R282, R424) -/

/-- A ring lies on a 64-byte boundary, has 3 to 64 slots, and lies whole in one tier (R282). -/
def State.ringOk (s : State) (r : Ring) : Bool :=
  decide (3 ≤ r.slots) && decide (r.slots ≤ 64) && decide (r.base % 64 = 0)
    && (inBuffer r.base (64 * r.slots) || s.inBulk r.base (64 * r.slots))

/-- The entries of a stream of one KIND. -/
def StreamBlk.ofKind (b : StreamBlk) (kind : Nat) : List Nat :=
  recvNums.filter (fun k => decide ((b.recv k).kind = kind))

/-- Whether setting the bit of stream `n` is refused, and how (R281, R282, R495). -/
def enableRefused (n : Nat) (v : BitVec 16) (s : State) : Nat :=
  let b := s.stream n
  if !(s.ringOk b.inb) ∨ !(s.ringOk b.outb) then abRange
  else if b.ofKind 3 ≠ [] ∧ s.casc.roleV ∧ !s.casc.isHead then abRange
  else if (b.ofKind 1).any (fun k =>
      s.localProducer (b.recv k).stream || s.remoteProducer (b.recv k).stream
        || streamNums.any (fun p => decide (p ≠ n) && v.getLsbD p && decide ((s.stream p).st ≠ .enabled)
          && ((s.stream p).ofKind 1).any (fun j => decide (((s.stream p).recv j).stream = (b.recv k).stream))))
    then abBusy
  else 0

/-- A stream is enabled. -/
def enableStream (n : Nat) (s : State) : State := s.modStream n (fun b => { b with st := .enabled })

/-- A stream's bit is cleared: STOPPING while it holds a current or closing job, else DISABLED (R282); its remote rings
are unbound (R424). -/
def disableStream (n : Nat) (s : State) : State :=
  let b := s.stream n
  let t := (b.ofKind 2).foldl (fun u k =>
    (u.send ptRingBind (BitVec.ofNat 5 (b.recv k).device) (b.recv k).stream (n + 16 * k) 1).modFar n k (fun _ => farRing0 0)) s
  t.modStream n (fun b => { b with st := if b.cur.isSome ∨ b.closing ≠ [] then .stopping else .disabled })

/-- STREAM_ENABLE as it reads: one bit per enabled stream. -/
def State.streamEnable (s : State) : BitVec 16 :=
  BitVec.ofNat 16 (streamNums.foldl (fun v n => if (s.stream n).st = .enabled then v + 2 ^ n else v) 0)

/-- Apply a value of STREAM_ENABLE. -/
def applyEnable (v : BitVec 16) (s : State) : State :=
  streamNums.foldl (fun t n =>
    if v.getLsbD n then (if (t.stream n).st = .enabled then t else enableStream n t)
    else if (t.stream n).st = .enabled then disableStream n t else t) s

/-- A write of STREAM_ENABLE (R282). With receivers of KIND 2 the rings are bound first, and the answer waits. -/
def wStreamEnable (m : Master) (v : BitVec 16) (s : State) : WriteRes :=
  let new := streamNums.filter (fun n => v.getLsbD n && decide ((s.stream n).st ≠ .enabled))
  let bad := (new.map (fun n => enableRefused n v s)).find? (fun c => decide (c ≠ 0))
  match bad with
  | some c => (c, s)
  | none =>
    if s.str.enable.isSome then (abBusy, s)
    else
      let binds := new.flatMap (fun n => ((s.stream n).ofKind 2).map (fun k => (n, k)))
      if binds = [] then (0, applyEnable v s)
      else
        let t := binds.foldl (fun u p =>
          let r := (s.stream p.1).recv p.2
          u.send ptRingBind (BitVec.ofNat 5 r.device) r.stream (p.1 + 16 * p.2) 0) s
        (abLater, { t with str := { t.str with
          enable := some { master := some m, value := v, since := s.clk.ticks, waits := binds } } })

def execStreamEnableSet (m : Master) (value : BitVec 16) (s : State) : Result :=
  entryWrite m 0x4400 3 2 (s.streamEnable ||| value).toNat (wStreamEnable m (s.streamEnable ||| value)) s

def execStreamEnableClear (m : Master) (value : BitVec 16) (s : State) : Result :=
  entryWrite m 0x4400 3 2 (s.streamEnable &&& ~~~value).toNat (wStreamEnable m (s.streamEnable &&& ~~~value)) s

/-- A waiting enable is refused (R424): rings already bound are unbound. -/
def refuseEnable (w : EnableWait) (s : State) : State :=
  let new := streamNums.filter (fun n => w.value.getLsbD n && decide ((s.stream n).st ≠ .enabled))
  let bound := (new.flatMap (fun n => ((s.stream n).ofKind 2).map (fun k => (n, k)))).filter (fun p =>
    !w.waits.contains p)
  let t := bound.foldl (fun u p =>
    let r := (u.stream p.1).recv p.2
    (u.send ptRingBind (BitVec.ofNat 5 r.device) r.stream (p.1 + 16 * p.2) 1).modFar p.1 p.2 (fun _ => farRing0 0)) s
  State.answerLate { t with str := { t.str with enable := none } } w.master tU16 abBusy

/-- No answer to the binds of a stream within 100 us refuses the enable (R424). -/
def ringBindTimeout (n : Nat) (s : State) : State :=
  match s.str.enable with
  | some w => if w.waits.any (fun p => decide (p.1 = n)) then refuseEnable w (s.toTick (w.since + usTicks 100)) else s
  | none => s

/-! ## Completing jobs (R292 to R295) -/

/-- The 16 bytes of a status record (R293). -/
def statusBytes (j : Job) (endTicks : Word) : List Byte :=
  leBytes 16 (j.jobTag.toNat + (j.num % 2 ^ 32) * 2 ^ 32 + j.status.toNat * 2 ^ 64 + b2n j.failed * 2 ^ 80
    + b2n j.missed * 2 ^ 81 + b2n j.skipped * 2 ^ 82 + b2n j.marker * 2 ^ 83 + b2n j.halted * 2 ^ 84
    + j.cause.toNat * 2 ^ 88 + endTicks.toNat * 2 ^ 96)

/-- The deadline-miss record (R308). -/
def missBytes (n : Nat) (queued : Bool) (j : Job) : List Byte :=
  leBytes 16 (n + b2n queued * 2 ^ 4 + (j.num % 2 ^ 32) * 2 ^ 32 + j.jobTag.toNat * 2 ^ 64 + j.deadline.toNat * 2 ^ 96)

/-- A deadline passes before its job is COMPLETE (R307): the miss record, MISS_SYNC, MISSES, MISSED, and with
MISS_FAILS the job fails. -/
def missDeadline (n : Nat) (queued : Bool) (j : Job) (s : State) : State :=
  let b := s.stream n
  let s1 := { s with
    mem := Memory.puts s.mem (streamBase + 0xA000 + 16 * (s.str.missHead.toNat % 64)) (missBytes n queued j)
    str := { s.str with missHead := s.str.missHead + 1 } }
  let s2 := if b.missSyncV then s1.signal (BitVec.ofNat 14 b.missSync) else s1
  let s3 := s2.modStream n (fun x =>
    let y := { x with misses := if x.misses = 0xFFFFFFFF then x.misses else x.misses + 1 }
    if queued then { y with missDone := y.missDone ++ [j.num] }
    else
      let z := y.modJob j.num (fun k => { k with missed := true, failed := k.failed || b.missFails })
      if b.missFails then z.showFailed j.num else z)
  s3.count 0x6008 1 (if b.missFails then clsFailed else clsNone)

/-- The job of a stream whose deadline is not yet missed: current, closing or queued, and whether it is queued. -/
def State.findJob (s : State) (n num : Nat) : Option (Job × Bool) :=
  let b := s.stream n
  match (b.closing ++ b.cur.toList).find? (fun j => decide (j.num = num)) with
  | some j => some (j, false)
  | none => ((s.queued n).find? (fun j => decide (j.num = num))).map (fun j => (j, true))

/-- The tick at which a deadline passes: now when it has. -/
def State.deadlineTick (s : State) (d : Word) : Nat :=
  if s.passed d then s.clk.ticks else s.clk.ticks + (d - s.tick32).toNat

/-- DEADLINE_MISS: in a stream with RT = 1 (R307); the clock comes to the tick at which the deadline passes. -/
def execDeadlineMiss (stream : BitVec 4) (jobNum : Word) (s : State) : Result :=
  let n := stream.toNat
  let t := s.readRing n
  .next (match t.findJob n jobNum.toNat with
    | none => t
    | some (j, q) =>
      if (t.stream n).rt ∧ j.deadlineV ∧ !j.missed then missDeadline n q j (t.toTick (t.deadlineTick j.deadline))
      else t)

/-- LATE_JOB_SKIP: a late record at the head while no job is current (R306). -/
def execLateJobSkip (stream : BitVec 4) (s : State) : Result :=
  let n := stream.toNat
  let t := s.readRing n
  let b := t.stream n
  let j := t.jobAt n 0
  .next (if b.st = .enabled ∧ b.cur = none ∧ b.inb.fill ≠ 0 ∧ !j.marker ∧ b.skipLate ∧ j.deadlineV
      ∧ b.closedOther < 64 then closeHead n true (t.toTick (t.deadlineTick j.deadline))
  else t)

/-- MARKER_CLOSING: a marker at the head while no job is current (R294). -/
def execMarkerClosing (stream : BitVec 4) (s : State) : Result :=
  let n := stream.toNat
  let t := s.readRing n
  let b := t.stream n
  .next (if b.st = .enabled ∧ b.cur = none ∧ b.inb.fill ≠ 0 ∧ (t.jobAt n 0).marker ∧ b.closedOther < 64 then
    closeHead n false t
  else t)

/-- Conditions 1 and 2 of R292 for the oldest closing job, which condition 3 makes the only candidate. -/
def State.jobReady (s : State) (n : Nat) (j : Job) : Bool :=
  let r : JobRef := { stream := n, num := j.num }
  !(s.jobBusy r) && !((s.stream n).pushq.any (fun p => decide (p.job = some r)))

/-- The status record goes to its destination, or the write fails (R293, R495). -/
def writeStatus (j : Job) (s : State) : State :=
  let bs := statusBytes j s.tick32
  if !j.statusV then s
  else if j.statusHost then
    (if j.statusAddr % 16 = 0 ∧ s.hostReach then s.putHost j.statusAddr bs else s.count 0x6008 9 clsFailed)
  else if j.statusAddr % 16 = 0 ∧ s.inTier j.statusAddr 16 then s.writeNoted j.statusAddr bs 1 none
  else s.count 0x6008 9 clsFailed

/-- A job becomes COMPLETE (R292): status record, DONE_SYNC, which a WAIT sees in the next cycle (R142), MSI-X; a STOPPING stream that holds no job is DISABLED
(R282). -/
def completeJob (n : Nat) (j : Job) (rest : List Job) (s : State) : State :=
  let b := s.stream n
  let s1 := writeStatus j s
  let s2 := if b.doneSyncV then s1.signal (BitVec.ofNat 14 b.doneSync) else s1
  let s3 := if b.msixV then s2.sendMsix b.msixVec else s2
  s3.modStream n (fun x => { x with
    closing := rest, st := if x.st = .stopping ∧ x.cur = none ∧ rest = [] then .disabled else x.st })

/-- The oldest closing job as it stands after a deadline miss that comes before its completion (R569). -/
def missFirst (n : Nat) (j : Job) (s : State) : State :=
  if (s.stream n).rt ∧ j.deadlineV ∧ !j.missed ∧ s.passed j.deadline then missDeadline n false j s else s

/-- JOB_COMPLETE: at max(t + 24, c + 16) (R292). -/
def execJobComplete (stream : BitVec 4) (s : State) : Result :=
  let n := stream.toNat
  .next (match (s.stream n).closing with
    | [] => s
    | j :: _ =>
      if s.jobReady n j then
        let t := missFirst n j (s.toCycle (max (j.closed + 24) (s.clk.cycle + 16)))
        match (t.stream n).closing with
        | [] => t
        | k :: rest => completeJob n k rest t
      else s)

/-! ## Waits that cannot end (R309 to R313, R176) -/

/-- The bundle that the sequencer would issue next. -/
def State.presentBundle (s : State) : Nat := numAt s.mem (ibufBase + 64 * s.seq.pc.toNat) 64

/-- The slots of the present bundle. -/
def State.presentSlots (s : State) : List (SlotCtx × SlotDec) := decBundle s.seq.pc s.presentBundle

/-- The owner entry of a sync object: VALID, stream, device (R309). -/
def State.owner (s : State) (obj : Nat) : Option (Nat × Nat) :=
  let v := numAt s.mem (streamBase + 0x2000 + 2 * obj) 2
  if bit v 15 then some (bits v 0 4, bits v 4 5) else none

/-- The RING_PUSH slots of a bundle that name a stream. -/
def pushesIn (l : List (SlotCtx × SlotDec)) (n : Nat) : Nat :=
  (l.filter (fun p => match p.2 with | .cmd (.ringPush _ st _) => decide (st.toNat = n) | _ => false)).length

/-- The streams whose full push queues stall the present bundle: its pushes would make a fifth entry (R296). -/
def State.fullPushes (s : State) : List Nat :=
  streamNums.filter (fun n => decide (pushesIn s.presentSlots n ≠ 0) && pushOver n (pushesIn s.presentSlots n) s)

/-- The LOSSLESS receiver on a stream that holds a full outbound ring: the first for which its oldest record waits (R310,
log 94). -/
def StreamBlk.holder (b : StreamBlk) : Option Receiver :=
  if b.outb.slots ≤ b.outb.fill then
    match b.placed with
    | [] => none
    | p :: _ =>
      (recvNums.find? (fun k => p.waits.contains k && (b.recv k).attached && (b.recv k).lossless
        && (decide ((b.recv k).kind = 1) || decide ((b.recv k).kind = 2)))).map b.recv
  else none

/-- The waits-for edges of the stalled bundle, as stream, device and whether a push forms it: one for each WAIT that does
not hold and whose object has an owner, and one for each full push queue (R310). -/
def State.edges (s : State) : List (Nat × Nat × Bool) :=
  if !bit s.presentBundle 11 then []
  else
    s.presentSlots.flatMap (fun p =>
      match p.2 with
      | .cmd (.waitGe _ obj arg) =>
        if waitGeHolds obj arg s then [] else ((s.owner obj.toNat).map (fun o => (o.1, o.2, false))).toList
      | .cmd (.waitGeX _ obj reg) =>
        if waitGeXHolds obj reg s then [] else ((s.owner obj.toNat).map (fun o => (o.1, o.2, false))).toList
      | _ => [])
    ++ s.fullPushes.filterMap (fun n => (s.stream n).holder.map (fun r =>
      (r.stream, if r.kind = 1 then s.casc.role.toNat else r.device, true)))

/-- The context of the whole present bundle (slot 15, R173). -/
def State.bundleCtx (s : State) : SlotCtx := slotCtx s.presentBundle s.seq.pc 15

/-- The waits of the stalled bundle are treated as held, full push queues drop their oldest records, as many as make room
(log 95), and a WAIT_LIMIT record marks the job of TAG failed (R176, R313). The bundle issues before a halt that the record
owes. -/
def endWait (detail : Nat) (s : State) : State :=
  let t := s.fullPushes.foldl (fun u n => u.modStream n (fun b => { b with
    pushq := b.pushq.drop (b.pushq.length + pushesIn s.presentSlots n - 4) })) s
  (t.modSeq (fun q => { q with stall := q.stall.map (fun x => { x with held := true }) })).slotFault s.bundleCtx
    causeWait detail

/-- A device on which this one's rank stalls as one: itself, or a member of its rank (R179, R312). -/
def State.isHere (s : State) (r : Nat) : Bool :=
  decide (r = s.casc.role.toNat) || s.inRank && s.rankMembers.contains r

/-- An edge to this device is a cycle when it comes from a push, or when no operation tagged with its stream runs
(R311). The members of a rank run the same bundles, so that an edge to another member is tested here too (log 128). -/
def State.localCycle (s : State) : Bool :=
  s.edges.any (fun e => s.isHere e.2.1 && (e.2.2 || !(s.tagBusy e.1)))

/-- The edges that lead to another device. -/
def State.remoteEdges (s : State) : List (Nat × Nat × Bool) := s.edges.filter (fun e => !s.isHere e.2.1)

/-- A probe for a device goes to the master of its rank, which answers for the whole rank (R312); one for an absent role is
dropped (R409, R425). -/
def State.sendProbe (s : State) (r id high : Nat) : State :=
  let dst := if (s.roleOf r).st = .active then (s.masterOf (s.roleOf r).rank).getD r else r
  s.send ptProbe (BitVec.ofNat 5 dst) id 0 high

/-- The identity of this stall's initiator: device * 16 + stream (R312). -/
def State.probeId (s : State) : Nat := s.casc.role.toNat * 16 + bits s.presentBundle 12 4

/-- DETECT_WINDOW_EXPIRY: the stall is tested DETECT_WINDOW after it began (R311), and probes go to other devices once
(R312); in a rank the master sends them. -/
def execDetectWindowExpiry (s : State) : Result :=
  .next (match s.seq.stall with
    | none => s
    | some x =>
      if s.seq.st ≠ .stalled ∨ x.held then s
      else
        let t := s.toTick (x.tick + usTicks x.window)
        if t.localCycle then endWait 1 t
        else if t.remoteEdges ≠ [] ∧ !x.probed ∧ t.isRankMaster then
          (t.remoteEdges.foldl (fun u e => u.sendProbe e.2.1 t.probeId t.probeId) t).modSeq
            (fun q => { q with stall := q.stall.map (fun y => { y with probed := true }) })
        else t)

/-- A WAIT of the present bundle does not hold. -/
def State.waitOpen (s : State) : Bool :=
  s.presentSlots.any (fun p => match p.2 with
    | .cmd (.waitGe _ obj arg) => !waitGeHolds obj arg s
    | .cmd (.waitGeX _ obj reg) => !waitGeXHolds obj reg s
    | _ => false)

/-- The stalled bundle waits on a WAIT or on a full push queue. -/
def State.waitsOn (s : State) : Bool := s.waitOpen || decide (s.fullPushes ≠ [])

/-- The tick by which it waits on neither, if that comes. -/
def State.waitEnds (s : State) : Option Nat := (s.first (fun t => !t.waitsOn)).map (fun t => t.clk.ticks)

/-- WAIT_LIMIT: a bundle stalled on a WAIT or a full push queue for WAIT_LIMIT; 0 is off (R176, R313). A wait that is met
before the limit is not ended. -/
def execWaitLimit (s : State) : Result :=
  .next (match s.seq.stall with
    | none => s
    | some x =>
      let lim := s.ent? 0x4100 6
      let tick := x.tick + usTicks lim
      if s.seq.st = .stalled ∧ !x.held ∧ lim ≠ 0 ∧ s.waitsOn ∧ s.waitEnds.all (fun e => decide (tick < e)) then
        endWait 0 (s.toTick tick)
      else s)

/-! ## Grants (R302 to R304) -/

/-- The share of a class in sixteenths (R302). -/
def State.share (s : State) (t : TierCtl) (cls : Nat) : Nat :=
  bits (s.ent? 0x4400 (match t with | .bulk => 6 | .deep => 7)) (4 * cls) 4

/-- The rank of a request within its class, least first (R304): starved requests oldest first, then by run-dry time,
stream number and arrival, then the others by arrival. -/
def State.reqRank (s : State) (q : TierReq) : List Nat :=
  if q.starved then [0, q.arrival, q.id]
  else
    match q.stream.bind (fun n => (s.runDry n).map (fun d => (n, d))) with
    | some (n, d) => [1, ((d - s.tick32).toInt + 2 ^ 31).toNat, n, q.id]
    | none => [2, q.arrival, q.id]

/-- Lexicographic order of ranks. -/
def lexLt : List Nat → List Nat → Bool
  | [], [] => false
  | [], _ => true
  | _, [] => false
  | a :: as, b :: bs => if a < b then true else if b < a then false else lexLt as bs

/-- The request that ranks first among some. -/
def State.bestReq (s : State) (l : List TierReq) : Option TierReq :=
  l.foldl (fun best q => match best with
    | none => some q
    | some p => if lexLt (s.reqRank q) (s.reqRank p) then some q else some p) none

/-- The request that the controller grants next (R302): of a class that has not had its share of the window, else of
the class whose best request ranks first. -/
def State.nextReq (s : State) (t : TierCtl) : Option TierReq :=
  let q := s.tierQ t
  let due := q.reqs.filter (fun r => decide (q.given.getD r.cls 0 < s.share t r.cls))
  if due ≠ [] then s.bestReq due else s.bestReq q.reqs

/-- TIER_GRANT: one 64-byte transfer (R302, R304). A grant to a request that has waited STARVE_LIMIT is counted. -/
def execTierGrant (tier : TierCtl) (s0 : State) : Result :=
  let s := s0.readRings 0xFFFF
  .next (match s.nextReq tier with
    | none => s
    | some r =>
      let q := s.tierQ tier
      let reqs := (modBy (fun x => decide (x.id = r.id)) (fun x => { x with blocks := x.blocks - 1 }) q.reqs).filter
        (fun x => decide (x.blocks ≠ 0))
      let given := setAt q.given r.cls (q.given.getD r.cls 0 + 1)
      let q' : TierQ :=
        if q.grants + 1 = 16 then { reqs := reqs, given := [0, 0, 0], grants := 0 }
        else { reqs := reqs, given := given, grants := q.grants + 1 }
      let t := s.setTierQ tier q'
      if r.starved then t.addCnt 0x6008 6 1 else t)

/-- REQUEST_STARVED: a request has waited STARVE_LIMIT (R304). -/
def execRequestStarved (tier : TierCtl) (request : Nat) (s : State) : Result :=
  let q := s.tierQ tier
  .next (match q.reqs.find? (fun r => decide (r.id = request)) with
    | none => s
    | some r =>
      (s.toTick (r.arrival + usTicks (s.ent? 0x4400 5))).setTierQ tier { q with
        reqs := modBy (fun x => decide (x.id = request)) (fun x => { x with starved := true }) q.reqs })

end Sys2Proof.Machine
end

