-- ==== Sys2Proof/Machine/Units.lean ====
section
/-!
DEFINITION. Power of the matrix slices, vector sections, rotation units and expanders (R247 to R251, R518): which units
their entries and the mode allow, the writes of the three power entries, and the two events that end them.
-/
namespace Sys2Proof.Machine

/-! ## Which units may be ON (R518) -/

/-- The domain of a unit (R514): slices 112 to 119, sections 120 to 127, rotation units 128 to 131. -/
def unitDomain (k : UnitKind) (i : Nat) : Nat :=
  match k with | .slice => 112 + i | .vectorSection => 120 + i | .rotation => 128 + i

/-- The power entry of a kind of unit (R251). -/
def unitEntry (k : UnitKind) : Nat := match k with | .slice => 1 | .vectorSection => 2 | .rotation => 3

/-- The units of a kind. -/
def unitCount (k : UnitKind) : Nat := match k with | .slice => 8 | .vectorSection => 8 | .rotation => 4

/-- What the mode allows (R517): none outside service start. -/
def State.unitAllowed (s : State) (k : UnitKind) : Nat :=
  match k with | .slice => modeUnits s.modeEff | .vectorSection => modeUnits s.modeEff | .rotation => modeRotation s.modeEff

/-- A unit's bit is set in its power entry and the mode allows it (R518). -/
def State.unitWanted (s : State) (k : UnitKind) (i : Nat) : Bool :=
  bit (s.ent? 0x4200 (unitEntry k)) i && bit (s.unitAllowed k) i

/-- Every task that has been issued and has not completed, as its unit mask and kind. -/
def State.unitTasks (s : State) (k : UnitKind) : List Nat :=
  match k with
  | .slice =>
    ((List.range 2).flatMap (fun j => (tget (fun _ => []) s.eng.mq j).map (fun t => t.slices.toNat)))
      ++ s.eng.mrun.map (fun t => t.slices.toNat)
  | .vectorSection =>
    (((List.range 2).flatMap (fun j => tget (fun _ => []) s.eng.vq j)) ++ s.eng.vrun).filterMap
      (fun t => if t.op = .rotate then none else some t.units.toNat)
  | .rotation =>
    (((List.range 2).flatMap (fun j => tget (fun _ => []) s.eng.vq j)) ++ s.eng.vrun).filterMap
      (fun t => if t.op = .rotate then some (2 ^ bits t.units.toNat 0 2) else none)

/-- A task issued to the unit has not completed (R249). -/
def State.unitBusy (s : State) (k : UnitKind) (i : Nat) : Bool := (s.unitTasks k).any (fun m => bit m i)

/-- A task may be issued to a unit: its entry and the mode allow it, and its domain is not OFF (R249). -/
def State.unitUsable (s : State) (k : UnitKind) (i : Nat) : Bool :=
  s.unitWanted k i && decide (s.dom (unitDomain k i) ≠ .off)

/-! ## Losing and gaining power (R249, R261) -/

def noWord : Nat → Word := fun _ => 0
def noImage : Nat → Option Image := fun _ => none
def noTable : Nat → Option DecodeTable := fun _ => none

/-- The accumulators of a slice are keyed slice * 4096 + row * 64 + column. -/
def clearSlice (i : Nat) (t : Table Word) : Table Word :=
  t.filter (fun p => decide (p.1 / 4096 ≠ i))

/-- What a unit holds is lost: accumulators are +0, a section holds no function. -/
def State.loseUnit (s : State) (k : UnitKind) (i : Nat) : State :=
  match k with
  | .slice => s.modEng (fun e => { e with acc := clearSlice i e.acc })
  | .vectorSection => s.modEng (fun e => { e with sect := tset noImage e.sect i none })
  | .rotation => s

/-- An expander is ON whenever any slice is ON (R247); when they go OFF the table store empties (R261). -/
def State.setExpanders (s : State) : State :=
  let on := (List.range 8).any (fun i => decide (s.dom (112 + i) = .on))
  let wk := (List.range 8).any (fun i => decide (s.dom (112 + i) = .waking))
  let d : DomState := if on then .on else if wk then .waking else .off
  let t := (s.setDom 132 d).setDom 133 d
  if d = .off then t.modEng (fun e => { e with tables := [] }) else t

/-- A unit goes OFF. -/
def State.unitOff (s : State) (k : UnitKind) (i : Nat) : State :=
  let d := unitDomain k i
  (((s.setDom d .off).loseUnit k i).modEng (fun e => { e with offPending := e.offPending.filter (· ≠ d) })).setExpanders

/-- A unit starts WAKING. -/
def State.unitWake (s : State) (k : UnitKind) (i : Nat) : State := (s.setDom (unitDomain k i) .waking).setExpanders

/-- A unit becomes ON; the cycle is kept, so that the waits for it can be counted. -/
def State.unitOn (s : State) (k : UnitKind) (i : Nat) : State :=
  let d := unitDomain k i
  (((s.setDom d .on).loseUnit k i).modEng (fun e => { e with
    wokeAt := tset zeroNat e.wokeAt d s.clk.cycle })).setExpanders

/-- Bring one unit to what its entry and the mode allow (R249, R518): it goes OFF in the cycle after its last issued task
completed, or in the next one when none is outstanding (DOMAIN_OFF). -/
def State.applyUnit (s : State) (k : UnitKind) (i : Nat) : State :=
  let d := unitDomain k i
  if s.unitWanted k i then
    if s.dom d = .off then s.unitWake k i
    else s.modEng (fun e => { e with offPending := e.offPending.filter (· ≠ d) })
  else if s.dom d = .off then s
  else s.modEng (fun e => { e with offPending := if e.offPending.contains d then e.offPending else e.offPending ++ [d] })

/-- Every unit of a kind. -/
def State.applyKind (s : State) (k : UnitKind) : State :=
  (List.range (unitCount k)).foldl (fun t i => t.applyUnit k i) s

/-- Every unit, after a change of the mode whose limits apply (R518). -/
def State.applyUnits (s : State) : State := ((s.applyKind .slice).applyKind .vectorSection).applyKind .rotation

/-! ## The entries (R251) -/

/-- A write of a power entry: bits above the units are refused. -/
def wUnitPower (k : UnitKind) (v : Nat) (s : State) : WriteRes :=
  if 2 ^ unitCount k ≤ v then (abRange, s)
  else (0, (s.setEnt 0x4200 (unitEntry k) v).applyKind k)

/-- UNIT_POWER_CLEAR: a write that clears bits (R249). -/
def execUnitPowerClear (m : Master) (kind : UnitKind) (value : BitVec 8) (s : State) : Result :=
  entryWrite m 0x4200 (unitEntry kind) 1 value.toNat (wUnitPower kind value.toNat) s

/-- UNIT_POWER_SET: a write that sets bits (R249). -/
def execUnitPowerSet (m : Master) (kind : UnitKind) (value : BitVec 8) (s : State) : Result :=
  entryWrite m 0x4200 (unitEntry kind) 1 value.toNat (wUnitPower kind value.toNat) s

/-- The kind and number of the unit of a domain. -/
def domainUnit (d : Nat) : Option (UnitKind × Nat) :=
  if 112 ≤ d ∧ d < 120 then some (.slice, d - 112)
  else if 120 ≤ d ∧ d < 128 then some (.vectorSection, d - 120)
  else if 128 ≤ d ∧ d < 132 then some (.rotation, d - 128)
  else none

/-- DOMAIN_OFF: a unit whose bit was cleared, or that the mode disallows, goes OFF in the cycle after its last issued
task completed (R249). -/
def execDomainOff (domain : Nat) (s : State) : Result :=
  .next (match domainUnit domain with
    | some (k, i) =>
      if s.eng.offPending.contains domain ∧ !s.unitBusy k i then (s.passCycles 1).unitOff k i else s
    | none => s)

/-- A domain that was WAKING is ON; a cascade port's then trains (R249, R514, R516). -/
def domainOn (d : Nat) (s : State) : State :=
  match domainUnit d with
  | some (k, i) => s.unitOn k i
  | none =>
    let t := s.setDom d .on
    if 141 ≤ d ∧ d ≤ 144 ∧ t.portLive (d - 141) ∧ (t.port (d - 141)).st = .down then t.trainPort (d - 141) else t

/-- The domains of the powered cascade ports (R516). -/
def State.portDomains (s : State) : List Nat := (portNums.filter (fun k => bit (s.ent? 0x2000 20) k)).map (· + 141)

/-- The domains that a wake out of Umbra mode wakes, in order (R522). -/
def State.wakeGroups (s : State) : List (List Nat) :=
  [[145], (List.range 48).map (· + 64), List.range 64, [134], [136, 137, 138, 139], [146], [140], s.portDomains]

/-- During a wake, the next domains in order start once no earlier one is WAKING (R522). -/
def State.wakeNext (s : State) : State :=
  if s.wakeGroups.any (fun g => g.any (fun d => decide (s.dom d = .waking))) then s
  else match s.wakeGroups.find? (fun g => g.any (fun d => decide (s.dom d = .off))) with
    | some g => g.foldl (fun t d => if t.dom d = .off then t.setDom d .waking else t) s
    | none => s

/-- DOMAIN_WAKE_END: a WAKING domain becomes ON (R249, R514, R522); a woken slice holds +0 and a section no function. -/
def execDomainWakeEnd (domain : Nat) (s : State) : Result :=
  .next (if s.dom domain = .waking then
      let t := domainOn domain s
      if t.pwr.waking then t.wakeNext else t
    else s)

end Sys2Proof.Machine
end

