-- ==== Sys2Proof/Machine/Margins.lean ====
section
/-!
DEFINITION. Margin sets (R96 to R101), the deviation bound of a conversion (R88 to R91), the choice of a free array
(R62), moves of addresses and their handover (R111 to R118), and the declaration of death (R74, R117).
-/
namespace Sys2Proof.Machine

/-! ## What an operation names (R31, R53, R54) -/

/-- The addresses of a member: the pair of a W8 member (R31). -/
def PhaseOp.addrs (o : PhaseOp) (m : Member) : List Nat :=
  let a := m.bank * 256 + m.slot
  if o.w8 then [a, a + 1] else [a]

/-- Every address that an operation names. -/
def PhaseOp.named (o : PhaseOp) : List Nat := o.members.flatMap o.addrs

def PhaseOp.names (o : PhaseOp) (addr : Nat) : Bool := o.named.contains addr

/-- The line record of a member. -/
def PhaseOp.lineOf (o : PhaseOp) (m : Member) : Option LineRec := o.lines[m.line]?

/-- The group mask of a member's line (R53). -/
def PhaseOp.maskOf (o : PhaseOp) (m : Member) : BitVec 32 := match o.lineOf m with | some l => l.mask | none => 0

/-- A member that runs a phase: it has active rows and its line selects a group (R53). -/
def PhaseOp.active (o : PhaseOp) (m : Member) : Bool := decide (m.count ≠ 0) && decide (o.maskOf m ≠ 0)

def noPhys : Nat → Nat := fun _ => 0

/-- The arrays of a member, as latched at admission: key member * 2, and the low array of a W8 pair at + 1. -/
def PhaseOp.arraysOf (o : PhaseOp) (k : Nat) : List Nat :=
  if o.w8 then [tget noPhys o.phys (2 * k), tget noPhys o.phys (2 * k + 1)] else [tget noPhys o.phys (2 * k)]

/-- The arrays of a list of members that have not been declared dead in the operation (R74). -/
def PhaseOp.arraysIn (o : PhaseOp) (ks : List Nat) : List Nat :=
  (ks.flatMap o.arraysOf).filter (fun n => !o.dead.contains n)

/-- Every array of an admitted operation. -/
def PhaseOp.allArrays (o : PhaseOp) : List Nat := o.arraysIn o.waves.flatten

/-- An operation has been admitted and its last phase has not ended. -/
def PhaseOp.inService (o : PhaseOp) : Bool := decide (o.stage ≠ .waiting) && decide (o.stage ≠ .ended)

/-- An admitted operation names an address (R62). -/
def State.namedInService (s : State) (addr : Nat) : Bool := s.disp.ops.any (fun o => o.inService && o.names addr)

/-- An array is in an operation in service, or in a maintenance phase (R54, R71). -/
def State.arrayBusy (s : State) (n : Nat) : Bool :=
  (s.array n).maint || s.disp.ops.any (fun o => o.inService && o.allArrays.contains n)

/-! ## Operations that wait at admission (R56, R300, R574) -/

/-- A member that names an UNAVAILABLE address (R56). -/
def State.memberLost (s : State) (o : PhaseOp) (m : Member) : Bool :=
  (o.addrs m).any (fun a => decide ((s.mapOf a).st = .unavailable))

/-- The members that name an UNAVAILABLE address, less those that an expired hold has left out (R56). -/
def State.lostMembers (s : State) (o : PhaseOp) : List Nat :=
  (List.range o.members.length).filter (fun k =>
    match o.members[k]? with | some m => !o.leftOut.contains k && s.memberLost o m | none => false)

/-- Change one operation. -/
def State.modOp (s : State) (id : Nat) (f : PhaseOp → PhaseOp) : State :=
  s.modDisp (fun d => { d with ops := modBy (fun o => decide (o.id = id)) f d.ops })

def State.getOp (s : State) (id : Nat) : Option PhaseOp := s.disp.ops.find? (fun o => decide (o.id = id))

/-- An operation enters a hold (R574): its timer starts once, and the hold is counted. -/
def State.holdOp (s : State) (id : Nat) : State :=
  match s.getOp id with
  | some o =>
    if o.hold.isSome then s
    else (s.modOp id (fun p => { p with hold := some s.clk.ticks })).count 0x6010 1 clsRecovered
  | none => s

/-- An operation leaves every hold (R574, R576). -/
def State.unholdOp (s : State) (id : Nat) : State :=
  match s.getOp id with
  | some o => (s.noteHold o.hold).modOp id (fun p => { p with hold := none })
  | none => s

/-- Cycles that a layer waited for an UNAVAILABLE address count against the stream of the bundle's TAG (R300). -/
def State.countLate (s : State) (o : PhaseOp) (k : Nat) : State :=
  match o.late with
  | some c => if o.ctx.tagv then s.countCycles 0x6008 7 (k - c) else s
  | none => s

/-- Admission waits for a reason that is a hold (R574): an UNAVAILABLE address, a supply warning, or the sequencer's
clock. -/
def State.holdWait (s : State) (o : PhaseOp) : Bool :=
  decide (s.lostMembers o ≠ []) || s.warned || !s.seqFull

/-- The wait of one operation ends: for an UNAVAILABLE address once every address it names is SERVED or MOVING, and its hold
once no reason for one is left. -/
def endOpWait (id : Nat) (s : State) : State :=
  match s.getOp id with
  | none => s
  | some o =>
    if o.stage ≠ .waiting then s
    else
      let t := if s.lostMembers o = [] then
          (s.countLate o s.clk.cycle).modOp id (fun p => { p with late := none })
        else s
      if s.holdWait o then t else t.unholdOp id

/-- The waits at admission that are over end. -/
def State.endWaits (s : State) : State := s.disp.ops.foldl (fun t o => endOpWait o.id t) s

/-! ## Margin sets (R98) -/

def setOffset (v : Nat) : Int := signed 8 (bits v 0 8)
def setGain (v : Nat) : Nat := bits v 8 8
def setRange (v : Nat) : Nat := bits v 16 2
def setDscale (v : Nat) : Nat := bits v 18 18
def setTempco (v : Nat) : Int := signed 8 (bits v 36 8)
/-- TREF in °C. -/
def setTref (v : Nat) : Int := (bits v 44 8 : Int) - 64
def setWide (v : Nat) : Bool := bit v 52

/-- A set that R101 does not find invalid. -/
def setValid (v : Nat) : Bool :=
  decide ((crc8 (leBytes 7 v)).toNat = bits v 56 8) && decide (setDscale v ≠ 0) && decide (setRange v ≠ 3)

/-- Clamp an integer. -/
def clampInt (lo hi x : Int) : Int := max lo (min hi x)

/-- The low `n` bits of an integer (two's complement). -/
def enc (n : Nat) (x : Int) : Nat := (x % 2 ^ n).toNat

/-- A set with its CHECK. -/
def mkSet (offset : Int) (gain range dscale : Nat) (tempco tref : Int) (wide : Bool) : BitVec 64 :=
  let body := enc 8 offset + gain % 2 ^ 8 * 2 ^ 8 + range % 4 * 2 ^ 16 + dscale % 2 ^ 18 * 2 ^ 18
    + enc 8 tempco * 2 ^ 36 + enc 8 (tref + 64) * 2 ^ 44 + b2n wide * 2 ^ 52
  BitVec.ofNat 64 (body + (crc8 (leBytes 7 body)).toNat * 2 ^ 56)

/-- A margin set: SET0 or SET1 of a group of an array (R97). -/
def State.mset (s : State) (n g which : Nat) : Nat := (tget marginDefault s.arr.margin ((n * 32 + g) * 2 + which)).toNat

/-- The active set of a group (R97). -/
def State.activeSet (s : State) (n g : Nat) : Nat := s.mset n g (b2n (s.array n).gen)

def State.setMset (s : State) (n g which : Nat) (v : BitVec 64) : State :=
  s.modArr (fun a => { a with margin := tset marginDefault a.margin ((n * 32 + g) * 2 + which) v })

/-- The 32 column groups. -/
def groups : List Nat := List.range 32

/-! ## The deviation bound (R89 to R91) -/

/-- MODE is Steady (R109, R520). -/
def State.steady (s : State) : Bool := decide (s.modeEff = 2)

/-- STALE: the factor of R91 under condition 2 applies to the array (R90, R95, R109). One group's set that was rewritten from
the backing copy keeps the array's LAST_MEAS as its age (log 122). -/
def State.stale (s : State) (n : Nat) : Bool :=
  let p := s.array n
  let age := s.clk.powered - p.lastMeas.toNat
  if s.steady && p.mapped then decide (72 * 3600 < age) else decide (3 * s.ent? 0x3100 1 < age)

/-- A bank is within the time that a slew above 5 °C/s widens (R90 item 4). -/
def State.slewing (s : State) (bank : Nat) : Bool := decide (s.clk.ticks < tget zeroNat s.arr.slewEnd bank)

/-- Twice the largest factor of R91 that applies to one set of an array at a latched temperature. -/
def State.factor2 (s : State) (n set : Nat) (t4 : Int) : Nat :=
  if setWide set then 4
  else if s.stale n ∨ 120 < (t4 - 4 * setTref set).natAbs ∨ s.slewing (n / 264) then 3
  else 2

/-- The max |δ| of R89 of a fresh and of an aged array, in tenths of an LSB, at a temperature in quarter degrees: that of the
array's bank, as R77 latches it (log 122). -/
def State.boundFresh10 (s : State) (t4 : Int) : Nat :=
  if s.ident.extended then (if t4 ≤ -160 then 25 else 28) else (if t4 ≤ 0 then 18 else 20)
def State.boundAged10 (s : State) (t4 : Int) : Nat :=
  if s.ident.extended then (if t4 ≤ -160 then 35 else 40) else (if t4 ≤ 0 then 25 else 30)

/-- The max |δ| of R89 of an array. -/
def State.bound10 (s : State) (n : Nat) (t4 : Int) : Nat :=
  if s.ageIndex n ≤ 8 then s.boundFresh10 t4 else s.boundAged10 t4

/-- The typical rms of R89 in hundredths of an LSB, at a temperature in quarter degrees. -/
def State.typ100 (s : State) (n : Nat) (t4 : Int) : Nat :=
  let fresh := decide (s.ageIndex n ≤ 8)
  if s.ident.extended then
    (if fresh then (if t4 ≤ -160 then 55 else 60) else (if t4 ≤ -160 then 75 else 85))
  else (if fresh then (if t4 ≤ 0 then 40 else 45) else (if t4 ≤ 0 then 55 else 65))

/-- How far an array is beyond aged: E of R89, 0 when it is not. -/
def State.beyondBy (s : State) (n : Nat) : Nat :=
  max (s.agePeri (n / 264) - 128) ((s.array n).ageRet.toNat - s.ent? 0x3100 3)

/-- A deviation of V from E lies within the bound of R89 to R91 (sides multiplied out). -/
def State.within (s : State) (n set : Nat) (t4 d : Int) : Bool :=
  decide (d * 4096 * 10 * 64 * 2 ≤ s.bound10 n t4 * (64 + s.beyondBy n) * s.factor2 n set t4 * setDscale set)

/-! ## Conversion (R35, R42, R87, R99) -/

/-- Conversion bits from the active rows (R35). -/
def convBits (rows : Nat) : Nat := if rows ≤ 64 then 6 else if rows ≤ 128 then 7 else if rows ≤ 256 then 8 else 9

/-- The phase length of R35. -/
def phaseLen (bits : Nat) : Nat := 242 + 22 * bits

/-- V of a code (R99), rounded toward zero; Tb in quarter degrees. -/
def reduceCode (set : Nat) (t4 c : Int) : Int :=
  Int.tdiv (c * setDscale set * (400000 + setTempco set * (t4 - 4 * setTref set))) (4096 * 400000)

/-- A code that the promise of R89 allows for an exact sum E: an inner code within the bound, a clip code when the sum
lies beyond it or within the bound of it. -/
def State.codeOk (s : State) (n set nb : Nat) (t4 e c : Int) : Bool :=
  let hi : Int := 2 ^ (nb - 1) - 1
  let lo : Int := -(2 ^ (nb - 1))
  let v := reduceCode set t4 c
  if c = hi then s.within n set t4 (v - e)
  else if c = lo then s.within n set t4 (e - v)
  else decide (lo < c) && decide (c < hi) && s.within n set t4 (v - e) && s.within n set t4 (e - v)

/-- The code whose value under R99 is nearest to an exact sum, within the resolution. -/
def nearCode (set nb : Nat) (t4 e : Int) : Int :=
  let k : Int := setDscale set * (400000 + setTempco set * (t4 - 4 * setTref set))
  clampInt (-(2 ^ (nb - 1))) (2 ^ (nb - 1) - 1) ((e * 4096 * 400000 * 2 + k) / (2 * k))

/-- One conversion: the free code of an index when the bound allows it, else the nearest (log 3). -/
def State.convert (s : State) (n set nb : Nat) (t4 e : Int) (ix : Nat) : Int :=
  let c := Config.freeCode ix
  if s.codeOk n set nb t4 e c then c else nearCode set nb t4 e

/-- A clip: the lowest or the highest code (R42). -/
def isClip (nb : Nat) (c : Int) : Bool := decide (c = 2 ^ (nb - 1) - 1) || decide (c = -(2 ^ (nb - 1)))

/-- A column of an array in a phase: its number, the set its group uses and the exact sum of R88. -/
structure Column where
  col : Nat
  set : Nat
  sum : Int
deriving DecidableEq, Repr

/-- |δ| of a conversion in thousandths of an LSB, rounded up (R88). -/
def Column.dev1000 (x : Column) (t4 c : Int) : Nat :=
  ceilDiv ((reduceCode x.set t4 c - x.sum).natAbs * 4096000) (setDscale x.set)

/-- The root-mean-square of δ over the columns that are no clips is at most the typical value, with the largest factor of
R91 that applies to one of them (R89; sides squared and multiplied out). -/
def State.rmsOk (s : State) (n nb : Nat) (t4 : Int) (xs : List (Column × Int)) : Bool :=
  let ys := xs.filter (fun p => !isClip nb p.2)
  let f := ys.foldl (fun m p => max m (s.factor2 n p.1.set t4)) 2
  let lim := s.typ100 n t4 * 10 * (64 + s.beyondBy n) * f
  decide (ys.foldl (fun a p => a + (p.1.dev1000 t4 p.2 * 128) ^ 2) 0 ≤ ys.length * lim ^ 2)

/-- The codes of an array's columns in a phase: free codes within the bound of each column, and within the typical rms
over them all; else the nearest codes (R89, log 3). -/
def State.convertAll (s : State) (n nb : Nat) (t4 : Int) (xs : List Column) (ix : Nat) : List (Column × Int) :=
  let ys := xs.zipIdx.map (fun p => (p.1, s.convert n p.1.set nb t4 p.1.sum (ix + p.2)))
  if s.rmsOk n nb t4 ys then ys else xs.map (fun x => (x, nearCode x.set nb t4 x.sum))

/-! ## Widened bounds (R89, R91) -/

/-- A factor of R91 other than 1 applies to the array in some group. -/
def State.isWidened (s : State) (n : Nat) : Bool :=
  groups.any (fun g => decide (2 < s.factor2 n (s.activeSet n g) (s.bankTemp (n / 264))))

/-- Note an array that serves and enters a factor of R91, or an array that enters the beyond-aged state of R89: each is
degraded, counted as it enters. Passing from one factor to another is not counted again (log 79). -/
def State.noteWidened (s : State) (n : Nat) : State :=
  let p := s.array n
  let w := p.mapped && s.isWidened n
  let b := decide (0 < s.beyondBy n)
  let t := if w && !p.widened then s.count 0x6003 8 clsDegraded else s
  let u := if b && !p.beyond then t.count 0x6003 8 clsDegraded else t
  u.modArray n (fun q => { q with widened := w, beyond := b })

/-- Every array of a bank is noted. -/
def State.noteBank (s : State) (b : Nat) : State := (bankArrays b).foldl (fun t n => t.noteWidened n) s

/-! ## Free arrays (R62, R78) -/

/-- The address that an array serves, numbered bank * 256 + slot. -/
def PhysArray.address (p : PhysArray) (n : Nat) : Nat := n / 264 * 256 + p.addrSlot.toNat

/-- An array is barred from a slot of its bank (R78). -/
def PhysArray.barred (p : PhysArray) (slot : Nat) : Bool :=
  [p.barred0, p.barred1, p.barred2].any (fun b => decide (b = some (BitVec.ofNat 8 slot)))

/-- An array is the mirror of a move, the target of an array write, or the array of a rebuild. -/
def State.taken (s : State) (n : Nat) : Bool :=
  s.arr.moves.any (fun h => h.members.any (fun m => decide (m.2 = n))) ||
    s.awr.ws.any (fun w => w.addrs.any (fun a => decide (a.array = some n))) ||
    s.arr.rebuilds.any (fun r => decide (r.array = n))

/-- The lowest-numbered array that R62 allows for an address. -/
def State.chooseArray (s : State) (addr : Nat) : Option Nat :=
  (bankArrays (addr / 256)).find? (fun n =>
    let p := s.array n
    p.free && !s.taken n && !p.barred (addr % 256))

/-- Every weight cell and every reference cell of an array at level 0: its codes leave the tables (R359). -/
def State.clearCells (s : State) (n : Nat) : State :=
  s.modArr (fun a => { a with
    cells := a.cells.filter (fun p => decide (p.1 / 262144 ≠ n))
    refs := a.refs.filter (fun p => decide (p.1 / 2048 ≠ n)) })

def zeroCode : Nat → BitVec 4 := fun _ => 0

/-- The W4 code at a row and column of an array (R26, R29). -/
def State.cell (s : State) (n r c : Nat) : BitVec 4 := tget zeroCode s.arr.cells (n * 262144 + r * 512 + c)

/-- Replace the codes from a cell onward (R26); an erased cell is not listed. -/
def State.setCells (s : State) (lo : Nat) (cs : List (BitVec 4)) : State :=
  s.modArr (fun a => { a with
    cells := a.cells.filter (fun p => decide (p.1 < lo))
      ++ (cs.zipIdx.filterMap (fun p => if p.1 = 0 then none else some (lo + p.2, p.1)))
      ++ a.cells.filter (fun p => decide (lo + cs.length ≤ p.1)) })

/-- The reference weight of a row of an array: column 0 REF_HI, 1 REF_MID, 2 REF_NEG, 3 REF_ZERO (R93). -/
def State.refCode (s : State) (n r c : Nat) : BitVec 4 := tget zeroCode s.arr.refs ((n * 512 + r) * 4 + c)

/-- The reference weights that every row's program writes: +7, +2, -4, and REF_ZERO erased (R93, R359). -/
def State.setRefs (s : State) (n r : Nat) : State :=
  let k := (n * 512 + r) * 4
  s.modArr (fun a => { a with
    refs := tset zeroCode (tset zeroCode (tset zeroCode (tset zeroCode a.refs k 7) (k + 1) 2) (k + 2) 12) (k + 3) 0 })

/-- The value of a W4 or A4 code (R184). -/
def w4 (x : BitVec 4) : Int := x.toInt

/-! ## The model library (R371, R384) -/

/-- The library tile that an address's index names. -/
def State.libTile (s : State) (addr : Nat) : Option (List (BitVec 4)) :=
  match tget (fun _ => none) s.media.index addr with
  | some k => (s.media.lib.find? (fun p => p.1 == k)).map (fun p => p.2)
  | none => none

/-! ## Moves and handover (R113 to R118) -/

/-- The set that an address moves in. -/
def State.moveOf (s : State) (addr : Nat) : Option HandoverSet :=
  s.arr.moves.find? (fun h => h.members.any (fun m => decide (m.1 = addr)))

/-- The set that an array is a mirror of. -/
def State.mirrorOf (s : State) (n : Nat) : Option HandoverSet :=
  s.arr.moves.find? (fun h => h.members.any (fun m => decide (m.2 = n)))

def HandoverSet.allReady (h : HandoverSet) : Bool := h.members.all (fun m => h.ready.contains m.2)

def State.dropMove (s : State) (id : Nat) : State :=
  s.modArr (fun a => { a with moves := a.moves.filter (fun h => h.id ≠ id) })

/-- An array is to be erased before R62 may choose it (R118, R393). A program on it stops, and the array stays PROGRAMMING
until its erase ends; a maintenance phase on it runs to its end (R69). -/
def State.oweErase (s : State) (n : Nat) : State :=
  s.modArray n (fun p =>
    if p.st = .quarantined ∨ p.st = .retired then p
    else { p with
      eraseOpen := true, progOpen := false, source := none, measured := [], loops := 0, rowsDone := 0, failures := 0
      fresh := false })

/-- An address of an array write changes its place. -/
def State.markAw (s : State) (id addr : Nat) (st : AwTarget) : State :=
  { s with awr := { s.awr with ws := modBy (fun w => decide (w.id = id)) (fun w => { w with
      addrs := modBy (fun a => decide (a.addr = addr)) (fun a => { a with st := st }) w.addrs }) s.awr.ws } }

/-- One address hands over: the map entry names the mirror, which serves it; the old home holds no address and is owed an
erase (R114, R118). -/
def handoverOne (kind : MoveKind) (addr mirror : Nat) (s : State) : State :=
  let e := s.mapOf addr
  let old := e.phys
  let s1 := if e.st = .moving then s.modArray old (fun p => { p with mapped := false, addrSlot := 0 }) else s
  let s2 := s1.setMap addr { phys := mirror, st := .served }
  let s3 := s2.modArray mirror (fun p => { p with
    mapped := true, addrSlot := BitVec.ofNat 8 (addr % 256),
    refreshes := if kind = .refresh ∧ p.refreshes.toNat < 63 then p.refreshes + 1 else p.refreshes })
  let s4 := if e.st = .moving then s3.modArray old (fun p => { p with eraseOpen := true }) else s3
  match kind with
  | .refresh => s4.addCnt 0x6003 5 1
  | .rewrite w => s4.markAw w addr .served

/-- A set hands over: every map entry is written in the same cycle (R114, R116), and operations that waited for one of its
addresses wait for it no more (R56). -/
def State.doHandover (s : State) (h : HandoverSet) : State :=
  ((h.members.foldl (fun t m => handoverOne h.kind m.1 m.2 t) s).dropMove h.id).endWaits

/-- A move is abandoned: its addresses are SERVED on their old homes, its mirrors erased (R117, R369). -/
def State.abandon (s : State) (h : HandoverSet) : State :=
  let t := h.members.foldl (fun u m =>
    let e := u.mapOf m.1
    let u1 := if e.st = .moving then u.setMap m.1 { e with st := .served } else u
    let u2 := u1.oweErase m.2
    match h.kind with
    | .refresh =>
      if e.st = .moving ∧ !u2.arr.refreshReq.contains e.phys then
        u2.modArr (fun a => { a with refreshReq := a.refreshReq ++ [e.phys] })
      else u2
    | .rewrite w => u2.markAw w m.1 .lost) s
  t.dropMove h.id

/-- An address becomes UNAVAILABLE; its map entry names no array (R66). -/
def State.makeUnavailable (s : State) (addr : Nat) : State := s.setMap addr { phys := 0, st := .unavailable }

/-- The rebuild of an address, or its wait for a first measurement (R75, R529). -/
def State.rebuildOf (s : State) (addr : Nat) : Option Rebuild := s.arr.rebuilds.find? (fun r => decide (r.addr = addr))

def State.dropRebuild (s : State) (addr : Nat) : State :=
  s.modArr (fun a => { a with rebuilds := dropBy (fun r => decide (r.addr = addr)) a.rebuilds })

/-- A rebuild in progress is abandoned and its array erased, when an array write takes the address (R370). -/
def State.releaseRebuild (s : State) (addr : Nat) : State :=
  match s.rebuildOf addr with
  | some r => (s.oweErase r.array).dropRebuild addr
  | none => s

/-- The 262,144 codes of a tile at an address of memory, in row order (R29). -/
def tileCodes (m : Memory) (a : Nat) : List (BitVec 4) :=
  (Memory.gets m a tileSize).flatMap (fun b => [BitVec.ofNat 4 b.toNat, BitVec.ofNat 4 (b.toNat / 16)])

/-- An erase-verify would pass: no cell, no reference cell and no row flag above level 0 (R364). -/
def State.isErased (s : State) (n : Nat) : Bool :=
  !(s.arr.cells.any (fun p => decide (p.1 / 262144 = n))) && !(s.arr.refs.any (fun p => decide (p.1 / 2048 = n)))
    && decide ((s.array n).rowsOpen = 0)

/-- An IDLE array starts to be programmed with a tile: PROGRAM_OPEN is committed first (R384); one that is not erased is
erased before its first row (R364). -/
def State.startProgram (s : State) (n : Nat) (tile : List (BitVec 4)) : State :=
  let dirty := !s.isErased n
  (if dirty then s.addCnt 0x600A 3 1 else s).modArray n (fun p => { p with
    st := .programming, progOpen := true, eraseOpen := dirty, source := some tile, loops := 0, rowsDone := 0, failures := 0,
    measured := [], baseline := 0, waits := false, stuck := false, fresh := false })

/-! ### High-voltage units (R360) -/

/-- A pair of a place in request order and an array, after every pair whose place is not later. -/
def insertPlace (p : Nat × Nat) : List (Nat × Nat) → List (Nat × Nat)
  | [] => [p]
  | q :: t => if p.1 < q.1 then p :: q :: t else q :: insertPlace p t

/-- The arrays of array writes and of rechecks under R77, in request order. -/
def State.hvFirst (s : State) : List Nat :=
  ((s.awr.ws.flatMap (fun w => w.addrs.filterMap (fun a => a.array.map (fun n => (w.id, n)))))
    ++ s.arr.rechecks.map (fun p => (p.2, p.1))).foldl (fun l p => insertPlace p l) [] |>.map (fun p => p.2)

/-- A shade whose recheck waits or runs (R77). -/
def State.rechecking (s : State) (n : Nat) : Bool :=
  decide ((s.array n).st = .quarantined) && s.arr.rechecks.any (fun p => decide (p.1 = n))

/-- An array needs the high-voltage unit of its bank: it is erased, programmed or rechecked. -/
def State.wantsHv (s : State) (n : Nat) : Bool := decide ((s.array n).st = .programming) || s.rechecking n

/-- The arrays that wait for a high-voltage unit or hold one: array writes and rechecks first, then refreshes, then
rebuilds, then the arrays of abandoned programs, each in request order (log 80). -/
def State.hvQueue (s : State) : List Nat :=
  (s.hvFirst ++ (s.arr.moves.flatMap (fun h => h.members.map (fun m => m.2))) ++ s.arr.rebuilds.map (fun r => r.array)
    ++ s.arr.phys.filterMap (fun p => if p.2.st = .programming ∧ p.2.source = none then some p.1 else none)).eraseDups.filter
      (fun n => s.wantsHv n)

/-- The high-voltage unit of a bank is free, and fewer than 16 arrays of the device are being erased or programmed. -/
def State.hvOpen (s : State) (bank : Nat) : Bool :=
  decide (s.arr.hv.length < 16) && !s.arr.hv.any (fun n => decide (n / 264 = bank))

/-- The units that are free take the arrays that wait, in order; none starts while a rail is in warning (R394). -/
def State.grantHv (s : State) : State :=
  let t := s.modArr (fun a => { a with hv := a.hv.filter (fun n => s.wantsHv n) })
  if t.warned then t
  else t.hvQueue.foldl (fun u n =>
    if u.hvOpen (n / 264) then u.modArr (fun a => { a with hv := a.hv ++ [n] }) else u) t

/-! ### Targets of array writes and rebuilds -/

/-- Change one address of an array write. -/
def State.setAw (s : State) (id addr : Nat) (f : AwAddr → AwAddr) : State :=
  { s with awr := { s.awr with ws := modBy (fun w => decide (w.id = id)) (fun w => { w with
      addrs := modBy (fun a => decide (a.addr = addr)) f w.addrs }) s.awr.ws } }

/-- An address of an INSTALL takes a free array and its tile is programmed there; without one it stays UNAVAILABLE, which
is degraded (R63, R369, R370). -/
def State.installTake (s : State) (id addr : Nat) (tile : List (BitVec 4)) : State :=
  match s.chooseArray addr with
  | some m => (s.setAw id addr (fun a => { a with array := some m, st := .programming })).startProgram m tile
  | none => (s.setAw id addr (fun a => { a with array := none, st := .lost })).count 0x6002 6 clsDegraded

/-- The target of an INSTALL is lost before the write commits: its address takes another array (R369). -/
def State.installLost (s : State) (n : Nat) : State :=
  s.awr.ws.foldl (fun t w =>
    if w.install then
      w.addrs.foldl (fun u a => if a.array = some n then u.installTake w.id a.addr a.tile else u) t
    else t) s

/-- An address is rebuilt with a tile on the array that R62 allows; without one it stays UNAVAILABLE, which is degraded
(R63, R75). -/
def State.rebuildTake (s : State) (addr : Nat) (tile : List (BitVec 4)) : State :=
  match s.chooseArray addr with
  | some n =>
    (s.modArr (fun a => { a with
      rebuilds := a.rebuilds ++ [{ addr := addr, array := n, tile := some tile, ready := false }] })).startProgram n tile
  | none => s.count 0x6002 6 clsDegraded

/-- The array of a rebuild is lost: the rebuild takes another array; an address that only waited for its first
measurement has no array left. -/
def State.rebuildLost (s : State) (n : Nat) : State :=
  s.arr.rebuilds.foldl (fun t r =>
    if r.array ≠ n then t
    else
      let u := t.dropRebuild r.addr
      match r.tile with | some x => u.rebuildTake r.addr x | none => u) s

/-- An array that was being programmed or measured is lost: a mirror's move is abandoned (R117), an INSTALL or a rebuild
goes on elsewhere (R369). -/
def State.arrayLost (s : State) (n : Nat) : State :=
  (match s.mirrorOf n with
   | some h => s.abandon h
   | none => (s.installLost n).rebuildLost n).grantHv

/-- The arrays that an INSTALL has taken and that have become IDLE start their program (R69). -/
def State.startTaken (s : State) : State :=
  s.awr.ws.foldl (fun t w => w.addrs.foldl (fun u a =>
    match a.array with
    | some n =>
      if a.st = .taken ∧ !u.arrayBusy n then
        (u.setAw w.id a.addr (fun x => { x with st := .programming })).startProgram n a.tile
      else u
    | none => u) t) s

/-- An address is SERVED on an array. -/
def State.serveOn (s : State) (addr n : Nat) : State :=
  (s.setMap addr { phys := n, st := .served }).modArray n (fun p => { p with
    mapped := true, addrSlot := BitVec.ofNat 8 (addr % 256) })

/-- Every address of an INSTALL or a rebuild whose array is ready is SERVED on it, once no admitted operation names the
address (R62, R75, R368 step 5). -/
def State.serveReady (s : State) : State :=
  let t := s.awr.ws.foldl (fun t w => w.addrs.foldl (fun u a =>
    match a.array with
    | some n =>
      if a.st = .ready ∧ !u.namedInService a.addr then
        (u.serveOn a.addr n).setAw w.id a.addr (fun x => { x with st := .served })
      else u
    | none => u) t) s
  (t.arr.rebuilds.foldl (fun u r =>
    if r.ready ∧ !u.namedInService r.addr then (u.serveOn r.addr r.array).dropRebuild r.addr else u) t).endWaits

/-- What follows when arrays leave an operation, a phase or a program: programs start, ready addresses are served, and the
high-voltage units go on. -/
def State.settle (s : State) : State := s.startTaken.serveReady.grantHv

/-! ## Declarations of death (R74, R117) -/

/-- The first free BARRED field takes a slot. -/
def PhysArray.bar (p : PhysArray) (slot : BitVec 8) : PhysArray :=
  if p.barred0 = none then { p with barred0 := some slot }
  else if p.barred1 = none then { p with barred1 := some slot }
  else { p with barred2 := some slot }

/-- Steps 1 and 2 of R74: the epoch, the state, the reason, FENCE_COUNT and the BARRED field. A QUARANTINED array is owed the
erase of its recheck (R77, R384). An array that held no address any more, as the own array of an INSTALL that still converts
for an earlier operation, has none to record (log 123). -/
def PhysArray.fenceOff (p : PhysArray) (reason : Nat) : PhysArray :=
  let q := if p.mapped then p.bar p.addrSlot else p
  let r := if p.fence.toNat ≤ 2 then { q with st := .quarantined, fence := p.fence + 1, eraseOpen := true }
    else { p with st := .retired, eraseOpen := false }
  { r with redEpoch := p.redEpoch + 1, qreason := BitVec.ofNat 4 reason, mapped := false, addrSlot := 0, maint := false,
           measured := [], tagsOpen := [], source := none, progOpen := false, waits := false, stuck := false, fresh := false }

/-- The address of a REWRITE whose new home dies before the write commits is left without an array: the write ends VERIFY
(R369). -/
def State.rewriteLost (s : State) (n addr : Nat) : State :=
  s.awr.ws.foldl (fun t w =>
    if w.install ∨ w.committed then t
    else w.addrs.foldl (fun u a =>
      if a.addr = addr ∧ a.array = some n ∧ a.st = .served then u.markAw w.id addr .lost else u) t) s

/-- Step 3 of R74 for the address of an array declared dead, with the outcomes of R117. -/
def State.deadAddress (s : State) (addr : Nat) : State :=
  match s.moveOf addr with
  | none => s.makeUnavailable addr
  | some h =>
    if h.allReady then s.doHandover h
    else if h.kind = .refresh ∧ s.libTile addr = none then
      ((h.members.foldl (fun t m => t.oweErase m.2) s).dropMove h.id).makeUnavailable addr
    else s.makeUnavailable addr

/-- An array is declared dead, with its reason (R74): 1 no result after repeat, 2 a management-core check. -/
def State.declareArrayDead (s : State) (n reason : Nat) : State :=
  let p := s.array n
  if p.st = .quarantined ∨ p.st = .retired then s
  else
    let t := (s.modArray n (fun q => q.fenceOff reason)).count 0x6002 2 clsFailed
    let t := if p.fence.toNat = 3 then t.addCnt 0x600A 4 1
      else (t.modArr (fun a => { a with rechecks := a.rechecks ++ [(n, t.nextId)] })).takeId
    if p.mapped then (((t.rewriteLost n (p.address n)).deadAddress (p.address n)).installLost n).grantHv
    else t.arrayLost n

end Sys2Proof.Machine
end

