-- ==== Sys2Proof/Machine/Launch.lean ====
section
/-!
DEFINITION. LAUNCH: the group descriptor, its whole check in the order of R152, and the queue of operations (R146 to
R154); and PHASE_ADMISSION (R54 to R56, R60, R80 to R86, R100, R102).
-/
namespace Sys2Proof.Machine

/-! ## The check of a group descriptor (R152) -/

/-- A fault that the check finds: the cause, DETAIL under R599, and ADDR. -/
structure DescFault where
  cause  : BitVec 8
  detail : Nat
  addr   : Nat
deriving DecidableEq, Repr

def rangeAt (detail addr : Nat) : DescFault := { cause := causeRange, detail := detail, addr := addr }

/-- The header fields in the order of R148, then the array count of R151. Two fields that only together are wrong are
named by the lower (R599). -/
def checkHeader (h : GroupHdr) (a : Nat) : Option DescFault :=
  if 2 ≤ h.acode then some (rangeAt 0x01 a)
  else if !h.ps16 ∧ h.shift ≠ 0 then some (rangeAt 0x03 a)
  else if 4096 < h.members then some (rangeAt 0x05 a)
  else if h.lines = 0 ∨ 4096 < h.lines then some (rangeAt 0x06 a)
  else if h.w8 ∧ 4096 < 2 * h.members then some (rangeAt 0x05 a)
  else none

/-- Set bits of a number's low `n` bits. -/
def popcount (n v : Nat) : Nat := ((List.range n).filter (fun i => bit v i)).length

/-- The bytes of a destination line: 64 a group in PS32, 32 in PS16 (R47). -/
def lineWidth (ps16 : Bool) (mask : BitVec 32) : Nat := popcount 32 mask.toNat * (if ps16 then 32 else 64)

/-- An operand of `n` bytes lies whole in the buffer tier, on a 64-byte boundary (R53, R146). -/
def operandOk (a n : Nat) : Bool := decide (a % 64 = 0) && inBuffer a (max n 1)

/-- One line record in the order of R149; `off` is the BASE register of destinations. -/
def checkLine (h : GroupHdr) (off a : Nat) (e : LineEnc) : Option DescFault :=
  if e.banks = 0 ∨ 64 < e.banks then some (rangeAt 0x22 a)
  else if !operandOk (64 * e.dst + off) (lineWidth h.ps16 e.mask) then some (rangeAt 0x23 a)
  else if !operandOk (64 * e.status + off) 16 then some (rangeAt 0x24 a)
  else none

/-- The bytes of a member's activation digits (R186). -/
def actBytes (acode rows : Nat) : Nat := if acode = 1 then rows else (rows + 1) / 2

/-- One member record in the order of R150; `seen` holds the addresses named before it. An odd slot of a W8 pair involves
WCODE, and a LINE beyond the lines LINE_COUNT: the lower field is named (R599). -/
def checkMember (h : GroupHdr) (hdr off a : Nat) (seen : List Nat) (e : MemberEnc) : Option DescFault :=
  if h.w8 ∧ e.slot % 2 = 1 then some (rangeAt 0x02 hdr)
  else if seen.contains (e.bank * 256 + e.slot) then some (rangeAt 0x42 a)
  else if 512 < e.count then some (rangeAt 0x44 a)
  else if 512 < e.first + e.count then some (rangeAt 0x43 a)
  else if h.lines ≤ e.line then some (rangeAt 0x06 hdr)
  else if !operandOk (64 * (h.actBase + e.off) + off) (actBytes h.acode e.count) then some (rangeAt 0x46 a)
  else none

/-- The first fault of the line records, in ascending index. -/
def checkLines (h : GroupHdr) (off base : Nat) : Nat → List LineEnc → Option DescFault
  | _, [] => none
  | i, e :: t =>
    match checkLine h off (base + 16 * i) e with
    | some f => some f
    | none => checkLines h off base (i + 1) t

/-- The first fault of the member records, in ascending index. -/
def checkMembers (h : GroupHdr) (hdr off base : Nat) : Nat → List Nat → List MemberEnc → Option DescFault
  | _, _, [] => none
  | i, seen, e :: t =>
    match checkMember h hdr off (base + 8 * i) seen e with
    | some f => some f
    | none => checkMembers h hdr off base (i + 1) ((e.bank * 256 + e.slot) :: seen) t

/-- The distinct banks of the members of a line (R49). -/
def lineBanks (l : Nat) (ms : List MemberEnc) : List Nat :=
  ((ms.filter (fun m => decide (m.line = l))).map (fun m => m.bank)).eraseDups

/-- The first line whose BANK_COUNT is not the number of its members' banks (R49). -/
def checkBanks (base : Nat) (ms : List MemberEnc) : Nat → List LineEnc → Option DescFault
  | _, [] => none
  | i, e :: t =>
    let n := (lineBanks i ms).length
    if n ≠ 0 ∧ n ≠ e.banks then some (rangeAt 0x22 (base + 16 * i)) else checkBanks base ms (i + 1) t

/-- The whole check: a fault, or nothing (R152). `xa` and `xd` are the BASE registers. -/
def checkGroup (h : GroupHdr) (a xa xd : Nat) (ls : List LineEnc) (ms : List MemberEnc) : Option DescFault :=
  match checkHeader h a with
  | some f => some f
  | none =>
    match checkLines h xd (a + 64) 0 ls with
    | some f => some f
    | none =>
      match checkMembers h a xa (a + 64 + 16 * h.lines) 0 [] ms with
      | some f => some f
      | none => checkBanks (a + 64) ms 0 ls

/-- The line records of a descriptor. -/
def readLines (m : Memory) (a n : Nat) : List LineEnc := (List.range n).map (fun i => lineEnc (numAt m (a + 16 * i) 16))

/-- The member records of a descriptor. -/
def readMembers (m : Memory) (a n : Nat) : List MemberEnc :=
  (List.range n).map (fun i => memberEnc (numAt m (a + 8 * i) 8))

/-! ## LAUNCH (R146, R152 to R154) -/

/-- The record of a faulting LAUNCH becomes visible when its check ends, and its SYNC object rises in the cycle after
(R152, R154). -/
def launchFault (c : SlotCtx) (sync : BitVec 14) (tEnd : Nat) (opTag : BitVec 16) (f : DescFault) (s : State) : State :=
  let r : ExcRec := { s.slotRec c f.cause f.detail with cycle := tEnd, opTag := opTag, addr := f.addr }
  (s.schedule tEnd (.exc r)).schedule (tEnd + 2) (.signal sync 1)

/-- The operation of a descriptor that passed its check. -/
def mkPhaseOp (c : SlotCtx) (sync : BitVec 14) (ready xa xd : Nat) (h : GroupHdr) (ls : List LineEnc)
    (ms : List MemberEnc) (s : State) : PhaseOp :=
  { id := s.nextId, ctx := c, job := s.jobOf c, opTag := h.opTag, sync := sync, a8 := decide (h.acode = 1), w8 := h.w8,
    ps16 := h.ps16, shift := h.shift,
    lines := ls.map (fun e => { mask := e.mask, banks := e.banks, dst := 64 * e.dst + xd, status := 64 * e.status + xd }),
    members := ms.map (fun e => { bank := e.bank, slot := e.slot, first := e.first, count := e.count, line := e.line,
                                  act := 64 * (h.actBase + e.off) + xa }),
    ready := ready, stage := .waiting, admitted := 0, waves := [], wave := 0, phase := 0, start := 0, fin := 0,
    phys := [], leftOut := [], gens := [], temps := [], setUse := [], oldSets := [], digits := [], results := [], acc := [],
    mute := [], dead := [], undo := none, loadLost := false, dip := false, released := false, again := false, hold := none,
    late := none, failed := false }

/-- LAUNCH: the descriptor is read and checked whole; an operation without a fault waits at admission from cycle
t + 8 + ⌈D ÷ 128⌉ (R152). One whose check ends in a fault holds no entry of the admission queue (R153, log 125). -/
def opLaunch (c : SlotCtx) (sync : BitVec 14) (desc : BitVec 20) (base : BitVec 2) (pre s : State) : State :=
  let a := 128 * desc.toNat
  let now := s.clk.cycle
  if pre.gated blkBuffer ∨ pre.gated blkReducers then
    launchFault c sync (now + 8) 0 { cause := causeBus, detail := 0, addr := 0 } s
  else if !inBuffer a 64 then launchFault c sync (now + 8) 0 { cause := causeDesc, detail := 0, addr := a } s
  else
    let h := groupHdr (numAt pre.mem a 64)
    let t := now + 8 + ceilDiv h.size 128
    if !inBuffer a h.size then launchFault c sync t h.opTag { cause := causeDesc, detail := 0, addr := a } s
    else
      let xa := if base = 0 then 0 else (pre.x (BitVec.ofNat 5 (2 * base.toNat))).toNat
      let xd := if base = 0 then 0 else (pre.x (BitVec.ofNat 5 (2 * base.toNat + 1))).toNat
      let ls := readLines pre.mem (a + 64) h.lines
      let ms := readMembers pre.mem (a + 64 + 16 * h.lines) h.members
      match checkGroup h a xa xd ls ms with
      | some f => launchFault c sync t h.opTag f s
      | none =>
        (s.modDisp (fun d => { d with ops := d.ops ++ [mkPhaseOp c sync t xa xd h ls ms s] })).takeId

/-- Operations issued and not yet admitted. -/
def State.waitingOps (s : State) : Nat := (s.disp.ops.filter (fun o => decide (o.stage = .waiting))).length

/-- `n` more operations do not fit the admission queue of 16 (R153). -/
def launchFull (n : Nat) (s : State) : Bool := decide (16 < s.waitingOps + n)

/-- LAUNCH: with the admission queue full the bundle stalls (R153). -/
def execLaunch (c : SlotCtx) (sync : BitVec 14) (desc : BitVec 20) (base : BitVec 2) (s : State) : Result :=
  if launchFull 1 s then .next (beginStall s) else slotCmd (opLaunch c sync desc base) s

/-! ## What an operation counts -/

/-- The members of the present wave. -/
def PhaseOp.present (o : PhaseOp) : List Nat := match o.waves[o.wave]? with | some w => w | none => []

/-- An operation counts as converting: in service, and not one whose arrays left the count before its phase was
discarded (R57, R82). -/
def PhaseOp.counted (o : PhaseOp) : Bool := o.inService && !o.released

/-- Arrays that one member stands for. -/
def PhaseOp.weight (o : PhaseOp) : Nat := if o.w8 then 2 else 1

/-- The waves that a reservation covers: every wave, or, for an operation counted again, the one it repeats (R57, R82). -/
def PhaseOp.covered (o : PhaseOp) : List (List Nat) := if o.released || o.again then [o.present] else o.waves

/-- The reservation of an operation: the arrays of its largest wave (R82). It is held to the end of the last wave whole, also
where an array of it is declared dead meanwhile (log 124). -/
def PhaseOp.reserve (o : PhaseOp) : Nat := o.covered.foldl (fun m w => max m (o.weight * w.length)) 0

/-- The bank of a member. -/
def PhaseOp.bankOf (o : PhaseOp) (k : Nat) : Nat := match o.members[k]? with | some m => m.bank | none => 0

/-- The reservation of an operation in one bank: the most of its arrays there in one wave (R82). -/
def PhaseOp.reserveBank (o : PhaseOp) (b : Nat) : Nat :=
  o.covered.foldl (fun m w => max m (o.weight * (w.filter (fun k => decide (o.bankOf k = b))).length)) 0

/-- The arrays in a maintenance phase (R71). -/
def State.maintArrays (s : State) : List Nat := (s.arr.phys.filter (fun p => p.2.maint)).map (fun p => p.1)

/-- Operations counted in cycle `k`; those that ended in this very cycle still count (worked schedule of R152). -/
def State.countedOps (s : State) (k : Nat) : List PhaseOp :=
  s.disp.ops.filter (fun o => o.counted || (decide (o.stage = .ended) && decide (k ≤ o.fin)))

/-- The arrays counted as converting (R80, R82). -/
def State.convertingAt (s : State) (k : Nat) : Nat :=
  (s.countedOps k).foldl (fun n o => n + o.reserve) s.maintArrays.length

def State.convertingBank (s : State) (k b : Nat) : Nat :=
  (s.countedOps k).foldl (fun n o => n + o.reserveBank b)
    (s.maintArrays.filter (fun n => decide (n / 264 = b))).length

/-- An operation's reservation fits under the effective ceiling and under R81 in cycle `k`. -/
def State.fits (s : State) (k : Nat) (o : PhaseOp) : Bool :=
  decide (s.convertingAt k + o.reserve ≤ s.ceiling) &&
    (o.members.map (fun m => m.bank)).eraseDups.all (fun b => decide (s.convertingBank k b + o.reserveBank b ≤ 128))

/-! ## Waves (R84) -/

/-- Insert a member index in ascending bank, then slot. -/
def PhaseOp.insertMember (o : PhaseOp) (k : Nat) : List Nat → List Nat
  | [] => [k]
  | j :: t =>
    let key := fun i => match o.members[i]? with | some m => m.bank * 256 + m.slot | none => 0
    if key k < key j then k :: j :: t else j :: o.insertMember k t

/-- Fill waves with members until the next would break either limit: finished waves, and the wave being filled. -/
def PhaseOp.fillWaves (o : PhaseOp) (ceiling : Nat) : List Nat → List Nat → List (List Nat)
  | [], cur => if cur = [] then [] else [cur]
  | k :: t, cur =>
    let inBank := (cur.filter (fun j => decide (o.bankOf j = o.bankOf k))).length
    if cur ≠ [] ∧ (ceiling < o.weight * (cur.length + 1) ∨ 128 < o.weight * (inBank + 1)) then
      cur :: o.fillWaves ceiling t [k]
    else o.fillWaves ceiling t (cur ++ [k])

/-- The waves of an operation over the members that run a phase. -/
def PhaseOp.formWaves (o : PhaseOp) (ceiling : Nat) (ks : List Nat) : List (List Nat) :=
  o.fillWaves ceiling (ks.foldl (fun l k => o.insertMember k l) []) []

/-! ## Admission (R54 to R56, R83) -/

/-- A forced handover holds an operation that names one of its addresses (R115). -/
def State.forcedHold (s : State) (o : PhaseOp) : Bool :=
  s.arr.moves.any (fun h => h.forced && h.members.any (fun m => o.names m.1))

/-- The front of the admission queue. -/
def State.frontOp (s : State) : Option PhaseOp := s.disp.ops.find? (fun o => decide (o.stage = .waiting))

/-- Latch what admission latches (R60, R100, R102): arrays, generations, bank temperatures; nothing of a member left
out. -/
def PhaseOp.latch (o : PhaseOp) (s : State) : PhaseOp :=
  (List.range o.members.length).foldl (fun p k =>
    match p.members[k]? with
    | none => p
    | some m =>
      if p.leftOut.contains k then p
      else
        let ns := (p.addrs m).map (fun a => (s.mapOf a).phys)
        let lo := ns.headD 0
        let hi := ns.getLastD 0
        let ph := tset noPhys p.phys (2 * k) lo
        let g := fun (t : Table Nat) (n : Nat) => tset noPhys t n (b2n (s.array n).gen)
        { p with
          phys := if p.w8 then tset noPhys ph (2 * k + 1) hi else ph
          gens := ns.foldl g p.gens
          temps := ns.foldl (fun t n => tset tempDefault t n (s.bankTemp m.bank)) p.temps }) o

/-- The members that run a phase and were not left out. -/
def PhaseOp.runners (o : PhaseOp) : List Nat :=
  (List.range o.members.length).filter (fun k =>
    match o.members[k]? with | some m => o.active m && !o.leftOut.contains k | none => false)

/-- The operation as its admission forms it. -/
def State.formed (s : State) (o : PhaseOp) : PhaseOp :=
  let p := o.latch s
  { p with waves := p.formWaves s.ceiling p.runners }

/-- The arrays that serve the addresses an operation names. -/
def State.servingArrays (s : State) (o : PhaseOp) : List Nat :=
  o.named.filterMap (fun a => if (s.mapOf a).st = .unavailable then none else some (s.mapOf a).phys)

/-- The arrays that an operation names are free (R54, R71). -/
def State.arraysFree (s : State) (o : PhaseOp) : Bool := (s.servingArrays o).all (fun n => !s.arrayBusy n)

/-- Everything but the fit allows the admission of the front operation; a held operation that has yet to start again comes
ahead of it (R57). -/
def State.mayAdmit (s : State) (o : PhaseOp) : Bool :=
  !s.holdWait o && decide (0 < s.ceiling) && s.arraysFree o && !s.forcedHold o
    && !s.disp.ops.any (fun p => decide (p.stage = .held))

/-! ### The row-latch load and open phase tags (R38, R72, R186) -/

def noBytes : Nat → List Byte := fun _ => []

/-- The digits of a wave's members are loaded into the row latches. -/
def PhaseOp.load (o : PhaseOp) (m : Memory) (ks : List Nat) : PhaseOp :=
  { o with
    digits := ks.foldl (fun t k =>
      match o.members[k]? with
      | some x => tset noBytes t k (Memory.gets m x.act (actBytes (b2n o.a8) x.count))
      | none => t) o.digits }

/-- A phase opens a new phase tag on each of its arrays. R72 gives no numbering: each array counts its phases from 0,
modulo 256 (log 81). -/
def State.openTags (s : State) (ns : List Nat) : State :=
  ns.foldl (fun t n => t.modArray n (fun p => { p with tagsOpen := [p.nextTag], nextTag := p.nextTag + 1 })) s

/-- The phase's tags close. -/
def State.closeTags (s : State) (ns : List Nat) : State :=
  ns.foldl (fun t n => t.modArray n (fun p => { p with tagsOpen := [] })) s

/-- Arrays become CONVERTING (R69). -/
def State.setConverting (s : State) (ns : List Nat) : State :=
  ns.foldl (fun t n => t.modArray n (fun p => if p.st = .idle then { p with st := .converting } else p)) s

/-- An operation begins to wait for an UNAVAILABLE address (R56, R300). -/
def State.markLate (s : State) (o : PhaseOp) : State :=
  if o.late = none ∧ s.lostMembers o ≠ [] then
    s.modOp o.id (fun p => { p with late := some s.clk.cycle })
  else s

/-- A phase or a maintenance phase begins to wait for the sequencer's clock (R503). -/
def State.beginClockWait (s : State) : State :=
  if s.seqFull then s
  else s.modDisp (fun d => { d with clockWait := d.clockWait.orElse (fun _ => some s.clk.cycle) })

/-- The clock meets R503 again: the cycles in which a phase waited for it are counted, once however many wait (log 126). -/
def State.endClockWait (s : State) : State :=
  match s.disp.clockWait with
  | some c =>
    if s.seqFull then (s.countCycles 0x600E 4 (s.clk.cycle - c)).modDisp (fun d => { d with clockWait := none }) else s
  | none => s

/-- The cycle of admission: no earlier than the check's end, the cycle after the admission before, and the cycle after
one of its arrays was released; one cycle later when only arrays released in this very cycle make room (R54, R83, R152;
log 82). -/
def State.admitCycle (s : State) (o : PhaseOp) : Nat :=
  let last := s.disp.ops.foldl (fun m p => if p.stage = .waiting then m else max m (p.admitted + 1)) 0
  let freed := (s.servingArrays o).foldl (fun m n => max m (tget zeroNat s.disp.lastEnd n)) 0
  let k := max (max o.ready last) (max s.clk.cycle (if freed = 0 then 0 else freed + 1))
  if s.fits k o then k else k + 1

/-- An operation is admitted in cycle `k` (R38, R60, R83, R84). The load overlaps when every array ended an earlier
operation in the cycle before. -/
def State.admitOp (s : State) (o : PhaseOp) (k : Nat) : State :=
  let t := s.toCycle k
  let ns := o.arraysIn o.present
  let overlap := ns.all (fun n => decide (tget zeroNat t.disp.lastEnd n ≠ 0) && decide (tget zeroNat t.disp.lastEnd n + 1 = k))
  let p0 := { o with admitted := k, start := if overlap then k else k + 32 }
  let p : PhaseOp := if o.waves = [] then { p0 with stage := .ended, fin := k } else { p0.load t.mem o.present with stage := .phase }
  let t1 := (t.noteHold o.hold).modOp o.id (fun _ => { p with hold := none, late := none })
  let t2 := (t1.setConverting p.allArrays).openTags ns
  let t4 := (t2.countCycles 0x6004 3 (k - o.ready)).countLate o k
  let t5 := if 1 < o.waves.length then t4.addCnt 0x6002 4 1 else t4
  (t5.addCnt 0x6002 7 o.leftOut.length).addCnt 0x6001 clsFailed o.leftOut.length

/-- The front operation waits at admission from the end of its check on: for a reason of R574 it enters its hold. -/
def waitAtAdmission (o : PhaseOp) (s : State) : State :=
  if s.holdWait o then
    let t := s.toCycle o.ready
    if t.holdWait o then ((t.holdOp o.id).markLate o).beginClockWait else t
  else s

/-- PHASE_ADMISSION: the oldest waiting operation, once its arrays fit (R83). One that must wait for a reason of R574
enters its hold. -/
def execPhaseAdmission (s : State) : Result :=
  .next (match s.endClockWait.frontOp with
    | none => s.endClockWait
    | some o =>
      let s := s.endClockWait
      if !s.mayAdmit o then waitAtAdmission o s
      else
        let f := s.formed o
        let k := s.admitCycle f
        if s.fits k f then s.admitOp f k else s)

end Sys2Proof.Machine
end

