-- ==== Sys2Proof/Machine/Phases.lean ====
section
/-!
DEFINITION. The phases of an admitted operation (R34 to R45, R84, R99 to R102), missing codes and repeat phases (R73,
R74), phases discarded by a supply warning or a clock change (R57, R506, R526), and the destination lines, status
records and completion (R46 to R52).
-/
namespace Sys2Proof.Machine

/-! ## Digits and exact sums (R32, R33, R88) -/

/-- The low or high nibble of a byte. -/
def nibLo (b : Byte) : BitVec 4 := b.truncate 4
def nibHi (b : Byte) : BitVec 4 := (b >>> 4).truncate 4

/-- The digit that row `i` of a member drives in a phase: A4 one signed digit; A8 the low digit unsigned, then the high
digit signed (R33, R184, R186). -/
def digit (a8 : Bool) (phase : Nat) (bs : List Byte) (i : Nat) : Int :=
  if a8 then
    let b := bs.getD i 0
    if phase = 0 then (nibLo b).toNat else (nibHi b).toInt
  else
    let b := bs.getD (i / 2) 0
    if i % 2 = 0 then (nibLo b).toInt else (nibHi b).toInt

/-- E of R88: the exact sum of a weight column over the active rows. -/
def State.exactSum (s : State) (n col first : Nat) (ds : List Int) : Int :=
  (ds.zipIdx).foldl (fun a p => a + w4 (s.cell n (first + p.2) col) * p.1) 0

/-- The coefficient of a phase value in the array result (R44). -/
def coefficient (w8 a8 : Bool) (half phase : Nat) : Int :=
  (if w8 ∧ half = 0 then 15 else 1) * (if a8 ∧ phase = 1 then 16 else 1)

/-! ## Line records in the making -/

def PhaseOp.lineAcc (o : PhaseOp) (l : Nat) : LineAcc := tget accDefault o.acc l

def PhaseOp.modAcc (o : PhaseOp) (l : Nat) (f : LineAcc → LineAcc) : PhaseOp :=
  { o with acc := tmod accDefault o.acc l f }

/-- An array contributes nothing to some group of a line (R52). -/
def PhaseOp.missing (o : PhaseOp) (l n : Nat) : PhaseOp :=
  o.modAcc l (fun a => { a with missing := if a.missing.contains n then a.missing else a.missing ++ [n] })

/-- The bits of an array enter BITS_MIN and BITS_MAX of a line. -/
def PhaseOp.useBits (o : PhaseOp) (l b : Nat) : PhaseOp :=
  o.modAcc l (fun a => { a with
    bitsMin := if a.bitsMin = 0 then b else min a.bitsMin b
    bitsMax := max a.bitsMax b })

/-! ## Taking the codes of an array (R39 to R45, R101) -/

/-- A margin set of a group as an operation meets it: a rewrite of the latched active set after its admission does not
apply to it (R101). -/
def PhaseOp.setOf (o : PhaseOp) (s : State) (n g which : Nat) : Nat :=
  match tget (fun _ => none) o.oldSets (n * 32 + g) with
  | some v => if which = tget noPhys o.gens n then v else s.mset n g which
  | none => s.mset n g which

/-- The set that a group uses in an operation, decided at its first conversion (R101): 1 + the set, or 3 for none. -/
def chooseSet (n g : Nat) (so : State × PhaseOp) : State × PhaseOp :=
  let (s, o) := so
  let key := n * 32 + g
  if tget noPhys o.setUse key ≠ 0 then (s, o)
  else
    let a := tget noPhys o.gens n
    if setValid (o.setOf s n g a) then (s, { o with setUse := tset noPhys o.setUse key (a + 1) })
    else if setValid (o.setOf s n g (1 - a)) ∧ (s.array n).prevValid then
      (s.count 0x6003 3 clsCorrected, { o with setUse := tset noPhys o.setUse key (2 - a) })
    else (s.count 0x6003 4 clsFailed, { o with setUse := tset noPhys o.setUse key 3, failed := true })

/-- The use that a group's set has in an operation. -/
def PhaseOp.useOf (o : PhaseOp) (n g : Nat) : Nat := tget noPhys o.setUse (n * 32 + g)

/-- The columns that an array converts: those of the selected groups that have a valid set, in ascending order (R40,
R41). -/
def PhaseOp.columnsOf (o : PhaseOp) (s : State) (n first : Nat) (ds : List Int) (gs : List Nat) : List Column :=
  (gs.filter (fun g => decide (o.useOf n g ≠ 3))).flatMap (fun g => (List.range 16).map (fun j =>
    { col := 16 * g + j, set := o.setOf s n g (o.useOf n g - 1), sum := s.exactSum n (16 * g + j) first ds }))

/-- One code reaches the reducer: its value in product units, and its clip (R42 to R44). Results are keyed
(member * 2 + half) * 512 + column. -/
def PhaseOp.takeCode (o : PhaseOp) (line key nb : Nat) (t4 coef : Int) (x : Column × Int) : PhaseOp :=
  let o1 := { o with
    results := tmod (fun _ => 0) o.results (key * 512 + x.1.col) (· + coef * reduceCode x.1.set t4 x.2) }
  if isClip nb x.2 then o1.modAcc line (fun a => { a with clips := a.clips + 1 }) else o1

/-- The codes of one array of a member reach its reducer; a group without a valid set contributes nothing. -/
def takeArray (k half : Nat) (so : State × PhaseOp) : State × PhaseOp :=
  match so.2.members[k]? with
  | none => so
  | some m =>
    let n := tget noPhys so.2.phys (2 * k + half)
    let nb := convBits m.count
    let t4 := tget tempDefault so.2.temps n
    let gs := groups.filter (fun g => (so.2.maskOf m).getLsbD g)
    let (s, o) := gs.foldl (fun q g => chooseSet n g q) so
    let o1 := if gs.any (fun g => decide (o.useOf n g = 3)) then o.missing m.line n else o
    let ds := (List.range m.count).map (fun i => digit o.a8 o.phase (tget noBytes o.digits k) i)
    let xs := s.convertAll n nb t4 (o.columnsOf s n m.first ds gs) s.freeIx
    ({ s with freeIx := s.freeIx + xs.length },
      xs.foldl (fun p x => p.takeCode m.line (2 * k + half) nb t4 (coefficient o.w8 o.a8 half o.phase) x) o1)

/-- The array of a member and half. -/
def PhaseOp.arrayAt (o : PhaseOp) (p : Nat × Nat) : Nat := tget noPhys o.phys (2 * p.1 + p.2)

/-- The arrays of some members that are not dead, as member and half. -/
def PhaseOp.halves (o : PhaseOp) (ks : List Nat) : List (Nat × Nat) :=
  (ks.flatMap (fun k => if o.w8 then [(k, 0), (k, 1)] else [(k, 0)])).filter (fun p => !o.dead.contains (o.arrayAt p))

/-- The codes of some arrays are taken. -/
def takeWave (ps : List (Nat × Nat)) (so : State × PhaseOp) : State × PhaseOp :=
  ps.foldl (fun q p => takeArray p.1 p.2 q) so

/-! ## The end of a phase (R37, R84) -/

/-- The phase length of some members: the longest among those that have an array left (R37, R74). -/
def PhaseOp.lenOf (o : PhaseOp) (ks : List Nat) : Nat :=
  ks.foldl (fun l k => match o.members[k]? with
    | some m => if o.arraysIn [k] = [] then l else max l (phaseLen (convBits m.count))
    | none => l) 0

/-- Arrays leave CONVERTING (R69). -/
def State.setIdle (s : State) (ns : List Nat) : State :=
  ns.foldl (fun t n => t.modArray n (fun p => if p.st = .converting then { p with st := .idle } else p)) s

/-- The sequencer's clock is at the rate that phases need, whether or not a switch has been asked for (R503, R506). -/
def State.seqRate (s : State) : Bool :=
  let d := s.domClk 0
  decide (d.src = 0) && decide (d.code = 0) && (s.pll 0).locked && s.clk.crystal && !s.clk.onLantern && !d.down

/-! ### Held operations start again (R57, R506, R526) -/

/-- The arrays of an operation's present wave are in no phase of an operation before it. -/
def State.latchesFree (s : State) (o : PhaseOp) : Bool :=
  let ns := o.arraysIn o.present
  (s.disp.ops.takeWhile (fun p => decide (p.id ≠ o.id))).all (fun p =>
    !p.inService || (p.arraysIn p.present).all (fun n => !ns.contains n))

/-- A held operation starts again: a discarded row-latch load in full, then its phase, or its repeat phase. One whose
arrays had left the converting count starts a cycle later when only arrays released in this cycle make room. -/
def restartOp (id : Nat) (s : State) : State :=
  match s.getOp id with
  | none => s
  | some o =>
    let k := if o.released ∧ !s.fits s.clk.cycle o then s.clk.cycle + 1 else s.clk.cycle
    if o.stage ≠ .held ∨ !s.latchesFree o ∨ (o.released ∧ !s.fits k o) then s
    else
      let t := s.unholdOp id
      let st := k + (if o.loadLost then 32 else 0)
      let p := if o.loadLost then o.load s.mem o.present else o
      let q : PhaseOp := { p with
        stage := if o.mute = [] then .phase else .repeating
        start := st, loadLost := false, again := o.again || o.released, released := false, hold := none }
      ((t.modOp id (fun _ => q)).setConverting (q.arraysIn q.present)).openTags
        (if o.mute = [] then q.arraysIn q.present else o.mute)

/-- Every held operation starts again, in order, once no warning is in force and the clock meets R503; it comes ahead of
every operation waiting at admission. The waits at admission that are over end. -/
def State.restartPhases (s : State) : State :=
  let s := s.endClockWait.endWaits
  if s.warned ∨ !s.seqFull then s
  else
    let t := s.disp.ops.foldl (fun u o => restartOp o.id u) s
    t.disp.ops.foldl (fun u o => if o.stage = .testing ∨ o.stage = .repeating then u.unholdOp o.id else u) t

/-- The operation's last phase has ended: its arrays leave CONVERTING (R69, R82), and what waited for them goes on. -/
def endOp (o : PhaseOp) (fin : Nat) (s : State) : State :=
  let ns := o.allArrays
  let t := (s.modOp o.id (fun _ => { o with stage := .ended, fin := fin, mute := [] })).setIdle ns
  (t.modDisp (fun d => { d with lastEnd := ns.foldl (fun l n => tset zeroNat l n fin) d.lastEnd })).settle.restartPhases

/-- A phase has ended at `fin` with every code taken or its array dead: the next phase, the next wave, or the end. A
next wave waits while the clock does not meet R503 (R506). -/
def finishPhase (o : PhaseOp) (fin : Nat) (s : State) : State :=
  let t := s.closeTags (o.arraysIn o.present)
  if o.a8 ∧ o.phase = 0 then
    let p : PhaseOp := { o with stage := .phase, phase := 1, start := fin, mute := [] }
    (t.modOp o.id (fun _ => p)).openTags (p.arraysIn p.present)
  else if o.wave + 1 < o.waves.length then
    let p : PhaseOp := { o with wave := o.wave + 1, phase := 0, start := fin + 32, mute := [] }
    if t.seqFull then
      (t.modOp o.id (fun _ => { p.load t.mem p.present with stage := .phase })).openTags (p.arraysIn p.present)
    else ((t.modOp o.id (fun _ => { p with stage := .held, loadLost := true })).holdOp o.id).beginClockWait
  else endOp o fin t

/-- What is kept so that the phase can be discarded (R57). -/
def PhaseOp.keep (o : PhaseOp) (fin : Nat) : PhaseUndo :=
  { results := o.results, acc := o.acc, mute := o.mute, wave := o.wave, phase := o.phase, fin := fin }

/-- The reducer accepts what an array sends in a phase: the epoch tag is the one it holds for the slot (R72). -/
def State.accepts (s : State) (n : Nat) : Bool := decide ((s.array n).epoch = (s.array n).redEpoch)

/-- A phase of the present wave has run: the bits of its members enter their lines (R52). -/
def PhaseOp.noteBits (o : PhaseOp) : PhaseOp :=
  o.present.foldl (fun p k => match p.members[k]? with | some m => p.useBits m.line (convBits m.count) | none => p) o

/-- A phase ends: the codes of every array that answers are taken. An array is silent when no code comes, or none that its
reducer accepts (R72). -/
def phaseEnd (o : PhaseOp) (mute : List Nat) (s : State) : State :=
  let fin := o.start + o.lenOf o.present
  let t := s.toCycle fin
  let ps := o.halves o.present
  let quiet := ((ps.map o.arrayAt).filter (fun n => mute.contains n || !t.accepts n)).eraseDups
  let (t1, o1) := takeWave (ps.filter (fun p => !quiet.contains (o.arrayAt p)))
    (t, { o.noteBits with undo := some (o.keep fin), fin := fin })
  if quiet = [] then finishPhase o1 fin t1
  else t1.modOp o.id (fun _ => { o1 with stage := .testing, mute := quiet })

/-- PHASE_END (R37). `mute` names the arrays whose codes do not reach their reducers. -/
def execPhaseEnd (op : Nat) (mute : List Nat) (s : State) : Result :=
  .next (match s.getOp op with
    | some o => if o.stage = .phase ∧ !s.warned ∧ s.seqRate then phaseEnd o mute s else s
    | none => s)

/-! ## Missing codes and repeat phases (R73, R74) -/

/-- The members whose arrays are silent. -/
def PhaseOp.quietMembers (o : PhaseOp) : List Nat :=
  o.present.filter (fun k => (o.arraysOf k).any (fun n => o.mute.contains n))

/-- MISSING_CODE_TEST: 132 cycles after the phase end, one repeat phase of every silent array starts; while a warning is
in force it waits (R73, R526). -/
def execMissingCodeTest (op : Nat) (s : State) : Result :=
  .next (match s.getOp op with
    | some o =>
      if o.stage = .testing ∧ !s.warned ∧ s.seqRate then
        let t := s.toCycle (o.fin + 132)
        let o1 := o.quietMembers.foldl (fun p k =>
          match p.members[k]? with
          | some m => p.modAcc m.line (fun a => { a with late := true })
          | none => p) o
        (t.modOp op (fun _ => { o1 with stage := .repeating, start := t.clk.cycle })).openTags o.mute
      else s
    | none => s)

/-- An array is dead: what it added is removed, the line is without it, and no later phase runs on it (R74 step 4). -/
def PhaseOp.dropArray (o : PhaseOp) (p : Nat × Nat) : PhaseOp :=
  match o.members[p.1]? with
  | none => o
  | some m =>
    ({ o with
      results := o.results.filter (fun e => decide (e.1 / 512 ≠ 2 * p.1 + p.2))
      dead := o.dead ++ [o.arrayAt p], failed := true }).missing m.line (o.arrayAt p)

/-- A repeat phase ends: arrays that answer are taken; 132 cycles later the others are declared dead (R73, R74). -/
def repeatEnd (o : PhaseOp) (mute : List Nat) (s : State) : State :=
  let rfin := o.start + o.lenOf o.quietMembers
  let t := s.toCycle rfin
  let ps := (o.halves o.present).filter (fun p => o.mute.contains (o.arrayAt p))
  let lost := fun n => mute.contains n || !t.accepts n
  let dead := ps.filter (fun p => lost (o.arrayAt p))
  let live := ps.filter (fun p => !lost (o.arrayAt p))
  let (t1, o1) := takeWave live (t, { o with undo := some (o.keep rfin) })
  let t2 := (t1.addCnt 0x6002 1 live.length).addCnt 0x6001 clsRecovered live.length
  if dead = [] then finishPhase o1 rfin t2
  else
    let t3 := t2.toCycle (rfin + 132)
    let t4 := dead.foldl (fun u p => u.declareArrayDead (o.arrayAt p) 1) t3
    finishPhase (dead.foldl (fun q p => q.dropArray p) o1) (rfin + 132) t4

/-- REPEAT_PHASE_END (R74). -/
def execRepeatPhaseEnd (op : Nat) (mute : List Nat) (s : State) : Result :=
  .next (match s.getOp op with
    | some o => if o.stage = .repeating ∧ !s.warned ∧ s.seqRate then repeatEnd o mute s else s
    | none => s)

/-! ## Discarded phases (R57, R506, R526) -/

/-- Undo the last phase that ended; a repeat phase so undone repeats its own arrays only. -/
def PhaseOp.rollback (o : PhaseOp) : PhaseOp :=
  match o.undo with
  | some u => { o with results := u.results, acc := u.acc, wave := u.wave, phase := u.phase, undo := none, mute := u.mute }
  | none => o

/-- Count discarded phases and mark the operation (R57). -/
def discarded (o : PhaseOp) (n : Nat) (s : State) : State :=
  let t := s.modOp o.id (fun _ => { o with dip := o.dip || decide (n ≠ 0) })
  (t.addCnt 0x6002 5 n).addCnt 0x6001 clsRecovered n

/-- The phase in progress of one operation is discarded, and, with `recent`, a phase that ended no more than 88 cycles
before (R526). -/
def discardOp (recent : Bool) (o : PhaseOp) (s : State) : State :=
  let now := s.clk.cycle
  let near := recent && (match o.undo with | some u => decide (now ≤ u.fin + 88) | none => false)
  match o.stage with
  | .phase =>
    let inPhase := decide (o.start ≤ now)
    let p := if near then o.rollback else o
    (discarded { p with stage := .held, loadLost := !inPhase && !near && decide (o.phase = 0) }
      (b2n inPhase + b2n near) s).holdOp o.id
  | .testing =>
    if near then (discarded { o.rollback with stage := .held } 1 s).holdOp o.id else s.holdOp o.id
  | .repeating =>
    if now ≤ o.start + o.lenOf o.quietMembers + (if recent then 88 else 0) then
      (discarded { o with stage := .held } 1 s).holdOp o.id
    else s.holdOp o.id
  | .ended =>
    if near ∧ o.waves ≠ [] then (discarded { o.rollback with stage := .held, released := true } 1 s).holdOp o.id else s
  | _ => s

/-- The tags of discarded phases close. -/
def State.closeHeld (s : State) : State :=
  s.disp.ops.foldl (fun u o => if o.stage = .held then u.closeTags (o.arraysIn o.present) else u) s

/-- The oldest waiting operation enters a hold once it waits for the recovery (R574). -/
def State.holdFront (s : State) : State :=
  match s.frontOp with
  | some o => if o.ready ≤ s.clk.cycle then s.holdOp o.id else s
  | none => s

/-- The waves of which a first phase has ended and stands (R52). -/
def PhaseOp.wavesRun (o : PhaseOp) : Nat :=
  if o.phase ≠ 0 ∨ o.stage = .testing ∨ o.stage = .repeating ∨ o.mute ≠ [] then o.wave + 1 else o.wave

/-- The members of a line, in wave order. -/
def PhaseOp.lineMembers (o : PhaseOp) (l : Nat) : List Nat :=
  o.waves.flatten.filter (fun k => match o.members[k]? with | some m => decide (m.line = l) | none => false)

/-- An operation runs no further phase: every line completes with MISSING and all its arrays missing (R510, R575). -/
def abortOp (o : PhaseOp) (fails : Bool) (s : State) : State :=
  let p0 := (List.range o.lines.length).foldl (fun (q : PhaseOp) l =>
    q.modAcc l (fun a => { a with missing := (o.lineMembers l).flatMap o.arraysOf })) o
  let p : PhaseOp := { p0 with
    stage := .ended, fin := s.clk.cycle, waves := o.waves.take o.wavesRun, results := [], mute := [], undo := none,
    failed := fails, hold := none }
  ((s.noteHold o.hold).modOp o.id (fun _ => p)).closeTags o.allArrays

/-! ## Lines, status records and completion (R45 to R52) -/

/-- A shift by a signed count (R192): left exact, right toward zero. -/
def shiftInt (x : Int) (k : Int) : Int := if 0 ≤ k then x * 2 ^ k.toNat else Int.tdiv x (2 ^ (-k).toNat)

/-- Saturate to a signed width. -/
def satInt (n : Nat) (x : Int) : Int × Bool :=
  let y := clampInt (-(2 ^ (n - 1))) (2 ^ (n - 1) - 1) x
  (y, decide (y ≠ x))

/-- A saturating 32-bit sum of values, and whether any add saturated (R45, R48). -/
def satSum (xs : List Int) : Int × Bool :=
  xs.foldl (fun a x => let r := satInt 32 (a.1 + x); (r.1, a.2 || r.2)) (0, false)

/-- The array result of a member in a column (R44). -/
def PhaseOp.memberValue (o : PhaseOp) (k col : Nat) : Int :=
  tget (fun _ => 0) o.results (2 * k * 512 + col) + tget (fun _ => 0) o.results ((2 * k + 1) * 512 + col)

/-- The 32-bit sum of a line's column: each bank's sum, then the combine port's (R45, R48). Where a partial sum saturates the
result depends on the order of the adds, which the manual does not give: members are added in wave order, banks in the
order of their first member (log 83). -/
def PhaseOp.column (o : PhaseOp) (l col : Nat) : Int × Bool :=
  let ks := o.lineMembers l
  let bs := (ks.map o.bankOf).eraseDups
  let sums := bs.map (fun b => satSum ((ks.filter (fun k => decide (o.bankOf k = b))).map (fun k => o.memberValue k col)))
  let t := satSum (sums.map (fun p => p.1))
  (t.1, t.2 || sums.any (fun p => p.2))

/-- One element as written, and whether it saturated (R46). -/
def PhaseOp.element (o : PhaseOp) (l col : Nat) : List Byte × Bool :=
  let r := o.column l col
  if o.ps16 then
    let q := satInt 16 (shiftInt r.1 (-(o.shift : Int)))
    (leBytes 2 (enc 16 q.1), r.2 || q.2)
  else (leBytes 4 (enc 32 r.1), r.2)

/-- A destination line: the selected groups packed in ascending order (R47). -/
def PhaseOp.lineData (o : PhaseOp) (l : Nat) (mask : BitVec 32) : List Byte × Bool :=
  let cols := (groups.filter (fun g => mask.getLsbD g)).flatMap (fun g => (List.range 16).map (fun j => 16 * g + j))
  let es := cols.map (fun c => o.element l c)
  (es.flatMap (fun e => e.1), es.any (fun e => e.2))

/-- The elements of a PS16 line that its shift saturates: each counts as a clip (R192). -/
def PhaseOp.lineClips (o : PhaseOp) (l : Nat) (mask : BitVec 32) : Nat :=
  if o.ps16 then
    (((groups.filter (fun g => mask.getLsbD g)).flatMap (fun g => (List.range 16).map (fun j => 16 * g + j))).filter (fun c =>
      (satInt 16 (shiftInt (o.column l c).1 (-(o.shift : Int)))).2)).length
  else 0

/-- Some member names a line (R49). -/
def PhaseOp.lineNamed (o : PhaseOp) (l : Nat) : Bool := o.members.any (fun m => decide (m.line = l))

/-- Arrays that contributed nothing: those found so and those of members left out (R52, R56). -/
def PhaseOp.missingOf (o : PhaseOp) (l : Nat) : Nat :=
  let left := o.leftOut.filter (fun k => match o.members[k]? with | some m => decide (m.line = l) | none => false)
  (o.lineAcc l).missing.length + o.weight * left.length

/-- The line status record of R52. -/
def PhaseOp.statusRecord (o : PhaseOp) (l : Nat) (mask : BitVec 32) (sat : Bool) (cycle : Nat) : List Byte :=
  let a := o.lineAcc l
  let n := o.missingOf l
  let waves := if o.lineNamed l ∧ mask ≠ 0 then o.waves.length else 0
  leBytes 16 (min a.clips 0xFFFF + waves % 8192 * 2 ^ 16 + b2n sat * 2 ^ 32 + b2n (decide (n ≠ 0)) * 2 ^ 33
    + b2n a.late * 2 ^ 34 + b2n o.dip * 2 ^ 35 + a.bitsMin * 2 ^ 40 + a.bitsMax * 2 ^ 44 + min n 255 * 2 ^ 48
    + (cycle % 2 ^ 64) * 2 ^ 64)

/-- The cycle in which a line becomes visible (R49, R50). -/
def PhaseOp.visibleAt (o : PhaseOp) (l : Nat) (r : LineRec) : Nat :=
  o.fin + (if o.lineNamed l ∧ 1 < r.banks then 112 else 96)

/-- Every line is visible: the operation completes. Its exception record comes first, then its signal (R51, R143). -/
def completeOp (o : PhaseOp) (s : State) : State :=
  let t := if o.failed then (s.opFailed o.ctx o.job o.opTag 0).settleHalt else s
  (t.schedule (t.clk.cycle + 1) (.signal o.sync 1)).modDisp (fun d => { d with ops := dropBy (fun p => decide (p.id = o.id)) d.ops })

/-- A line and its status record become visible; clips of its PS16 shift are counted (R192, R555). -/
def lineVisible (o : PhaseOp) (l : Nat) (r : LineRec) (s : State) : State :=
  let t := s.toCycle (o.visibleAt l r)
  let d := if r.mask = 0 then ([], false) else o.lineData l r.mask
  let t0 := (t.putMem r.dst d.1).putMem r.status (o.statusRecord l r.mask d.2 t.clk.cycle)
  let t1 := t0.countElems 0x6005 4 (o.lineClips l r.mask) clsNone
  let p := o.modAcc l (fun a => { a with visible := true })
  let t2 := t1.modOp o.id (fun _ => p)
  if (List.range o.lines.length).all (fun i => (p.lineAcc i).visible) then completeOp p t2 else t2

/-- LINE_VISIBLE (R50, R51). -/
def execLineVisible (op : Nat) (line : Nat) (s : State) : Result :=
  .next (match s.getOp op with
    | some o =>
      match o.lines[line]? with
      | some r => if o.stage = .ended ∧ !(o.lineAcc line).visible then lineVisible o line r s else s
      | none => s
    | none => s)

/-! ## Results that a reducer does not accept (R72, R76) -/

/-- A result whose epoch tag is not the reducer's, or whose phase tag is not open, is discarded and counted; one from a
shade marks it as having spoken after fencing. -/
def execResultDiscarded (array : Nat) (epoch : BitVec 16) (phaseTag : BitVec 8) (s : State) : Result :=
  let p := s.array array
  .next (if epoch = p.redEpoch ∧ p.tagsOpen.contains phaseTag then s
    else
      (s.count 0x6002 3 clsCorrected).modArray array (fun q =>
        if q.st = .quarantined ∧ (q.qreason = 1 ∨ q.qreason = 2) then { q with qreason := 3 } else q))

end Sys2Proof.Machine
end

