-- ==== Sys2Proof/Machine/Store.lean ====
section
/-!
DEFINITION. The store plane (R376 to R384): its blocks and partitions, its transactions, what each makes readable when it
commits, the MEDIA partition's record of every array and address map, the model library, and the boot ledger's ring.
-/
namespace Sys2Proof.Machine

/-! ## Blocks (R376, R380, R382) -/

def State.storeBlk (s : State) (b : Nat) : StoreBlk := tget storeBlkDefault s.media.blk b

def State.modBlk (s : State) (b : Nat) (f : StoreBlk → StoreBlk) : State :=
  s.modMedia (fun m => { m with blk := tmod storeBlkDefault m.blk b f })

/-- The partition of a block, the blocks numbered in the order of R376's table (log 31); a RESERVE block serves the one in
which it replaces a block that failed, if any. -/
def StoreBlk.part (n : Nat) (b : StoreBlk) : Option Partition :=
  if n < 32 then some .firmware else if n < 40 then some .ledger else if n < 56 then some .media
  else if n < 152 then some .margin else if n < 1416 then some .library else b.serves

def State.partOf (s : State) (b : Nat) : Option Partition := (s.storeBlk b).part b

/-- The pages of a block of a partition: 256 in MLC mode, 128 in SLC mode. -/
def partPages (p : Option Partition) : Nat := if p = some .library then 256 else 128

def State.blockPages (s : State) (b : Nat) : Nat := partPages (s.partOf b)

/-- The next page at which a transaction may start: the lower page of a word line never programmed since the erase
(R380); pages alternate lower and upper in MLC mode. -/
def nextStart (mlc : Bool) (wp : Nat) : Nat := if mlc then (wp + 1) / 2 * 2 else wp

/-- The write pointer of a block moves on to where the next transaction starts. -/
def State.fillBlk (s : State) (b pages : Nat) : State :=
  s.modBlk b (fun q => { q with wp := nextStart (decide (q.part b = some .library)) (q.wp + pages) })

/-- The die and the plane of a block: a partition's blocks alternate between the dies (R376), and a die's blocks between its
4 planes (log 87). -/
def blockDie (b : Nat) : Nat := b % 2
def blockPlane (b : Nat) : Nat := b / 2 % 4

def samePlane (a b : Nat) : Bool := decide (blockDie a = blockDie b) && decide (blockPlane a = blockPlane b)

/-- The block numbers. -/
def storeBlocks : List Nat := List.range 1536

/-- A RESERVE block that is good and replaces none (R376). -/
def State.spareBlk (s : State) (k : Nat) : Bool :=
  decide (1416 ≤ k) && decide (k < 1536) && !(s.storeBlk k).bad && (s.storeBlk k).serves.isNone

/-- Good RESERVE blocks left (R376, R396). -/
def State.storeSpare (s : State) : Nat := (storeBlocks.filter (fun k => s.spareBlk k)).length

/-- A block fails: it is bad, and a RESERVE block replaces it in its partition (R376). -/
def State.failBlk (s : State) (b : Nat) : State :=
  let t := s.modBlk b (fun q => { q with bad := true })
  match storeBlocks.find? (fun k => t.spareBlk k) with
  | some k => t.modBlk k (fun q => { q with serves := s.partOf b })
  | none => t

/-- Whether the store plane starts no program and no erase: a rail is in warning (R394). -/
def State.mediaHeld (s : State) : Bool := s.warned || s.media.suspendAll

/-- A transaction has pages in a block. -/
def Transact.lies (t : Transact) (b : Nat) : Bool := t.blocks.contains b || t.twins.contains b

/-- Committed data, or the transaction under way, lies in a block. -/
def State.holdsData (s : State) (b : Nat) : Bool := (s.media.trans ++ s.media.writing.toList).any (fun t => t.lies b)

/-- The MEDIA partition holds an ERASE_OPEN mark for a block (R383). -/
def State.markedErase (s : State) (b : Nat) : Bool := s.media.openBlks.contains b

/-- A block that may take transactions of a partition (R383). -/
def State.openBlk (s : State) (part : Partition) (k : Nat) : Bool :=
  decide (s.partOf k = some part) && !(s.storeBlk k).bad && !(s.storeBlk k).eraseOpen && !s.markedErase k

/-- Fresh blocks of a partition, on one die where the MEDIA partition asks for it: erased, and holding nothing. -/
def State.freshBlocks (s : State) (part : Partition) (die : Option Nat) (n : Nat) : List Nat :=
  (storeBlocks.filter (fun k => s.openBlk part k && !s.holdsData k && decide ((s.storeBlk k).wp = 0)
    && (match die with | some d => decide (blockDie k = d) | none => true))).take n

/-- The first open block on the other die with room for the second copy of a MEDIA transaction (R379). -/
def State.twinBlock (s : State) (b pages : Nat) : Option Nat :=
  storeBlocks.find? (fun k => decide (blockDie k ≠ blockDie b) && s.openBlk .media k &&
    decide ((s.storeBlk k).wp + pages ≤ s.blockPages k))

/-- A block that holds no committed data any more is due for its erase (R379, R383). -/
def State.releaseStore (s : State) (b : Nat) : State :=
  if s.holdsData b then s else s.modBlk b (fun q => { q with eraseOpen := true })

/-- Blocks are filled in turn with the pages of a transaction. -/
def readyBlocks (per : Nat) : List Nat → Nat → State → State
  | [], _, s => s
  | b :: t, n, s => readyBlocks per t (n - per) (s.fillBlk b (min n per))

/-- Replace a transaction. -/
def State.modTrans (s : State) (part : Partition) (item : Nat) (f : Transact → Transact) : State :=
  s.modMedia (fun m => { m with trans := modBy (fun y => decide (y.part = part) && decide (y.item = item)) f m.trans })

/-- One copy of a transaction is rewritten to fresh blocks, on the die of that copy for the MEDIA partition, and the old copy
is released (R379). Without enough fresh blocks the copy stays where it is until some are erased. -/
def State.rewriteCopy (s : State) (x : Transact) (twin : Bool) : State :=
  let old := if twin then x.twins else x.blocks
  let per := partPages (some x.part)
  let new := s.freshBlocks x.part (if x.part = .media then (old.head?).map blockDie else none) (ceilDiv x.pages per)
  if new.length < ceilDiv x.pages per then s
  else
    let t := s.modTrans x.part x.item (fun y => if twin then { y with twins := new } else { y with blocks := new })
    old.foldl (fun u b => u.releaseStore b) (readyBlocks per new x.pages t)

/-- The copies of a transaction that lie in a block are rewritten. -/
def State.rewriteStore (s : State) (b item : Nat) : State :=
  match s.media.trans.find? (fun t => t.lies b && decide (t.item = item)) with
  | none => s
  | some x =>
    let t := if x.blocks.contains b then s.rewriteCopy x false else s
    if x.twins.contains b then t.rewriteCopy x true else t

/-- The items of the transactions in a block. -/
def State.itemsIn (s : State) (b : Nat) : List Nat := (s.media.trans.filter (fun t => t.lies b)).map (fun t => t.item)

/-- The transactions of a block are rewritten elsewhere, and the one under way there starts again. -/
def State.vacate (s : State) (b : Nat) : State :=
  let t := s.modMedia (fun m => { m with
    waiting := (m.writing.filter (fun w => w.blocks.contains b)).toList.map (fun w => { w with blocks := [], pages := 0 }) ++ m.waiting
    writing := m.writing.filter (fun w => !w.blocks.contains b) })
  (t.itemsIn b).foldl (fun u k => u.rewriteStore b k) t

/-! ## The model library (R371) -/

/-- A library tile is in use: an index entry or an array write in progress names it. -/
def State.libUsed (s : State) (k : Nat) : Bool :=
  s.media.index.any (fun q => decide (q.2 = some k)) || s.awr.ws.any (fun w => w.addrs.any (fun a => decide (a.lib = some k)))

/-- The library tile that a transaction writes. -/
def Transact.tile? (t : Transact) : Option Nat := match t.data with | .tile k _ => some k | _ => none

/-- A transaction whose library tile nothing names any more. -/
def State.txUnused (s : State) (t : Transact) : Bool := match t.tile? with | some k => !s.libUsed k | none => false

/-- A library tile that no index entry and no array write in progress names is freed, and its transaction with it (R371). -/
def State.freeLibrary (s : State) : State :=
  let t := s.modMedia (fun m => { m with
    lib := m.lib.filter (fun p => s.libUsed p.1)
    trans := m.trans.filter (fun t => !s.txUnused t)
    waiting := m.waiting.filter (fun t => !s.txUnused t)
    writing := m.writing.filter (fun t => !s.txUnused t) })
  match s.media.writing with
  | some w => if s.txUnused w then t.fillBlk (w.blocks.getLastD 0) 0 else t
  | none => t

/-- A library tile has been written for an address, its transaction committed (R371). -/
def State.libHolds (s : State) (a : AwAddr) : Bool :=
  match a.lib with | some k => s.media.lib.any (fun p => decide (p.1 = k)) | none => false

/-! ## Array writes as the MEDIA partition sees them (R368) -/

/-- Every address of the write is served or left without an array. -/
def ArrayWrite.settled (w : ArrayWrite) : Bool :=
  w.addrs.all (fun a => decide (a.st = .served) || decide (a.st = .lost))

/-- The write may commit: every address is settled, and its library tiles are written (R368 step 6, R371). -/
def State.committable (s : State) (w : ArrayWrite) : Bool :=
  w.settled && (!w.lib || decide (w.status ≠ 0) || w.addrs.all (fun a => decide (a.st = .lost) || s.libHolds a))

/-- The array writes that the next MEDIA update commits. -/
def State.committing (s : State) : List ArrayWrite := s.awr.ws.filter (fun w => !w.committed && s.committable w)

/-- A REWRITE that has not reached its commit: the maps of its set are committed with its library index (R368 step 6). -/
def State.heldByWrite (s : State) (addr : Nat) : Bool :=
  s.awr.ws.any (fun w => !w.install && !w.committed && !s.committable w && w.addrs.any (fun a => decide (a.addr = addr)))

/-! ## The MEDIA partition (R384) -/

/-- The persistent state of an array. -/
def PhysArray.record (p : PhysArray) : ArrRec :=
  { st := if p.st = .quarantined ∨ p.st = .retired then p.st else .idle
    qreason := p.qreason, fence := p.fence, barred0 := p.barred0, barred1 := p.barred1, barred2 := p.barred2
    epoch := p.redEpoch, erases := p.erases, eraseOpen := p.eraseOpen, progOpen := p.progOpen }

/-- An address map entry as a MEDIA update writes it: a MOVING address has its old home (R113), and one of a REWRITE that has
not reached its commit the entry committed before. -/
def State.mapToSave (s : State) (a : Nat) : MapEntry :=
  if s.heldByWrite a then tget mapDefault s.media.map a
  else
    let e := s.mapOf a
    if e.st = .moving then { e with st := .served } else e

/-- The address maps, array records and library index that a MEDIA update writes, and the blocks that it marks ERASE_OPEN. -/
def State.mediaUpdate (s : State) : Transact :=
  { part := .media, item := s.nextId, blocks := [], twins := [], pages := 0, committed := false
    data := .media
      (((s.arr.map.map (fun p => p.1)) ++ (s.media.map.map (fun p => p.1))).foldl
        (fun t a => tset mapDefault t a (s.mapToSave a)) [])
      (s.arr.phys.filterMap (fun p =>
        if p.2.record = arrRecDefault p.1 then none else some (p.1, p.2.record)))
      (s.committing.flatMap (fun w => w.addrs.filterMap (fun a => if a.st = .served then some (a.addr, a.lib) else none)))
      (s.committing.map (fun w => w.id))
      (s.media.blk.filterMap (fun p =>
        if !p.2.bad ∧ (p.2.eraseOpen ∨ (p.2.wp ≠ 0 ∧ !s.holdsData p.1)) then some p.1 else none)) }

/-- The record of an array in the MEDIA partition. -/
def State.savedRec (s : State) (n : Nat) : ArrRec := tget arrRecDefault s.media.arrs n

/-- PROGRAM_OPEN of an array is committed (R384). -/
def State.programCommitted (s : State) (n : Nat) : Bool := (s.savedRec n).progOpen

/-- An address of the bank is served by an array under the committed maps. -/
def State.savedServes (s : State) (n : Nat) : Bool :=
  (List.range 256).any (fun i =>
    let e := tget mapDefault s.media.map (n / 264 * 256 + i)
    decide (e.st ≠ .unavailable) && decide (e.phys = n))

/-- ERASE_OPEN of an array is committed, and an address map that does not name it (R384). -/
def State.eraseCommitted (s : State) (n : Nat) : Bool := (s.savedRec n).eraseOpen && !s.savedServes n

/-! ## The boot ledger's ring (R536) -/

/-- A record is committed to the LEDGER partition: its ring of 8 blocks of 128 pages keeps one block erased ahead
(R536). -/
def commitLedger (l : List Ledger) (r : Ledger) : List Ledger :=
  let m := l ++ [r]
  if 896 < m.length then m.drop 128 else m

/-- The transaction of a ledger record; its page carries ALT_IN_FORCE as well (R536). -/
def State.ledgerWrite (s : State) : Transact :=
  { part := .ledger, item := s.nextId, blocks := [], twins := [], pages := 0, committed := false
    data := .ledger s.boot.present s.boot.alt }

/-- The present record waits to be committed. -/
def State.queueLedger (s : State) : State :=
  (s.modMedia (fun m => { m with waiting := m.waiting ++ [s.ledgerWrite] })).takeId

/-! ## The backing copy (R122) -/

def backingDefault (_ : Nat) : BitVec 64 := nominalSet

def zero64 : Nat → BitVec 64 := fun _ => 0

/-- The ageing record of an array (R95). -/
def State.ageRecord (s : State) (n : Nat) : BitVec 64 :=
  let p := s.array n
  BitVec.ofNat 64 (p.ageRet.toNat + s.agePeri (n / 264) * 2 ^ 8 + s.ageIndex n * 2 ^ 16 + p.refreshes.toNat * 2 ^ 24
    + b2n p.prevValid * 2 ^ 30 + b2n (s.stale n) * 2 ^ 31 + p.lastMeas.toNat * 2 ^ 32)

/-- The transaction that writes the backing copy of the arrays whose active set has changed, with POWERED_SECONDS (R122,
R467). -/
def State.backingWrite (s : State) : Transact :=
  { part := .margin, item := s.nextId, blocks := [], twins := [], pages := 0, committed := false,
    data := .backing
      (s.arr.dirty.flatMap (fun n => groups.map (fun g => (n * 32 + g, BitVec.ofNat 64 (s.activeSet n g)))))
      (s.arr.dirty.map (fun n => (n, s.ageRecord n))) s.clk.powered }

/-- The arrays whose newest backing copy a transaction holds: a later write of the same array supersedes it. -/
def Transact.backs (t : Transact) : List Nat := match t.data with | .backing _ ages _ => ages.map (fun p => p.1) | _ => []

/-- A transaction without the arrays that a later one holds. -/
def Transact.without (ns : List Nat) (t : Transact) : Transact :=
  match t.data with
  | .backing sets ages secs => { t with data := .backing (sets.filter (fun p => !ns.contains (p.1 / 32)))
                                                         (ages.filter (fun p => !ns.contains p.1)) secs }
  | _ => t

/-- What an earlier transaction still holds after a new one has committed (R380: the newest committed version stands). -/
def supersede (x : Transact) (l : List Transact) : List Transact :=
  match x.data with
  | .backing _ _ _ =>
    (l.map (fun t => t.without x.backs)).filter (fun t => decide (t.part ≠ .margin) || decide (t.backs ≠ []))
  | .media .. => l.filter (fun t => match t.data with | .media .. => false | _ => true)
  | .settings .. => l.filter (fun t => match t.data with | .settings .. => false | _ => true)
  | .firmware => l.filter (fun t => match t.data with | .firmware => false | _ => true)
  | _ => l

/-! ## Commits (R380) -/

/-- What a transaction commits becomes readable (R380). -/
def State.commitData (s : State) (d : StoreData) : State :=
  match d with
  | .tile k codes => s.modMedia (fun m => { m with
      lib := tset (fun _ => []) m.lib k codes, libReserved := m.libReserved - 1 })
  | .backing sets ages secs =>
    (s.modArr (fun a => { a with
      backing := sets.foldl (fun t p => tset backingDefault t p.1 p.2) a.backing
      backingAge := ages.foldl (fun t p => tset zero64 t p.1 p.2) a.backingAge })).modMedia (fun m => { m with
        savedSecs := secs, savedEvery := s.ent? 0x3100 6
        marginLost := m.marginLost.filter (fun n => !(ages.map (fun p => p.1)).contains n) })
  | .media maps arrs index writes blks =>
    let t := s.modMedia (fun m => { m with
      map := maps, arrs := arrs, openBlks := blks
      index := index.foldl (fun x p => tset (fun _ => none) x p.1 p.2) m.index
      blk := m.blk.map (fun p => (p.1, if blks.contains p.1 then { p.2 with eraseOpen := true, erasing := true } else p.2)) })
    State.freeLibrary { t with awr := { t.awr with
      ws := modBy (fun w => writes.contains w.id) (fun w => { w with committed := true }) t.awr.ws } }
  | .settings vals m =>
    (s.modMedia (fun q => { q with stored := vals })).answerLate m tU8 0
  | .ledger r alt =>
    let ring := commitLedger s.boot.ring r
    (s.modBoot (fun b => { b with ring := ring, ringAlt := alt, ringLost := false })).modMedia (fun m => { m with
      trans := m.trans.filter (fun t => match t.data with | .ledger q _ => ring.contains q | _ => true) })
  | .firmware => s

/-- A transaction commits: its commit record is programmed, what it holds becomes readable, and a MEDIA transaction stands
on a block of the other die as well (R379, R380). -/
def commitTx (x : Transact) (s : State) : State :=
  let tw := if x.part = .media then (s.twinBlock (x.blocks.headD 0) x.pages).toList else []
  let y : Transact := { x with twins := tw, committed := true }
  let t := s.modMedia (fun m => { m with
    writing := none
    waiting := dropBy (fun z => decide (z.part = x.part) && decide (z.item = x.item)) m.waiting
    trans := supersede y m.trans ++ [y] })
  let u := match tw.head? with
    | some b => t.fillBlk b x.pages
    | none => t
  (u.commitData x.data).takeId

/-- Open blocks of a partition that together take a number of pages, in block order. -/
def State.placePages (s : State) (part : Partition) : List Nat → Nat → List (Nat × Nat)
  | _, 0 => []
  | [], _ => []
  | k :: t, n =>
    let room := s.blockPages k - (s.storeBlk k).wp
    if s.openBlk part k ∧ room ≠ 0 then (k, min n room) :: s.placePages part t (n - min n room) else s.placePages part t n

/-- A transaction is programmed and committed before anything else happens. -/
def State.runTx (s : State) (x : Transact) (pages : Nat) : State :=
  let l := s.placePages x.part storeBlocks (max pages 1)
  commitTx { x with blocks := l.map (fun p => p.1), pages := max pages 1 } (l.foldl (fun t p => t.fillBlk p.1 p.2) s)

/-- Every transaction that waits or is under way is committed before anything else happens, in order. -/
def State.flushStore (s : State) : State :=
  (s.media.writing.toList ++ s.media.waiting.filter (fun t => !s.media.writing.any (fun w => decide (w.part = t.part) && decide (w.item = t.item)))).foldl
    (fun t x => t.runTx x (max 1 (match x.tile? with | some _ => 8 | none => 1))) s

/-! ## Page programs (R380, R393) -/

/-- The transaction whose page a block programs: the one under way, in its own block or, that one full, in a further block of
its partition; else the first that waits for the block's partition; in the MEDIA partition else an update of what it
holds. -/
def State.storeTx (s : State) (block : Nat) : Option Transact :=
  match s.media.writing with
  | some w =>
    let last := w.blocks.getLastD 0
    if last = block then some w
    else if s.blockPages last ≤ (s.storeBlk last).wp ∧ s.partOf block = some w.part then some { w with blocks := w.blocks ++ [block] }
    else none
  | none =>
    match s.media.waiting.find? (fun t => decide (s.partOf block = some t.part)) with
    | some t => some { t with blocks := [block] }
    | none => if s.partOf block = some .media then some { s.mediaUpdate with blocks := [block] } else none

/-- The last page of a transaction: the eighth of a library tile (R381), the only one of a ledger record (R536), or the one
that the command names. -/
def Transact.ends (x : Transact) (last : Bool) : Bool :=
  if x.part = .library then decide (x.pages = 8) else x.part = .ledger || last

/-- A page program may end now: none starts while a rail is in warning, but one that the warning met runs to its end
(R394). -/
def State.mayProgram (s : State) : Bool := !s.mediaHeld || s.media.pageRuns

end Sys2Proof.Machine
end

