-- ==== Sys2Proof/Machine/Replan.lean ====
section
/-!
DEFINITION. Drift and its correction: temperature limits (R120, R121, R524), sensors (R93, R94), measurement and rebuild of
margins (R104 to R110), refresh by mirroring (R111 to R119), the recheck of shades (R77) and the backing copy (R122).
-/
namespace Sys2Proof.Machine

/-! ## Ceiling and temperature (R120, R121, R524) -/

/-- Recompute the replanned ceiling (R121): a fall that ageing or temperature causes is degraded and counted. -/
def State.recomputeCeiling (s : State) : State :=
  let c := modeCeiling s.modeEff
  let k := kTempNext s.junctionMax s.tempMax s.arr.ktemp
  let a := s.ageA?
  let new := replannedCeiling c a k
  let fell := decide (new < s.arr.replanned) && decide (new < replannedCeiling c s.arr.ageA s.arr.ktemp)
  let t := if fell then s.count 0x6003 9 clsDegraded else s
  t.modArr (fun r => { r with replanned := new, ktemp := k, ageA := a })

/-- K_temp would change: the ceiling is recomputed (R121). -/
def State.ktempCheck (s : State) : State :=
  if kTempNext s.junctionMax s.tempMax s.arr.ktemp = s.arr.ktemp then s else s.recomputeCeiling

/-- Samples of the last second, and the newest one that is older (R90 item 4). -/
def pruneHist (now : Nat) : List (Nat × Int) → List (Nat × Int)
  | a :: b :: t => if b.1 + 25000000 ≤ now then pruneHist now (b :: t) else a :: b :: t
  | l => l

/-- A slew above 5 °C/s against the sample taken 1 s earlier, or the earliest since the start. -/
def slewHigh (now : Nat) (t4 : Int) (h : List (Nat × Int)) : Bool :=
  match h with
  | [] => false
  | a :: _ => decide (20 * (now - a.1) < (t4 - a.2).natAbs * 25000000)

/-- A group of the bank has a TREF that the temperature has moved TEMP_TRIGGER from (R106). -/
def State.tempTriggered (s : State) (b : Nat) (t4 : Int) : Bool :=
  (bankArrays b).any (fun n => groups.any (fun g =>
    decide (4 * s.ent? 0x3100 2 ≤ (t4 - 4 * setTref (s.activeSet n g)).natAbs)))

/-- RING_SENSOR_SAMPLE: AGE_PERI = 128 * F / 0.03, truncated and saturated at 255 (R94). -/
def execRingSensorSample (bank : BitVec 6) (fallPpm : Nat) (s : State) : Result :=
  .next ((s.modArr (fun a => { a with
    peri := tset zeroByte a.peri bank.toNat (BitVec.ofNat 8 (min 255 (128 * fallPpm / 30000))) })).noteBank bank.toNat)

/-! ## Measurement and rebuild (R104, R107, R108) -/

/-- The mean of a pattern is its sum over four phases; pattern 0 Z, 1 M, 2 N, 3 H. -/
def patternSum (ms : List (List Int)) (pattern g : Nat) : Int :=
  (((ms.drop (4 * pattern)).take 4).map (fun l => l.getD g 0)).foldl (· + ·) 0

/-- The predicted residual of H against 448 under a new set, as four times its LSB times DSCALE: the mean code of H, less what
the new offset trim takes off against the old one, `trim` quarters of a code, times DSCALE over 4,096 (R99, R108; log 84). -/
def residual4 (ms : List (List Int)) (g : Nat) (trim : Int) (ds : Nat) : Nat :=
  ((patternSum ms 3 g - trim) * ds - 4 * 448 * 4096).natAbs

/-- The new set of a group (R108), and whether its array is to be refreshed, from the old set, the phases, the temperature,
the array's measurement temperatures, the bound in units of 1/64,000 LSB and the index of the free slope. A trim or DSCALE
outside its field is written at the end of its range, and a half degree of TREF goes up (log 85). -/
def newSet (old : Nat) (ms : List (List Int)) (g : Nat) (t4 : Int) (log : List Int) (bound : Nat) (ix : Nat) :
    BitVec 64 × Bool :=
  let z := patternSum ms 0 g
  let m := patternSum ms 1 g
  let n := patternSum ms 2 g
  let off := setOffset old - z
  let offC := clampInt (-128) 127 off
  let ds : Int := if m - n ≤ 0 then 2 ^ 18 else 67108864 / (m - n)
  let dsC := clampInt 1 (2 ^ 18 - 1) ds
  let r0 := setRange old
  let f100 : Nat := if r0 = 1 then 125 else if r0 = 2 then 150 else 100
  let up := decide (96900 ≤ (m + 2) * f100)
  let stuck := up && decide (2 ≤ r0)
  let spans := decide (8 ≤ log.length) && decide (40 ≤ log.foldl max t4 - log.foldl min t4)
  let tc := if spans then clampInt (-128) 127 (Config.tempcoFit ix) else setTempco old
  let res := residual4 ms g (setOffset old - offC) dsC.toNat * 64000
  let wide := decide (bound * 2 * dsC.toNat < res) || stuck
  let refresh := decide (bound * 4 * dsC.toNat < res) || stuck || decide (off ≠ offC) || decide (ds ≠ dsC)
  (mkSet offC (setGain old) (if up && !stuck then r0 + 1 else r0) dsC.toNat tc ((t4 + 2) / 4) wide, refresh)

/-- max |δ| of R89 for an array, in units of 1/64,000 LSB: the bound of R89 times (64 + E), E = 0 where the array is not beyond
aged. -/
def State.bound64000 (s : State) (n : Nat) (t4 : Int) : Nat := s.bound10 n t4 * 100 * (64 + s.beyondBy n)

/-- The 32 inactive sets are written, MARGIN_GEN is inverted in one write, PREV_VALID is set and LAST_MEAS written
(R104). -/
def State.rebuild (s : State) (n : Nat) (sets : List (BitVec 64)) : State :=
  let which := 1 - b2n (s.array n).gen
  let t := (sets.zipIdx).foldl (fun u p => u.setMset n p.2 which p.1) s
  let t1 := t.modArray n (fun p => { p with
    gen := !p.gen, prevValid := true, lastMeas := BitVec.ofNat 32 s.clk.powered })
  let t2 := (t1.addCnt 0x6003 1 1).addCnt 0x6003 2 1
  t2.modArr (fun a => { a with dirty := if a.dirty.contains n then a.dirty else a.dirty ++ [n] })

/-- AGE_RET from the REF_MID reading (R94): the first reading after a program-verify is the baseline (log 13). -/
def ageRetOf (base : Int) (read400k : Int) : Nat :=
  if base ≤ 0 then 0 else (clampInt 0 255 (Int.tdiv ((base * 400000 - read400k) * 12800) (6 * base * 400000))).toNat

/-- The REF_MID reading of an array, corrected to its baseline temperature with the active TEMPCO, times 400,000. R94 names one
reading of an array that has 32 converters: the model takes the sum over the 32 groups (log 13). -/
def State.refReading (s : State) (n : Nat) (ms : List (List Int)) (t4 base4 : Int) : Int :=
  groups.foldl (fun a g => a + patternSum ms 1 g * (400000 + setTempco (s.activeSet n g) * (t4 - base4))) 0

/-- An array joins the refreshes requested. -/
def State.requestRefresh (s : State) (n : Nat) : State :=
  let p := s.array n
  if !p.mapped ∨ (s.mapOf (p.address n)).st ≠ .served ∨ s.arr.refreshReq.contains n then s
  else s.modArr (fun a => { a with refreshReq := a.refreshReq ++ [n] })

/-- Every code of an array in row order: a verify read of the old home (R112). -/
def State.readTile (s : State) (n : Nat) : List (BitVec 4) :=
  (List.range 262144).map (fun i => s.cell n (i / 512) (i % 512))

/-- The refreshes in progress. -/
def State.refreshes (s : State) : List HandoverSet := s.arr.moves.filter (fun h => decide (h.kind = .refresh))

/-- Drop a request: it waits no more for a free array (R119). -/
def State.dropRequest (s : State) (n : Nat) : State :=
  (s.modArr (fun a => { a with refreshReq := a.refreshReq.filter (· ≠ n) })).modArray n (fun p => { p with waits := false })

/-- Serve with WIDE = 1 in every group: the device does not refresh the array (R112). -/
def State.widenAll (s : State) (n : Nat) : State :=
  let which := b2n (s.array n).gen
  groups.foldl (fun u g =>
    let v := u.mset n g which
    u.setMset n g which (mkSet (setOffset v) (setGain v) (setRange v) (setDscale v) (setTempco v) (setTref v) true)) s

/-- An array enters the state of R112 in which the device does not refresh it: WIDE = 1 in every group, and the event is
degraded, counted as the array enters it. -/
def State.giveUpRefresh (s : State) (n : Nat) : State :=
  let p := s.array n
  let t := if p.stuck then s else s.count 0x6003 8 clsDegraded
  (((t.dropRequest n).widenAll n).modArray n (fun q => { q with stuck := true, widened := true })).noteWidened n

/-- A refresh that finds no free array waits, which is degraded and counted as it begins to wait (R119). -/
def State.waitRefresh (s : State) (n : Nat) : State :=
  if (s.array n).waits then s else (s.count 0x6003 7 clsDegraded).modArray n (fun p => { p with waits := true })

/-- Try to start a requested refresh (R111, R112, R119). -/
def State.tryRefresh (s : State) (n : Nat) : State :=
  let p := s.array n
  let addr := p.address n
  if !p.mapped ∨ (s.mapOf addr).st ≠ .served then s.dropRequest n
  else if 160 ≤ p.ageRet.toNat ∧ s.libTile addr = none then s.giveUpRefresh n
  else
    match s.chooseArray addr with
    | none => s.waitRefresh n
    | some m =>
      if s.warned ∨ 16 ≤ s.refreshes.length
          ∨ s.refreshes.any (fun h => h.members.any (fun x => decide (x.1 / 256 = n / 264))) then s
      else
        let tile := match s.libTile addr with | some t => t | none => s.readTile n
        let h : HandoverSet := { id := s.nextId, kind := .refresh, members := [(addr, m)], ready := [], since := none,
                                 forced := false }
        let t := ((s.dropRequest n).setMap addr { phys := n, st := .moving }).modArray n (fun q => { q with waits := false })
        ((t.modArr (fun a => { a with moves := a.moves ++ [h] })).takeId.startProgram m tile).grantHv

/-- Every waiting request is tried. -/
def State.tryRefreshes (s : State) : State := s.arr.refreshReq.foldl (fun t n => t.tryRefresh n) s

/-- A mirror's margins are valid (R113, R114): its set waits from the moment the last one is. -/
def State.mirrorReady (s : State) (n : Nat) : State :=
  s.modArr (fun a => { a with moves := a.moves.map (fun h =>
    if h.members.any (fun m => decide (m.2 = n)) ∧ !h.ready.contains n then
      let h1 := { h with ready := h.ready ++ [n] }
      if h1.allReady then { h1 with since := some s.clk.ticks } else h1
    else h) })

/-- The target of an INSTALL or of a rebuild has valid margins: its address is SERVED on it as soon as R62 allows (R75,
R368 step 5). -/
def State.installReady (s : State) (n : Nat) : State :=
  let t := s.awr.ws.foldl (fun t w =>
    if w.install then
      w.addrs.foldl (fun u a => if a.array = some n ∧ a.st = .measuring then u.markAw w.id a.addr .ready else u) t
    else t) s
  t.modArr (fun a => { a with rebuilds := modBy (fun r => decide (r.array = n)) (fun r => { r with ready := true }) a.rebuilds })

/-! ### Passes (R106, R108, R110, R123) -/

/-- The arrays of an array write that waits in its program step: its margins follow when every address is programmed
(R368). -/
def State.inProgramStep (s : State) (n : Nat) : Bool :=
  s.awr.ws.any (fun w => w.addrs.any (fun a => decide (a.array = some n))
    && w.addrs.any (fun a => decide (a.st = .taken) || decide (a.st = .programming)))

/-- An array may be in the measurement of a pass (R108, R109); one that is owed an erase is not measured before it. -/
def State.measurable (s : State) (n : Nat) : Bool :=
  let p := s.array n
  (decide (p.st = .idle) || decide (p.st = .converting)) && (!p.eraseOpen || p.mapped) && !(p.mapped && s.steady)
    && !(p.mapped && decide ((s.mapOf (p.address n)).st = .moving)) && !s.inProgramStep n

/-- A pass starts over every physical array; one that is running goes on, and the new one follows (R106). Refreshes that
wait are tried in each pass (R119). -/
def State.startPass (s : State) (first : Bool) : State :=
  if s.arr.pass.running ∧ s.arr.pass.left.any (fun n => s.measurable n) then
    s.modArr (fun a => { a with pass := { a.pass with queued := true } })
  else
    (s.modArr (fun a => { a with pass := { a.pass with
      running := true, first := first, left := allArrays.filter (fun n => s.measurable n) } })).tryRefreshes

/-- A full pass with no array left ends: the ceiling is recomputed, and a queued pass starts. -/
def State.endFullPass (s : State) : State :=
  if s.arr.pass.running ∧ s.arr.pass.left = [] then
    let u := (s.modArr (fun a => { a with pass := { a.pass with running := false, queued := false } })).recomputeCeiling
    if s.arr.pass.queued then u.startPass false else u
  else s

/-- Early passes whose banks have no array left end, and the ceiling is recomputed. -/
def State.endEarlyPass (s : State) : State :=
  let live := s.arr.pass.banks.filter (fun b => s.arr.pass.early.any (fun n => decide (n / 264 = b)))
  if live = s.arr.pass.banks then s
  else (s.modArr (fun a => { a with pass := { a.pass with banks := live } })).recomputeCeiling

/-- An array's turn in the passes is over, measured or not: it and those that can be measured no more leave them. -/
def State.leavePass (s : State) (n : Nat) : State :=
  let keep := fun k => decide (k ≠ n) && s.measurable k
  (s.modArr (fun a => { a with pass := { a.pass with
    left := a.pass.left.filter keep, early := a.pass.early.filter keep } })).endEarlyPass.endFullPass

/-- The bank temperature has moved: the arrays of the bank run ahead of schedule, and its waiting refreshes are tried
(R106, R119). -/
def State.startEarly (s : State) (b : Nat) : State :=
  if s.arr.pass.banks.contains b then s
  else
    let l := (bankArrays b).filter (fun n => s.measurable n)
    let t := s.modArr (fun a => { a with pass := { a.pass with banks := a.pass.banks ++ [b], early := a.pass.early ++ l } })
    ((t.arr.refreshReq.filter (fun n => decide (n / 264 = b))).foldl (fun u n => u.tryRefresh n) t).endEarlyPass

/-- The next array of its bank in the first pass: no other that is free to be measured has an older LAST_MEAS (R123). -/
def State.oldestLeft (s : State) (n : Nat) : Bool :=
  !s.arr.pass.first || !s.arr.pass.running || !s.arr.pass.left.contains n ||
    s.arr.pass.left.all (fun k => decide (k / 264 ≠ n / 264) || decide ((s.array k).st ≠ .idle)
      || decide ((s.array n).lastMeas.toNat ≤ (s.array k).lastMeas.toNat))

/-- The 16 phases of an array are measured: its sets are rebuilt, its indices updated, and a refresh requested when one
is due (R108). -/
def State.finishMeasurement (s : State) (n : Nat) (t4 : Int) (ms : List (List Int)) : State :=
  let p := s.array n
  let log := (p.tempLog ++ [t4]).drop (p.tempLog.length + 1 - 8)
  let rs := groups.map (fun g => newSet (s.activeSet n g) ms g t4 log (s.bound64000 n t4) (s.freeIx + g))
  let base := if p.baseline ≤ 0 then groups.foldl (fun a g => a + patternSum ms 1 g) 0 else p.baseline
  let base4 := if p.baseline ≤ 0 then t4 else p.baseTemp
  let age := ageRetOf base (s.refReading n ms t4 base4)
  let s1 := { s with freeIx := s.freeIx + 32 }
  let s2 := (s1.rebuild n (rs.map (fun r => r.1))).modArray n (fun q => { q with
    measured := [], maint := false, st := if q.st = .converting then .idle else q.st, tempLog := log,
    baseline := base, baseTemp := base4, ageRet := BitVec.ofNat 8 age, fresh := false })
  let s3 : State := if rs.any (fun r => r.2) ∨ s.ent? 0x3100 3 ≤ age then (s2.requestRefresh n).tryRefresh n else s2
  ((((s3.noteWidened n).mirrorReady n).installReady n).leavePass n).settle

/-- The reference column that a phase of a measurement reads (R107): four phases of REF_ZERO, of REF_MID, of REF_NEG and
of REF_HI, as columns 3, 1, 2 and 0. -/
def patternColumn (k : Nat) : Nat := if k < 4 then 3 else if k < 8 then 1 else if k < 12 then 2 else 0

/-- The codes that a phase of a measurement reads: every converter converts all four reference columns, 4 codes each in
the order REF_HI, REF_MID, REF_NEG, REF_ZERO (R93), inside the resolution of the pattern: 9 bits, or 6 for H (R107). -/
def phaseCodes (k : Nat) (codes : List Int) : List Int :=
  groups.map (fun g =>
    let c := codes.getD (4 * g + patternColumn k) 0
    if 12 ≤ k then clampInt (-32) 31 c else clampInt (-256) 255 c)

/-- It is an array's turn to be measured: in the passes that run, or after its program (R108, R110). -/
def State.dueMeasure (s : State) (n : Nat) : Bool :=
  s.arr.pass.left.contains n || s.arr.pass.early.contains n || (s.array n).fresh

/-- One more maintenance phase in a bank keeps every limit on converting arrays, one in a bank at a time (R71, R81, R107). -/
def State.roomToMeasure (s : State) (bank : Nat) : Bool :=
  !s.warned && s.seqFull && !s.maintArrays.any (fun k => decide (k / 264 = bank))
    && decide (s.convertingAt s.clk.cycle + 1 ≤ s.ceiling)
    && decide (s.convertingBank s.clk.cycle bank + 1 ≤ 128)

/-- A maintenance phase may run on an array now (R71, R107, R108, R503, R526). -/
def State.mayMeasure (s : State) (n : Nat) : Bool :=
  decide ((s.array n).st = .idle) && s.measurable n && s.dueMeasure n && s.oldestLeft n && s.roomToMeasure (n / 264)

/-- A waiting operation names the address that an array serves (R71). -/
def State.wantedBy (s : State) (n : Nat) : Bool :=
  (s.array n).mapped && s.disp.ops.any (fun o => decide (o.stage = .waiting) && o.names ((s.array n).address n))

/-- The next phase of a measurement follows at once: no operation waits for the array, SEQ_CLK meets R503, and the count is
within the ceiling (R71, R85, R503, log 121). -/
def State.goesOn (s : State) (n : Nat) : Bool :=
  !s.wantedBy n && s.seqFull && decide (s.convertingAt s.clk.cycle ≤ s.ceiling)

/-- A maintenance phase and its measurement are over without a result: the array is IDLE again and its turn in the pass is
over (R108, R110). -/
def State.dropMeasurement (s : State) (n : Nat) : State :=
  ((s.modArray n (fun p => { p with
    maint := false, measured := [], fresh := false, st := if p.st = .converting then .idle else p.st })).leavePass n).settle

/-- A maintenance phase that a warning or a clock change meets is discarded whole and is not repeated (R110, R506). -/
def State.discardMaintenance (s : State) : State := s.maintArrays.foldl (fun u n => u.dropMeasurement n) s

/-- Phases, maintenance phases and row-latch loads that a warning or a clock change meets (R57, R506, R526). -/
def State.discardPhases (s : State) (recent : Bool) : State :=
  ((s.disp.ops.foldl (fun u o => discardOp recent o u) s).closeHeld).holdFront.discardMaintenance

/-- MAINTENANCE_PHASE_END: one phase of a measurement ends. The next follows at once while it may (State.goesOn), and
otherwise it waits; none follows once the array may no longer be measured, as on an array that serves when MODE has become Steady
(R71, R109). An array that does not answer is declared dead by the management cores' check (R74, R107). -/
def execMaintenancePhaseEnd (array : Nat) (codes : List Int) (silent : Bool) (s : State) : Result :=
  let p := s.array array
  .next (if !p.maint ∧ !s.mayMeasure array then
      (if s.measurable array ∧ s.dueMeasure array then s.beginClockWait else s)
    else if silent then (s.declareArrayDead array 2).leavePass array
    else if !s.measurable array then s.dropMeasurement array
    else
      let ms := if p.measured = [] then [[s.bankTemp (array / 264)]] else p.measured
      let ms1 := ms ++ [phaseCodes (ms.length - 1) codes]
      if ms1.length < 17 then
        let go := s.goesOn array
        (s.modArray array (fun q => { q with measured := ms1, maint := go, st := if go then .converting else .idle })).settle
      else s.finishMeasurement array ((ms1.headD []).headD 0) (ms1.drop 1))

/-- REPLAN_PERIOD_EXPIRY: a full pass, and the groups whose sets have grown too old (R91, R106). -/
def execReplanPeriodExpiry (s : State) : Result :=
  .next (((List.range 64).foldl (fun t b => t.noteBank b) s).startPass false)

/-- A write of REPLAN_NOW (R106, R124). -/
def wReplanNow (v : Nat) (s : State) : WriteRes := if v = 1 then (0, s.startPass false) else (abRange, s)

def execReplanNow (m : Master) (value : BitVec 8) (s : State) : Result :=
  entryWrite m 0x3100 10 1 value.toNat (wReplanNow value.toNat) s

/-! ## Handover (R114 to R118) -/

/-- An admitted operation names an address of a set. -/
def State.setAdmitted (s : State) (h : HandoverSet) : Bool :=
  h.members.any (fun m => s.disp.ops.any (fun o => o.inService && o.names m.1))

/-- An operation waiting at admission names an address of a set. -/
def State.setWaiting (s : State) (h : HandoverSet) : Bool :=
  h.members.any (fun m => s.disp.ops.any (fun o => decide (o.stage = .waiting) && o.names m.1))

def State.getMove (s : State) (id : Nat) : Option HandoverSet := s.arr.moves.find? (fun h => decide (h.id = id))

/-- The tiles that a set carries into the array tier are clean copies: a dirty one is copied again first (R344, R346). -/
def State.setClean (s : State) (h : HandoverSet) : Bool :=
  match h.kind with
  | .refresh => true
  | .rewrite id =>
    match (s.awr.ws.find? (fun w => decide (w.id = id))).bind (fun w => w.byMove) with
    | none => true
    | some rec =>
      (s.mig.recs.filter (fun r => decide (r.id = rec))).all (fun r => r.tiles.all (fun p =>
        match p.2 with | .copying _ _ => !(s.tileEnt ((s.obj r.obj).mapFirst + p.1)).dirty | _ => true))

/-- HANDOVER: every mirror has valid margins, and no operation admitted or, unless it is forced, waiting names an address
(R114 to R116). -/
def execHandover (set : Nat) (s : State) : Result :=
  .next (match s.getMove set with
    | some h => if h.allReady ∧ s.setClean h ∧ !s.setAdmitted h ∧ (h.forced ∨ !s.setWaiting h) then s.doHandover h else s
    | none => s)

/-- HANDOVER_WAIT_EXPIRY: after HANDOVER_WAIT the handover is forced (R115). -/
def execHandoverWaitExpiry (set : Nat) (s : State) : Result :=
  .next (match s.getMove set with
    | some h =>
      match h.since with
      | some t0 =>
        if h.forced then s
        else
          let t := s.toTick (t0 + usTicks (s.ent? 0x3100 5))
          (t.modArr (fun a => { a with
            moves := modBy (fun x => decide (x.id = set)) (fun x => { x with forced := true }) a.moves })).addCnt 0x6003 6 1
      | none => s
    | none => s)

/-- An array whose own erase fails erase-verify is RETIRED (R69, R364). -/
def State.retire (s : State) (n reason : Nat) : State :=
  (s.modArray n (fun p => { p with
    st := .retired, qreason := BitVec.ofNat 4 reason, mapped := false, addrSlot := 0, source := none, progOpen := false,
    eraseOpen := false, measured := [], maint := false, waits := false, stuck := false, fresh := false })).count 0x600A 4
    clsDegraded

/-- An array is erased in full: its cells, flags and references are level 0 (R359). -/
def State.erased (s : State) (n : Nat) : State :=
  (s.clearCells n).modArray n (fun p => { p with
    erases := p.erases + 1, eraseOpen := false, progOpen := false, rowsDone := 0, rowsOpen := 0, loops := 0,
    ageRet := 0, baseline := 0, measured := [], maint := false, stuck := false, fresh := false })

/-- OLD_HOME_ERASE: an array that holds no address and is owed an erase is erased, once the MEDIA partition has committed an
address map that does not name it, and its ERASE_OPEN mark (R118, R384, R393). The map of a REWRITE commits with its library
index only (R368 steps 6 and 7). -/
def execOldHomeErase (array : Nat) (verify : Bool) (s : State) : Result :=
  let p := s.array array
  .next (if p.st = .idle ∧ !p.mapped ∧ p.eraseOpen ∧ !s.warned ∧ s.eraseCommitted array ∧ s.hvOpen (array / 264) then
      let u := s.erased array
      if verify then u else u.retire array 0
    else s)

/-! ## Rechecks (R76 to R79) -/

/-- The rows and the drive digit of a measurement phase (R107). -/
def patternRows (k : Nat) : Nat := if k < 12 then 512 else 64
def patternDigit (k : Nat) : Int := if k < 4 then 7 else if k < 8 then 2 else 1

/-- The exact sum of the reference column that a measurement phase reads (R88, R107). -/
def State.refSum (s : State) (n k : Nat) : Int :=
  (List.range (patternRows k)).foldl (fun a r => a + w4 (s.refCode n r (patternColumn k)) * patternDigit k) 0

/-- The code of a phase and group in a measurement whose codes no command gives: one that the promise of R89 allows for
the column's exact sum, under the set in force (log 3). -/
def State.freePhase (s : State) (n : Nat) (t4 : Int) (ix k g : Nat) : Int :=
  let a := s.activeSet n g
  s.convert n (if setValid a then a else nominalSet.toNat) (if 12 ≤ k then 6 else 9) t4 (s.refSum n k) (ix + 32 * k + g)

/-- The codes of the 16 phases of such a measurement. -/
def State.freePhases (s : State) (n : Nat) (t4 : Int) (ix : Nat) : List (List Int) :=
  (List.range 16).map (fun k => groups.map (fun g => s.freePhase n t4 ix k g))

/-- The margins of an array are rebuilt from a measurement. -/
def State.rebuildFrom (s : State) (n : Nat) (ms : List (List Int)) : State :=
  let t4 := s.bankTemp (n / 264)
  let rs := groups.map (fun g => newSet (s.activeSet n g) ms g t4 [] (s.bound64000 n t4) (s.freeIx + g))
  let t : State := { s with freeIx := s.freeIx + 32 }
  t.rebuild n (rs.map (fun r => r.1))

/-- The margins of an array are rebuilt from a measurement whose codes no command gives. -/
def State.rebuildFree (s : State) (n : Nat) : State :=
  let t : State := { s with freeIx := s.freeIx + 512 }
  t.rebuildFrom n (s.freePhases n (s.bankTemp (n / 264)) s.freeIx)

/-- The weight of the test pattern at a row and column: ((r + 3c) mod 15) - 7 (R77). -/
def testWeight (r c : Nat) : BitVec 4 := BitVec.ofInt 4 (((r + 3 * c) % 15 : Nat) - 7)

/-- The test pattern, in row order. -/
def testTile : List (BitVec 4) := (List.range 262144).map (fun i => testWeight (i / 512) (i % 512))

/-- A tile and the reference columns of every row are programmed on an erased array (R359). -/
def State.writeTile (s : State) (n : Nat) (tile : List (BitVec 4)) : State :=
  ((List.range 512).foldl (fun t r => t.setRefs n r) (s.setCells (n * 262144) tile)).modArray n (fun p => { p with
    rowsOpen := 512, rowsDone := 512 })

/-- The mean of four read-back phases of a column lies within the fresh bound of the exact sum over `rows` rows (R77); the
sides are multiplied out. A phase gives one code per column. -/
def State.readsBack (s : State) (n : Nat) (phases : List (List Int)) (nb rows col : Nat) : Bool :=
  let set := s.activeSet n (col / 16)
  let t4 := s.bankTemp (n / 264)
  let e := (List.range rows).foldl (fun a r => a + w4 (s.cell n r col)) 0
  let v := phases.foldl (fun a p =>
    a + reduceCode set t4 (clampInt (-(2 ^ (nb - 1))) (2 ^ (nb - 1) - 1) (p.getD col 0))) 0
  setValid set && decide (phases.length = 4) && phases.all (fun p => decide (p.length = 512)) &&
    decide ((v - 4 * e).natAbs * 4096 * 10 ≤ 4 * s.boundFresh10 t4 * setDscale set)

/-- The read-back of a recheck: four phases on rows 0 to 63 at 6 bits, then four on rows 0 to 511 at 9 bits (R77). -/
def State.recheckPasses (s : State) (n : Nat) (codes : List (List Int)) : Bool :=
  (List.range 512).all (fun c => s.readsBack n (codes.take 4) 6 64 c && s.readsBack n (codes.drop 4) 9 512 c)

/-- SHADE_RECHECK: a new epoch tag, an erase, the test pattern, a measurement that rebuilds the margins, and the eight
read-back phases; a pass erases the array and frees it, a fail retires it with QREASON 4 (R77, R79). `phases` gives the
codes of the measurement as MAINTENANCE_PHASE_END does, `codes` those of the read-back, one list per phase; `programs`
says that the erase and the pattern's program pass, `eraseVerify` that the last erase does. It runs on a shade whose bank's
high-voltage unit serves it, with its marks committed (R360, R384), where each of its maintenance phases keeps the limits of
R71. PROGRAM_OPEN for the pattern is committed in its course (log 87). -/
def execShadeRecheck (array : Nat) (programs : Bool) (phases codes : List (List Int)) (eraseVerify : Bool) (s : State) :
    Result :=
  let p := s.array array
  .next (if p.st = .quarantined ∧ s.arr.hv.contains array ∧ s.eraseCommitted array ∧ s.roomToMeasure (array / 264) then
      let t := ((s.modArr (fun a => { a with rechecks := dropBy (fun p => decide (p.1 = array)) a.rechecks })).modArray array
        (fun q => { q with redEpoch := q.redEpoch + 1, epoch := q.redEpoch + 1 })).erased array
      (if !programs then t.retire array 4
      else
        let u := (t.writeTile array testTile).rebuildFrom array
          ((List.range 16).map (fun k => phaseCodes k (phases.getD k [])))
        if u.recheckPasses array codes then
          let v := u.erased array
          if eraseVerify then v.modArray array (fun q => { q with st := .idle, qreason := 0 }) else v.retire array 4
        else u.retire array 4).grantHv
    else s)

/-! ## The backing copy (R101, R122, R123) -/

/-- Operations in service keep the set that they were admitted with (R101). -/
def State.keepSets (s : State) (n g : Nat) (which : Nat) : State :=
  s.modDisp (fun d => { d with
    ops := modBy (fun o => o.inService && o.allArrays.contains n && decide (tget noPhys o.gens n = which)
        && decide (tget (fun _ => none) o.oldSets (n * 32 + g) = none))
      (fun o => { o with oldSets := tset (fun _ => none) o.oldSets (n * 32 + g) (some (s.mset n g which)) }) d.ops })

/-- MARGIN_SET_REWRITE: an invalid active set is written again from the backing copy, for operations admitted from now on
(R101). A reload of the entry writes its active set as well and leaves the inactive one, of which the backing copy holds
nothing (log 86). Where the page of the backing copy is lost (R379) there is nothing to write, and the set stays invalid until
a pass rebuilds it (log 122). -/
def execMarginSetRewrite (array : Nat) (group : BitVec 5) (s : State) : Result :=
  let g := group.toNat
  let which := b2n (s.array array).gen
  .next (if setValid (s.activeSet array g) then s
    else if s.media.marginLost.contains array then s
    else (s.keepSets array g which).setMset array g which (tget backingDefault s.arr.backing (array * 32 + g)))

/-- The backing copy is written and committed before anything else happens, after the writes that wait: on entry to Umbra mode
(R122, R521). -/
def State.writeBacking (s : State) : State :=
  ((s.flushStore.runTx s.backingWrite (ceilDiv (264 * s.arr.dirty.length) 16384)).modArr (fun a => { a with dirty := [] })).runTx
    s.mediaUpdate 1

/-- BACKING_INTERVAL_EXPIRY: the write waits for the store plane, whose page programs commit it (R122, R380). -/
def execBackingIntervalExpiry (s : State) : Result :=
  .next ((s.modMedia (fun m => { m with waiting := m.waiting ++ [s.backingWrite] })).modArr (fun a => { a with
    dirty := [] })).takeId

/-- ARRAY_STATUS_SAMPLE: which arrays the status region shows as CONVERTING (R67). -/
def execArrayStatusSample (s : State) : Result :=
  .next (s.modArr (fun a => { a with
    shown := (a.phys.filter (fun p => decide (p.2.st = .converting))).map (fun p => p.1) }))

end Sys2Proof.Machine
end

