-- ==== Sys2Proof/Machine/Numerics.lean ====
section
/-!
DEFINITION. Number formats and arithmetic (R184 to R207): FP8 E4M3, BF16 and FP32 as exact values, the one rounding toward
zero of every narrowing, FP32 add and multiply to nearest even, exponent changes, scale codes, and expansion of narrow
operands.
-/
namespace Sys2Proof.Machine

/-! ## Values and formats (R188, R189) -/

/-- A floating-point value: NaN or infinity with a sign, or (-1)^neg * m * 2^e. -/
inductive FVal where
  | nan (neg : Bool)
  | inf (neg : Bool)
  | fin (neg : Bool) (m : Nat) (e : Int)
deriving DecidableEq, Repr

/-- A binary format: exponent bits, mantissa bits, bias. -/
structure FFmt where
  eb   : Nat
  mb   : Nat
  bias : Nat
deriving DecidableEq, Repr

def fFp8 : FFmt := { eb := 4, mb := 3, bias := 7 }
def fBf16 : FFmt := { eb := 8, mb := 7, bias := 127 }
def fFp32 : FFmt := { eb := 8, mb := 23, bias := 127 }

/-- The fields of a pattern: sign, biased exponent, mantissa. -/
def FFmt.parts (f : FFmt) (w : Nat) : Bool × Nat × Nat :=
  (bit w (f.eb + f.mb), bits w f.mb f.eb, bits w 0 f.mb)

/-- The finite value of a pattern. -/
def FFmt.finite (f : FFmt) (w : Nat) : FVal :=
  let (s, x, m) := f.parts w
  if x = 0 then .fin s m (1 - (f.bias : Int) - f.mb) else .fin s (2 ^ f.mb + m) ((x : Int) - f.bias - f.mb)

/-- The value of a BF16 or FP32 pattern. -/
def FFmt.decode (f : FFmt) (w : Nat) : FVal :=
  let (s, x, m) := f.parts w
  if x = 2 ^ f.eb - 1 then (if m = 0 then .inf s else .nan s) else f.finite w

/-- The value of an FP8 E4M3 pattern: no infinity, and only S.1111.111 is NaN. -/
def decodeFp8 (w : Nat) : FVal := if bits w 0 7 = 0x7F then .nan (bit w 7) else fFp8.finite w

/-- A shift right of a magnitude by `k` bits: toward zero, or to nearest with ties to even. -/
def shiftRound (nearest : Bool) (m k : Nat) : Nat :=
  let q := m / 2 ^ k
  let r := m % 2 ^ k
  if nearest ∧ (2 ^ k < 2 * r ∨ (2 ^ k = 2 * r ∧ q % 2 = 1)) then q + 1 else q

/-- The pattern of a magnitude m * 2^e without its sign, rounded; it may lie above the largest finite pattern. -/
def FFmt.magnitude (f : FFmt) (nearest : Bool) (m : Nat) (e : Int) : Nat :=
  if m = 0 then 0
  else
    let q := max (e + (Nat.log2 m + 1 : Nat) - (f.mb + 1 : Nat)) (1 - (f.bias : Int) - f.mb)
    let r := if q ≤ e then m * 2 ^ (e - q).toNat else shiftRound nearest m (q - e).toNat
    ((q + f.mb + f.bias).toNat) * 2 ^ f.mb + r - 2 ^ f.mb

/-- The pattern of infinity, which a finite result that is too large also takes (R190). -/
def FFmt.infinity (f : FFmt) : Nat := (2 ^ f.eb - 1) * 2 ^ f.mb

def FFmt.signBit (f : FFmt) (neg : Bool) : Nat := b2n neg * 2 ^ (f.eb + f.mb)

/-- The quiet NaN of a sign (R189). -/
def FFmt.quiet (f : FFmt) (neg : Bool) : Nat := f.signBit neg + f.infinity + 2 ^ (f.mb - 1)

/-- A result of FP32 arithmetic or of an exponent change as a pattern; overflow gives infinity (R190). -/
def FFmt.encode (f : FFmt) (nearest : Bool) (v : FVal) : Nat :=
  match v with
  | .nan s => f.quiet s
  | .inf s => f.signBit s + f.infinity
  | .fin s m e => f.signBit s + min f.infinity (f.magnitude nearest m e)

/-- A value narrowed to BF16 or FP32: toward zero, and a finite value stays finite (R191, R193). -/
def FFmt.narrow (f : FFmt) (v : FVal) : Nat :=
  match v with
  | .fin s m e => f.signBit s + min (f.infinity - 1) (f.magnitude false m e)
  | w => f.encode false w

/-! ## FP32 arithmetic (R190) -/

def fp32 (w : Word) : FVal := fFp32.decode w.toNat

def toWord (v : FVal) : Word := BitVec.ofNat 32 (fFp32.encode true v)

/-- The NaN of two operands of which one is NaN, or of an invalid operation (R189, log 3). -/
def nanOf (a b : Word) : Word :=
  match fp32 a, fp32 b with
  | .nan s, .nan t => toWord (.nan (if s = t then s else Config.nanSign a b))
  | .nan s, _ => toWord (.nan s)
  | _, .nan t => toWord (.nan t)
  | _, _ => toWord (.nan (Config.nanSign a b))

/-- The signed magnitude of a finite value at an exponent no larger than its own. -/
def atExp (neg : Bool) (m : Nat) (e q : Int) : Int :=
  let x : Int := m * 2 ^ (e - q).toNat
  if neg then -x else x

/-- An FP32 add, rounded to nearest, ties to even (R190). -/
def fadd (a b : Word) : Word :=
  match fp32 a, fp32 b with
  | .inf s, .inf t => if s = t then a else nanOf a b
  | .inf _, .fin _ _ _ => a
  | .fin _ _ _, .inf _ => b
  | .fin s m e, .fin t n f =>
    let q := min e f
    let x := atExp s m e q + atExp t n f q
    if x = 0 then toWord (.fin (s && t) 0 0) else toWord (.fin (decide (x < 0)) x.natAbs q)
  | _, _ => nanOf a b

/-- Negation changes the sign bit. -/
def fneg (a : Word) : Word := a ^^^ 0x80000000#32

/-- An FP32 subtraction; a NaN keeps its own sign (R189). -/
def fsub (a b : Word) : Word := match fp32 b with | .nan _ => nanOf a b | _ => fadd a (fneg b)

/-- An FP32 multiply (R190). -/
def fmul (a b : Word) : Word :=
  match fp32 a, fp32 b with
  | .inf s, .inf t => toWord (.inf (s != t))
  | .inf s, .fin t n _ => if n = 0 then nanOf a b else toWord (.inf (s != t))
  | .fin s m _, .inf t => if m = 0 then nanOf a b else toWord (.inf (s != t))
  | .fin s m e, .fin t n f => toWord (.fin (s != t) (m * n) (e + f))
  | _, _ => nanOf a b

/-- A value times 2^k. -/
def FVal.scale (v : FVal) (k : Int) : FVal := match v with | .fin s m e => .fin s m (e + k) | w => w

/-- An exponent change: exact, infinity beyond the range, toward zero where the result is subnormal (R190). -/
def fscale (a : Word) (k : Int) : Word := BitVec.ofNat 32 (fFp32.encode false ((fp32 a).scale k))

/-! ## Comparisons of magnitudes -/

/-- m * 2^e ≤ n * 2^f. -/
def leMag (m : Nat) (e : Int) (n : Nat) (f : Int) : Bool :=
  let q := min e f
  decide (m * 2 ^ (e - q).toNat ≤ n * 2 ^ (f - q).toNat)

/-! ## Narrowing (R191 to R194) -/

/-- FP32 or an exact value to BF16, toward zero. -/
def toBf16 (v : FVal) : Nat := fBf16.narrow v

/-- A value to FP8 E4M3, toward zero, saturated at ±448 (R193). -/
def toFp8 (v : FVal) : Nat :=
  match v with
  | .nan s => b2n s * 128 + 0x7F
  | .inf s => b2n s * 128 + 0x7E
  | .fin s m e => b2n s * 128 + min 0x7E (fFp8.magnitude false m e)

/-- A conversion to FP8 E4M3 saturates: the magnitude is above 448, or infinite. -/
def satFp8 (v : FVal) : Bool :=
  match v with | .nan _ => false | .inf _ => true | .fin _ m e => !leMag m e 448 0

/-- The integer part of a value, toward zero. -/
def truncMag (m : Nat) (e : Int) : Nat := if 0 ≤ e then m * 2 ^ e.toNat else m / 2 ^ (-e).toNat

/-- A value to an integer code of a symmetric range (R194): the code, and whether it saturated. -/
def toIntCode (cmax : Nat) (v : FVal) : Int × Bool :=
  match v with
  | .nan _ => (0, false)
  | .inf s => (if s then -(cmax : Int) else cmax, true)
  | .fin s m e =>
    let x := truncMag m e
    let y := min x cmax
    (if s then -(y : Int) else y, decide (cmax < x))

/-! ## Scale codes (R195, R202) -/

def zeroGroup : BitVec 8 := 0x80

/-- The exponent of a scale code; none for ZERO_GROUP. -/
def scaleExp (b : BitVec 8) : Option Int := if b = zeroGroup then none else some b.toInt

/-- need(m, c): the least exponent from -127 to +127 with m ≤ c * 2^e; +127 when there is none; ZERO_GROUP for zero. -/
def needOf (v : FVal) (c : Nat) : BitVec 8 :=
  match v with
  | .nan _ => zeroGroup
  | .inf _ => 127
  | .fin _ m e =>
    if m = 0 then zeroGroup
    else
      match (List.range 255).find? (fun (i : Nat) => leMag m e c ((i : Int) - 127)) with
      | some i => BitVec.ofInt 8 ((i : Int) - 127)
      | none => 127

/-- The magnitude of a value. -/
def FVal.abs : FVal → FVal
  | .nan _ => .nan false
  | .inf _ => .inf false
  | .fin _ m e => .fin false m e

/-- The larger of two magnitudes; NaN counts as nothing. -/
def maxMag (a b : FVal) : FVal :=
  match a, b with
  | .nan _, y => y.abs
  | x, .nan _ => x.abs
  | .inf _, _ => .inf false
  | _, .inf _ => .inf false
  | .fin _ m e, .fin _ n f => if leMag m e n f then .fin false n f else .fin false m e

/-- The largest magnitude among the values that are not NaN; 0 when there is none. -/
def maxAbs (vs : List FVal) : FVal := vs.foldl maxMag (.fin false 0 0)

/-- The code maximum of a narrow output (R202). -/
def codeMax (code : Nat) : Nat := if code = 2 then 448 else if code = 3 then 127 else 7

/-! ## Expansion before the multiplier (R205 to R207) -/

/-- The element codes of R231. -/
def cdFp8 : Nat := 0
def cdBf16 : Nat := 1
def cdW4 : Nat := 2
def cdA4 : Nat := 3
def cdA8 : Nat := 4

/-- Bits of an element code. -/
def codeBits (c : Nat) : Nat := if c = 1 then 16 else if c = 2 ∨ c = 3 then 4 else 8

/-- The bytes of a row of `n` elements. -/
def rowBytes (c n : Nat) : Nat := ceilDiv (n * codeBits c) 8

/-- An integer as a value. -/
def intVal (x : Int) : FVal := .fin (decide (x < 0)) x.natAbs 0

/-- The value of an element pattern; W4 0x8 is +0 (R184, R207). -/
def elemVal (c w : Nat) : FVal :=
  if c = cdFp8 then decodeFp8 w
  else if c = cdBf16 then fBf16.decode w
  else if c = cdA8 then intVal (signed 8 w)
  else if c = cdW4 ∧ w = 8 then .fin false 0 0
  else intVal (signed 4 w)

/-- Element `i` of packed bytes (R187). -/
def elemAt (c : Nat) (bs : List Byte) (i : Nat) : Nat :=
  if c = cdBf16 then (bs.getD (2 * i) 0).toNat + 256 * (bs.getD (2 * i + 1) 0).toNat
  else if c = cdW4 ∨ c = cdA4 then
    (let b := (bs.getD (i / 2) 0).toNat; if i % 2 = 0 then b % 16 else b / 16)
  else (bs.getD i 0).toNat

/-- The FMT value of an exact value, as FP32: toward zero and saturated (R205). -/
def toFmt (bf16 : Bool) (v : FVal) : FVal :=
  if bf16 then (match v with | .fin _ _ _ => fBf16.decode (toBf16 v) | w => w) else decodeFp8 (toFp8 v)

/-- Two finite values are equal as numbers. -/
def sameMag (a b : FVal) : Bool :=
  match a, b with
  | .fin _ m e, .fin _ n f => leMag m e n f && leMag n f m e
  | x, y => decide (x = y)

/-- One expanded element, and whether the expansion changed it (R205). -/
def expandElem (bf16 : Bool) (c w : Nat) (k : Int) : Word × Bool :=
  let v := (elemVal c w).scale k
  let r := toFmt bf16 v
  (toWord r, !sameMag v r)

/-! ## Scale tensors (R197 to R200) -/

/-- What reading a scale tensor finds: its codes, and the record that is faulty, with the field's DETAIL. -/
structure ScaleRead where
  codes : List (BitVec 8)
  fault : Option (Nat × Nat)
  order : Bool
deriving DecidableEq, Repr

/-- Read records until `total` codes are found; the fuel bounds the records of COUNT 0. DETAIL 0 stands for a record
outside the buffer tier; `order` for a FIRST_GROUP that is not the next group (R200). DESIGN CHOICE (log 127): a record with
COUNT 0 is skipped whatever its GSIZE holds, and no record behind one with a wrong FIRST_GROUP is checked. -/
def readScales (m : Memory) (gcode total : Nat) : Nat → Nat → List (BitVec 8) → ScaleRead
  | 0, a, acc => { codes := acc, fault := some (0, a), order := false }
  | n + 1, a, acc =>
    if total ≤ acc.length then { codes := acc.take total, fault := none, order := false }
    else if !inBuffer a 64 then { codes := acc, fault := some (0, a), order := false }
    else
      let r := numAt m a 64
      let cnt := bits r 8 8
      if cnt = 0 then readScales m gcode total n (a + 64) acc
      else if bits r 0 2 ≠ gcode then { codes := acc, fault := some (0xA1, a), order := false }
      else if 48 < cnt then { codes := acc, fault := some (0xA2, a), order := false }
      else if bits r 32 32 ≠ acc.length then { codes := acc, fault := none, order := true }
      else readScales m gcode total n (a + 64) (acc ++ (List.range cnt).map (fun i => fld r (128 + 8 * i) 8))

/-- The scale tensor at an address. -/
def scalesAt (m : Memory) (a gcode total : Nat) : ScaleRead := readScales m gcode total (bufferSize / 64 + 2) a []

/-- The group size of a GSIZE field of R231 and R244: 1, 2, 3 for 32, 64, 128. -/
def groupSize (g : Nat) : Nat := 16 * 2 ^ g

end Sys2Proof.Machine
end

