-- ==== Sys2Proof/Machine/Matrix.lean ====
section
/-!
DEFINITION. The matrix engine (R155 to R157, R221 to R236) and the expanders (R252 to R274): the check of a matrix task
descriptor at issue, the start of a queued task with its results, its end, compressed weight objects, and the decode
tables. Operands are read and results computed when the task starts, those of an expander task pass by pass (log 20).
-/
namespace Sys2Proof.Machine

/-! ## The descriptor (R231) -/

def matDesc (v : Nat) : MatDesc :=
  { sync := fld v 0 14, syncV := bit v 14, store := bit v 15, outFmt := bits v 16 2, aCode := bits v 18 3,
    bCode := bits v 21 3, aG := bits v 24 2, bG := bits v 26 2, m := bits v 32 16, n := bits v 48 16, k := bits v 64 16,
    opTag := fld v 80 16, aAddr := bits v 96 48, bAddr := bits v 144 48, aScale := bits v 192 48, bScale := bits v 240 48,
    out := bits v 288 48, aStride := bits v 336 16, bStride := bits v 352 16, oStride := bits v 368 16 }

/-- The output blocks of a task (R224). -/
def MatDesc.blocks (d : MatDesc) : Nat := ceilDiv d.m 64 * ceilDiv d.n 64

/-- The element size of OUT_FMT. -/
def MatDesc.outSize (d : MatDesc) : Nat := if d.outFmt = 0 then 4 else if d.outFmt = 1 then 2 else 1

/-- The opcodes that take B through the expander. -/
def MatOp.isX (o : MatOp) : Bool := decide (o = .matmulX) || decide (o = .matmulXAcc)

/-- The MATMUL family of R156, R228: MATMUL, MATMUL_ACC and their expander forms. -/
def MatOp.family (o : MatOp) : Bool := o.isX || decide (o = .matmul) || decide (o = .matmulAcc)

/-- The opcodes that read operands A and B. -/
def MatOp.reads (o : MatOp) : Bool := o.family || decide (o = .outerAcc)

/-- The opcodes that clear the accumulators first (R156). -/
def MatOp.clears (o : MatOp) : Bool := decide (o = .matmul) || decide (o = .matmulX)

/-- A task folds a store (R228). -/
def folds (o : MatOp) (d : MatDesc) : Bool := o.family && d.store

/-- A task writes its blocks to memory. -/
def writesOut (o : MatOp) (d : MatDesc) : Bool := folds o d || decide (o = .accStore)

/-- Rows and row length of operand A (`b` false) or B (R232, R233). -/
def shape (o : MatOp) (d : MatDesc) (b : Bool) : Nat × Nat :=
  if o = .outerAcc then (d.k, if b then d.n else d.m) else (if b then d.n else d.m, d.k)

/-- The bytes that rows on a stride span. -/
def spanBytes (rows stride row : Nat) : Nat := (rows - 1) * stride + row

/-! ## The check at issue (R235) -/

/-- The code of an operand is refused, or does not go with FMT (R206, R231). -/
def codeBad (bf16 : Bool) (c : Nat) : Bool := decide (4 < c) || (!bf16 && (decide (c = cdA8) || decide (c = cdBf16)))

/-- The bytes of an operand that a task reads; none of an empty one, nor of one that its opcode does not read. -/
def operandBytes (o : MatOp) (d : MatDesc) (b : Bool) : Nat :=
  let (rows, len) := shape o d b
  if !o.reads ∨ rows = 0 ∨ len = 0 then 0
  else spanBytes rows (64 * (if b then d.bStride else d.aStride)) (rowBytes (if b then d.bCode else d.aCode) len)

/-- An operand's address is outside its tier or off its boundary, whether or not the task reads a byte there (R235). -/
def operandBad (o : MatOp) (d : MatDesc) (b : Bool) : Bool :=
  !operandOk (if b then d.bAddr else d.aAddr) (operandBytes o d b)

/-- The bytes of the output that a task writes, or that ACC_LOAD reads. -/
def outBytesOf (o : MatOp) (d : MatDesc) : Nat :=
  if (writesOut o d || decide (o = .accLoad)) && decide (d.m ≠ 0) && decide (d.n ≠ 0) then
    spanBytes d.m (64 * d.oStride) (d.n * d.outSize)
  else 0

/-- A stride is smaller than a row of two or more (R235). -/
def strideBad (o : MatOp) (d : MatDesc) (b : Bool) : Bool :=
  let (rows, len) := shape o d b
  decide (2 ≤ rows) && decide (64 * (if b then d.bStride else d.aStride) < rowBytes (if b then d.bCode else d.aCode) len)

/-- The groups of an operand's scale tensor (R197, R233). -/
def scaleTotal (o : MatOp) (d : MatDesc) (b : Bool) : Nat :=
  let (rows, len) := shape o d b
  rows * ceilDiv len (groupSize (if b then d.bG else d.aG))

/-- The scale tensor of an operand, as it stands now. -/
def operandScales (m : Memory) (o : MatOp) (d : MatDesc) (b : Bool) : ScaleRead :=
  scalesAt m (if b then d.bScale else d.aScale) ((if b then d.bG else d.aG) - 1) (scaleTotal o d b)

/-- An operand has a scale tensor that is read. -/
def hasScales (o : MatOp) (d : MatDesc) (b : Bool) : Bool :=
  decide ((if b then d.bG else d.aG) ≠ 0) && decide (scaleTotal o d b ≠ 0)

/-- The scale tensor lies outside the buffer tier or off its boundary; its address is ignored without scales alone. -/
def scaleAddrBad (m : Memory) (o : MatOp) (d : MatDesc) (b : Bool) : Bool :=
  decide ((if b then d.bG else d.aG) ≠ 0) && (!operandOk (if b then d.bScale else d.aScale) 1 ||
    o.reads && hasScales o d b && (match (operandScales m o d b).fault with | some f => decide (f.1 = 0) | none => false))

/-- A faulty scale record that is readable at issue (R199), for a descriptor at address `da`. A GSIZE that differs from the
descriptor's involves that field too, whose number is the lower one (R599). -/
def scaleRecBad (m : Memory) (o : MatOp) (d : MatDesc) (b : Bool) (da : Nat) : Option DescFault :=
  if o.reads ∧ hasScales o d b ∧ !scaleAddrBad m o d b then
    match (operandScales m o d b).fault with
    | some (f, a) => some (if f = 0xA1 ∧ bits (numAt m a 1) 0 2 ≠ 3 then rangeAt (if b then 0x68 else 0x67) da else rangeAt f a)
    | none => none
  else none

/-- Of the faults found, the one whose field has the lowest number (R599). -/
def lowestFault : List (Option DescFault) → Option DescFault
  | [] => none
  | none :: t => lowestFault t
  | some f :: t => match lowestFault t with | some g => some (if g.detail < f.detail then g else f) | none => some f

/-- The first field of the descriptor that fails, in ascending field number (R599): a stride is too small for a row whose
length the element code and format set, so the code or format is named. -/
def matField (mem : Memory) (o : MatOp) (bf16 : Bool) (slices : BitVec 8) (d : MatDesc) (unitAddr : Nat → Bool) :
    Option Nat :=
  let nb := d.blocks
  let sl := popcount 8 slices.toNat
  if o.clears ∧ sl < nb ∧ !d.store then some 0x63
  else if d.outFmt = 3 ∨ (outBytesOf o d ≠ 0 ∧ 2 ≤ d.m ∧ 64 * d.oStride < d.n * d.outSize) then some 0x64
  else if codeBad (bf16 || !o.reads) d.aCode ∨ (o.reads ∧ strideBad o d false) then some 0x65
  else if codeBad (bf16 || !o.reads) d.bCode ∨ (o.reads ∧ !o.isX ∧ strideBad o d true) then some 0x66
  else if !o.clears ∧ sl < nb then some 0x69
  else if operandBad o d false then some 0x6D
  else if o.isX ∧ (d.bAddr % 64 ≠ 0 ∨ !unitAddr d.bAddr) then some 0x6E
  else if !o.isX ∧ operandBad o d true then some 0x6E
  else if scaleAddrBad mem o d false then some 0x6F
  else if scaleAddrBad mem o d true then some 0x70
  else if !operandOk d.out (outBytesOf o d) then some 0x71
  else none

/-- The whole check of a descriptor at address `a` (R235). -/
def checkMatrix (s : State) (o : MatOp) (bf16 : Bool) (slices : BitVec 8) (d : MatDesc) (a : Nat) : Option DescFault :=
  lowestFault [(matField s.mem o bf16 slices d s.unitAddr).map (fun f => rangeAt f a), scaleRecBad s.mem o d false a,
    scaleRecBad s.mem o d true a]

/-! ## Issue (R155 to R157, R160) -/

/-- A task's slot fault: the record now, then the descriptor's object in the cycle after it (R154, R160). -/
def taskFault (c : SlotCtx) (sync : Option (BitVec 14)) (opTag : BitVec 16) (f : DescFault) (s : State) : State :=
  let t := s.raiseExc { s.slotRec c f.cause f.detail with opTag := opTag, addr := f.addr }
  match sync with
  | some y => t.schedule (s.clk.cycle + 2) (.signal y 1)
  | none => t

/-- The matrix slot of a context: 0 for slot 7, 1 for slot 8 (R173). -/
def matSlot (c : SlotCtx) : Nat := if c.slot = 8 then 1 else 0

def noMat : Nat → List MatTask := fun _ => []

/-- The slices that a mask names. -/
def sliceList (m : BitVec 8) : List Nat := (List.range 8).filter (fun i => m.getLsbD i)

/-- A matrix task joins its slot's queue; one with no output block names no slice (R236), and one through the expander
adds 1 to TABLE_PENDING (R264). -/
def queueMatrix (c : SlotCtx) (o : MatOp) (bf16 : Bool) (slices : BitVec 8) (d : MatDesc) (s : State) : State :=
  let k := matSlot c
  let x : MatTask :=
    { id := s.nextId, slot := k, ctx := c, job := s.jobOf c, op := o, bf16 := bf16,
      slices := if d.blocks = 0 then 0 else slices, d := d, issued := s.clk.cycle, header := .unread,
      hdr := none, hdrAt := 0, got := [], extra := 0, pass := 0, expand := 0, fetch := 0, store := 0, start := 0, fin := 0,
      writes := [], failed := false, hold := none }
  (s.modEng (fun e => { e with
    mq := tmod noMat e.mq k (fun q => q ++ [x])
    tablePending := if o.isX then e.tablePending + 1 else e.tablePending })).takeId

/-- A matrix slot: the descriptor is read and checked whole at issue (R235). -/
def opMatrix (o : MatOp) (c : SlotCtx) (fmt : Bool) (slices : BitVec 8) (desc : BitVec 20) (pre s : State) : State :=
  let a := 128 * desc.toNat
  if pre.gated blkBuffer then taskFault c none 0 { cause := causeBus, detail := 0, addr := 0 } s
  else if !inBuffer a 128 then taskFault c none 0 { cause := causeDesc, detail := 0, addr := a } s
  else
    let d := matDesc (numAt pre.mem a 128)
    let y := if d.syncV then some d.sync else none
    if o.isX ∧ pre.gated blkExpanders then taskFault c y d.opTag { cause := causeBus, detail := 0, addr := 0 } s
    else if slices = 0 ∨ (sliceList slices).any (fun i => !s.unitUsable .slice i) then
      taskFault c y d.opTag (rangeAt 0x103 0) s
    else
      match checkMatrix pre o fmt slices d a with
      | some f => taskFault c y d.opTag f s
      | none => queueMatrix c o fmt slices d s

/-- The queue of a matrix slot is full (R157). -/
def matrixFull (k : Nat) (s : State) : Bool := decide (4 ≤ (tget noMat s.eng.mq k).length)

/-- A matrix slot command: with its queue full the bundle stalls (R157). -/
def matrixCmd (o : MatOp) (c : SlotCtx) (fmt : Bool) (slices : BitVec 8) (desc : BitVec 20) (s : State) : Result :=
  if matrixFull (matSlot c) s then .next (beginStall s) else slotCmd (opMatrix o c fmt slices desc) s

def execMatmul (c : SlotCtx) (fmt : Bool) (slices : BitVec 8) (desc : BitVec 20) (s : State) : Result :=
  matrixCmd .matmul c fmt slices desc s
def execMatmulAcc (c : SlotCtx) (fmt : Bool) (slices : BitVec 8) (desc : BitVec 20) (s : State) : Result :=
  matrixCmd .matmulAcc c fmt slices desc s
def execMatmulX (c : SlotCtx) (fmt : Bool) (slices : BitVec 8) (desc : BitVec 20) (s : State) : Result :=
  matrixCmd .matmulX c fmt slices desc s
def execMatmulXAcc (c : SlotCtx) (fmt : Bool) (slices : BitVec 8) (desc : BitVec 20) (s : State) : Result :=
  matrixCmd .matmulXAcc c fmt slices desc s
def execAccStore (c : SlotCtx) (fmt : Bool) (slices : BitVec 8) (desc : BitVec 20) (s : State) : Result :=
  matrixCmd .accStore c fmt slices desc s
def execAccLoad (c : SlotCtx) (fmt : Bool) (slices : BitVec 8) (desc : BitVec 20) (s : State) : Result :=
  matrixCmd .accLoad c fmt slices desc s
def execOuterAcc (c : SlotCtx) (fmt : Bool) (slices : BitVec 8) (desc : BitVec 20) (s : State) : Result :=
  matrixCmd .outerAcc c fmt slices desc s

/-! ## Operands at the ports (R196 to R207, R225) -/

/-- An operand as a port expands it: the pattern of element `i` of row `r` (none for an element taken as +0), its code,
and its scales. -/
structure Operand where
  pat    : Nat → Nat → Option Nat
  code   : Nat
  g      : Nat
  per    : Nat
  scaled : Bool
  codes  : List (BitVec 8)

/-- One expanded element: no value for a ZERO_GROUP, whose multiplies are not issued (R196); whether it clipped (R205),
and whether it was W4 0x8 (R207). -/
structure Elem where
  val  : Option Word
  clip : Bool
  bad  : Bool
deriving DecidableEq, Repr

def zeroElem : Elem := { val := some 0, clip := false, bad := false }

/-- A pattern under an exponent. -/
def expandOne (bf16 : Bool) (code : Nat) (p : Option Nat) (k : Int) : Elem :=
  match p with
  | none => zeroElem
  | some w =>
    if code = cdW4 ∧ w = 8 then { val := some 0, clip := false, bad := true }
    else
      let (v, cl) := expandElem bf16 code w k
      { val := some v, clip := cl, bad := false }

/-- Element `i` of row `r`. Past a fault of the scale tensor every element is +0 (R200). -/
def Operand.elem (o : Operand) (bf16 : Bool) (r i : Nat) : Elem :=
  if !o.scaled then expandOne bf16 o.code (o.pat r i) 0
  else
    match o.codes[r * o.per + i / o.g]? with
    | none => zeroElem
    | some b =>
      match scaleExp b with
      | none => { val := none, clip := false, bad := false }
      | some k => expandOne bf16 o.code (o.pat r i) k

/-- The patterns of an operand in the buffer tier (R187). -/
def bufferPat (m : Memory) (addr stride code len : Nat) (r i : Nat) : Option Nat :=
  if len ≤ i then none
  else some (elemAt code (Memory.gets m (addr + r * stride) (rowBytes code len)) i)

/-- Operand A or B of a task; `pat` gives the patterns. -/
def mkOperand (m : Memory) (o : MatOp) (d : MatDesc) (b : Bool) (pat : Nat → Nat → Option Nat) : Operand :=
  let gs := if b then d.bG else d.aG
  { pat := pat, code := if b then d.bCode else d.aCode, g := groupSize gs,
    per := ceilDiv (shape o d b).2 (groupSize gs), scaled := decide (gs ≠ 0),
    codes := if gs = 0 then [] else (operandScales m o d b).codes }

/-- The elements of an operand. -/
def Operand.all (o : Operand) (bf16 : Bool) (rows len : Nat) : List Elem :=
  (List.range rows).flatMap (fun r => (List.range len).map (fun i => o.elem bf16 r i))

/-- A scale tensor that breaks off (R200). -/
def scaleBroken (m : Memory) (o : MatOp) (d : MatDesc) (b : Bool) : Bool :=
  hasScales o d b && (let r := operandScales m o d b; r.order || r.fault.isSome)

/-! ## The compressed weight object (R252 to R260) -/

/-- The header's fields (R252). -/
structure ObjHdr where
  version : Nat
  code    : Nat
  allRaw  : Bool
  count   : Nat
  n       : Nat
  k       : Nat
  listed  : List (Nat × Nat)
  checkOk : Bool
deriving DecidableEq, Repr

/-- A record without the 4 bytes of its CHECK at `at4`. -/
def zeroCheck (bs : List Byte) (at4 : Nat) : List Byte := bs.take at4 ++ List.replicate 4 0 ++ bs.drop (at4 + 4)

/-- The header of 64 bytes. -/
def objHdr (bs : List Byte) : ObjHdr :=
  let v := leNat bs
  let cnt := bits v 12 4
  { version := bits v 0 8, code := bits v 8 3, allRaw := bit v 11, count := cnt, n := bits v 32 16, k := bits v 48 16,
    listed := (List.range cnt).map (fun i => (bits v (64 + 16 * i) 6, bits v (70 + 16 * i) 8)),
    checkOk := decide ((crc32 (zeroCheck bs 24)).toNat = bits v 192 32) }

/-- Guarded region `i`: its base and size (R272). -/
def State.guard (s : State) (i : Nat) : Nat × Nat := (s.ent? 0x4300 (16 + i), s.ent? 0x4300 (20 + i))

/-- Some of `n` bytes lie in a guarded region (R265, R266). -/
def State.guarded (s : State) (a n : Nat) : Bool :=
  (List.range 4).any (fun i => let g := s.guard i; decide (g.2 ≠ 0) && decide (a < g.1 + g.2) && decide (g.1 < a + n))

/-- Some of the bytes that an expander reads lie in a guarded region, by their home. -/
def State.unitGuarded (s : State) (a n : Nat) : Bool :=
  if objectWindow ≤ a then (List.range n).any (fun i => match s.translate (a + i) with | some p => s.guarded p 1 | none => false)
  else s.guarded a n

def State.table (s : State) (k : Nat) : Option DecodeTable := tget noTable s.eng.tables k

/-- A table slot holds the version listed. -/
def State.holdsTable (s : State) (p : Nat × Nat) : Bool :=
  match s.table p.1 with | some t => decide (t.tver.toNat = p.2) | none => false

/-- The header passes the checks of R265; `guarded` is what was found when it was read (R273). -/
def State.headerOk (s : State) (d : MatDesc) (h : ObjHdr) (guarded : Bool) : Bool :=
  decide (h.version = 1) && decide (h.code ≤ 4) && decide (h.count ≤ 8) && h.checkOk && decide (h.code = d.bCode)
    && decide (h.k = d.k) && decide (d.bStride + ceilDiv d.n 64 ≤ ceilDiv h.n 64)
    && h.listed.all (fun p => s.holdsTable p) && !(guarded && !h.allRaw)

/-- Change REFS of one table slot. -/
def refTable (f : Nat → Nat) (t : Table (Option DecodeTable)) (k : Nat) : Table (Option DecodeTable) :=
  match tget noTable t k with
  | some x => tset noTable t k (some { x with refs := f x.refs })
  | none => t

/-- Change REFS of some table slots of the store. -/
def State.addRefs (s : State) (slots : List Nat) (f : Nat → Nat) : State :=
  s.modEng (fun e => { e with tables := slots.foldl (refTable f) e.tables })

/-- The header of a task in its fetch buffer is read (R264, R265): what it finds, under the guard entries of now (R273). A header
whose bytes cannot be read fails its checks. -/
def readHeader (x : MatTask) (f : FetchedHdr) (s : State) : MatTask × State :=
  let t := s.modEng (fun e => { e with tablePending := e.tablePending - 1 })
  let y := { x with hdrAt := s.clk.cycle }
  match f.data.map objHdr with
  | none => ({ y with header := .failed, failed := true }, t.count 0x6007 3 clsFailed)
  | some h =>
    if s.headerOk x.d h (s.unitGuarded x.d.bAddr 64) then
      let sl := (h.listed.map (fun p => p.1)).eraseDups
      ({ y with header := .passed sl h.listed }, t.addRefs sl (· + 1))
    else ({ y with header := .failed, failed := true }, t.count 0x6007 3 clsFailed)

/-- An index entry of 8 bytes (R254). -/
def indexEnt (bs : List Byte) : IndexEnt :=
  let v := leNat bs
  { off := bits v 0 34, len := bits v 34 8, mode := bits v 42 2, slot := bits v 44 6, ver := bits v 50 8 }

/-- The decoded block size of a code (R255). -/
def blockBytes (code : Nat) : Nat := 4096 * codeBits code / 8

/-! ### Canonical prefix codes (R258, R259) -/

/-- The symbols in codeword order: ascending length, then ascending symbol. -/
def codeOrder (ls : List Nat) : List (Nat × Nat) :=
  (List.range 15).flatMap (fun l => (List.range 256).filterMap (fun y =>
    if ls.getD y 0 = l + 1 then some (y, l + 1) else none))

/-- The codewords: symbol, length, codeword. -/
def codewords : List (Nat × Nat) → Nat → Nat → List (Nat × Nat × Nat)
  | [], _, _ => []
  | (y, l) :: t, next, last => let w := next * 2 ^ (l - last); (y, l, w) :: codewords t (w + 1) l

/-- The codewords of a table. -/
def codesOf (ls : List Nat) : List (Nat × Nat × Nat) :=
  match codeOrder ls with
  | [] => []
  | (y, l) :: t => codewords ((y, l) :: t) 0 l

/-- The lengths form a complete code, or the code of one symbol of length 1 (R258). -/
def lengthsOk (ls : List Nat) : Bool :=
  let o := codeOrder ls
  decide (o.foldl (fun n p => n + 2 ^ (15 - p.2)) 0 = 2 ^ 15) || (decide (o.length = 1) && o.all (fun p => decide (p.2 = 1)))

/-- The bits of bytes, each byte from bit 0 upward (R259). -/
def bitsOf (bs : List Byte) : List Bool := bs.flatMap (fun b => (List.range 8).map (fun i => b.getLsbD i))

/-- Decode `n` symbols from bits: the codeword so far and its length. None when the bits run out. -/
def decodeBits (cw : List (Nat × Nat × Nat)) : List Bool → Nat → Nat → Nat → Option (List Byte)
  | _, _, _, 0 => some []
  | [], _, _, _ + 1 => none
  | b :: t, w, l, n + 1 =>
    let w1 := 2 * w + b2n b
    match cw.find? (fun p => p.2.1 == l + 1 && p.2.2 == w1) with
    | some p => (decodeBits cw t 0 0 n).map (fun r => BitVec.ofNat 8 p.1 :: r)
    | none => decodeBits cw t w1 (l + 1) (n + 1)

/-- The decoded bytes of a block, or none when it is unusable (R256, R266). -/
def State.decodeBlock (s : State) (d : MatDesc) (listed : List (Nat × Nat)) (f : Fetched) : Option (List Byte) :=
  let db := blockBytes d.bCode
  match f.ent with
  | none => none
  | some e =>
    if e.mode = 2 then some (List.replicate db 0)
    else if e.mode = 1 then (if 64 * e.len = db then f.data else none)
    else if e.mode = 0 then
      if e.len = 0 ∨ 128 < e.len ∨ !listed.contains (e.slot, e.ver) ∨ f.guarded then none
      else
        match s.table e.slot, f.data with
        | some t, some bs => decodeBits (codesOf t.lengths) (bitsOf bs) 0 0 db
        | _, _ => none
    else none

/-- The time of a lane on one block (R268); a refused MODE has none. -/
def laneTime (d : MatDesc) (f : Fetched) : Nat :=
  let db := blockBytes d.bCode
  match f.ent with
  | some e => if e.mode = 0 then max (2 * e.len) (db / 64) else if e.mode = 1 then db / 32 else if e.mode = 2 then db / 64 else 0
  | none => 0

/-- The factor f of R167. -/
def MatTask.f (x : MatTask) : Nat := if x.bf16 then 2 else 1

def MatTask.lanes (x : MatTask) : Nat := (sliceList x.slices).length

/-- The passes of a task (R224). -/
def MatTask.passes (x : MatTask) : Nat := if x.lanes = 0 then 0 else ceilDiv x.d.blocks x.lanes

/-- The column blocks of a pass (R224, R267). -/
def MatTask.passCols (x : MatTask) (p : Nat) : List Nat :=
  let cb := ceilDiv x.d.n 64
  ((List.range x.lanes).filterMap (fun i =>
    let b := p * x.lanes + i
    if b < x.d.blocks then some (b % cb) else none)).eraseDups

/-! ### The fetch buffer and the time of a task (R226, R229, R268 to R271) -/

/-- A task takes weights through its expander: none once its header has failed (R265). -/
def MatTask.weights (x : MatTask) : Bool := x.op.isX && decide (x.header ≠ .failed)

/-- The reduction chunks of a task. -/
def MatTask.chunks (x : MatTask) : Nat := ceilDiv x.d.k 64

/-- The blocks that the expander decodes, in the order of R268: pass, chunk, column block. -/
def MatTask.plan (x : MatTask) : List (Nat × Nat × Nat) :=
  if x.weights then
    (List.range x.passes).flatMap (fun p => (List.range x.chunks).flatMap (fun j => (x.passCols p).map (fun c => (p, j, c))))
  else []

/-- How far a task has run: the cycle reached, the blocks used by then and those used by a given cycle, the passes whole
and the cycle of each one's last step, the growth of R269, R270 and R229, and whether it waits for bytes. -/
structure Walk where
  clock  : Nat
  blocks : Nat
  gone   : Nat
  ends   : List Nat
  expand : Nat
  fetch  : Nat
  store  : Nat
  stuck  : Bool
deriving DecidableEq, Repr

/-- One chunk of a pass: it begins when its blocks have come, and takes 64 × f cycles and its growth (R269, R270). `lim` is
the cycle for `gone`. -/
def walkChunk (x : MatTask) (n lim : Nat) (w : Walk) (j : Nat) : Walk :=
  if w.stuck then w
  else if x.got.length < w.blocks + n then { w with stuck := true }
  else
    let g := (x.got.drop w.blocks).take n
    let begin := g.foldl (fun m f => max m f.came) w.clock
    let grow := g.foldl (fun m f => max m (laneTime x.d f - 64 * x.f)) 0
    let fin := begin + min 64 (x.d.k - 64 * j) * x.f + grow
    { w with clock := fin, blocks := w.blocks + n, gone := if fin ≤ lim then w.blocks + n else w.gone,
             expand := w.expand + grow, fetch := w.fetch + (begin - w.clock) }

/-- One pass: its chunks, then the wait of its slices for their store buffers, which drain 1,024 bytes per cycle (R228,
R229). -/
def walkPass (x : MatTask) (lim : Nat) (w : Walk) (p : Nat) : Walk :=
  let n := if x.weights then (x.passCols p).length else 0
  let u := (List.range x.chunks).foldl (walkChunk x n lim) w
  if u.stuck then u
  else
    let fin := match w.ends.getLast? with
      | some e => if folds x.op x.d then max u.clock (e + 4 * x.d.outSize) else u.clock
      | none => u.clock
    { u with clock := fin, ends := u.ends ++ [fin], store := u.store + (fin - u.clock) }

/-- The course of a started task, as far as the bytes it has allow. -/
def MatTask.walk (x : MatTask) (lim : Nat) : Walk :=
  let c := x.start + 12 + x.extra
  let b := if x.op.isX ∧ x.passes ≠ 0 then max c x.hdrAt else c
  (List.range x.passes).foldl (walkPass x lim)
    { clock := b, blocks := 0, gone := 0, ends := [], expand := 0, fetch := b - c, store := 0,
      stuck := x.op.isX && decide (x.header = .unread) && decide (x.passes ≠ 0) }

/-- Decoded blocks of some passes as (chunk, column block, bytes), and the patterns of B that they give (R255). -/
def State.decoded (s : State) (x : MatTask) (ps : Nat → Bool) : List (Nat × Nat × Option (List Byte)) :=
  match x.header with
  | .passed _ listed =>
    ((x.plan.zip x.got).filter (fun b => ps b.1.1)).map (fun b => (b.1.2.1, b.1.2.2, s.decodeBlock x.d listed b.2))
  | _ => []

def decodedPat (d : MatDesc) (dec : List (Nat × Nat × Option (List Byte))) (r i : Nat) : Option Nat :=
  match dec.find? (fun b => b.1 == i / 64 && b.2.1 == r / 64) with
  | some (_, _, some bs) => some (elemAt d.bCode bs (64 * (i % 64) + r % 64))
  | _ => none

/-! ## Results (R221 to R236) -/

/-- One accumulator: its products in ascending order of the reduction (R223). -/
def dotCell (a b : Operand) (outer bf16 : Bool) (k r c : Nat) (init : Word) : Word :=
  (List.range k).foldl (fun v i =>
    let x := if outer then a.elem bf16 i r else a.elem bf16 r i
    let y := if outer then b.elem bf16 i c else b.elem bf16 c i
    match x.val, y.val with
    | some p, some q => fadd v (fmul p q)
    | _, _ => v) init

/-- Key of the accumulator of a slice. -/
def accKey (slice i j : Nat) : Nat := slice * 4096 + i * 64 + j

/-- The rows and columns of block `b` that the output holds: cell row and column, output row and column. -/
def MatDesc.cells (d : MatDesc) (b : Nat) : List (Nat × Nat × Nat × Nat) :=
  let cb := ceilDiv d.n 64
  let r0 := b / cb * 64
  let c0 := b % cb * 64
  (List.range (min 64 (d.m - r0))).flatMap (fun i => (List.range (min 64 (d.n - c0))).map (fun j => (i, j, r0 + i, c0 + j)))

/-- The bytes of a value in OUT_FMT; a NaN is quiet (R189, R191, R193, R232). -/
def outBytes (fmt : Nat) (v : FVal) : List Byte :=
  if fmt = 0 then leBytes 4 (fFp32.narrow v) else if fmt = 1 then leBytes 2 (toBf16 v) else leBytes 1 (toFp8 v)

/-- The address of an output element. -/
def MatDesc.outAddr (d : MatDesc) (r c : Nat) : Nat := d.out + r * (64 * d.oStride) + c * d.outSize

/-- The writes of a block from its slice's accumulators (R224, R228). -/
def blockWrites (acc : Table Word) (d : MatDesc) (slice b : Nat) : List (Nat × List Byte) :=
  (d.cells b).map (fun p => (d.outAddr p.2.2.1 p.2.2.2, outBytes d.outFmt (fp32 (tget noWord acc (accKey slice p.1 p.2.1)))))

/-- The value of an output element in memory, exact in FP32 (R234). -/
def loadWord (m : Memory) (d : MatDesc) (r c : Nat) : Word :=
  let v := numAt m (d.outAddr r c) d.outSize
  if d.outFmt = 0 then BitVec.ofNat 32 v else if d.outFmt = 1 then BitVec.ofNat 32 (v * 65536) else toWord (decodeFp8 v)

/-- The slice of block `b` (R224). -/
def MatTask.sliceOf (x : MatTask) (b : Nat) : Nat := (sliceList x.slices).getD (b % max 1 x.lanes) 0

/-- One output block: the accumulators after it. -/
def computeBlock (x : MatTask) (a b : Operand) (acc : Table Word) (blk : Nat) : Table Word :=
  let sl := x.sliceOf blk
  let acc0 := if x.op.clears then clearSlice sl acc else acc
  (x.d.cells blk).foldl (fun t p =>
    let key := accKey sl p.1 p.2.1
    tset noWord t key (dotCell a b (decide (x.op = .outerAcc)) x.bf16 x.d.k p.2.2.1 p.2.2.2 (tget noWord acc0 key))) acc0

/-- Every block in pass order: the accumulators, and each block's writes. -/
def computeBlocks (x : MatTask) (a b : Operand) : List Nat → Table Word → List (Nat × List (Nat × List Byte)) →
    Table Word × List (Nat × List (Nat × List Byte))
  | [], acc, ws => (acc, ws)
  | k :: t, acc, ws =>
    let acc1 := computeBlock x a b acc k
    computeBlocks x a b t acc1 (ws ++ (if folds x.op x.d then [(k, blockWrites acc1 x.d (x.sliceOf k) k)] else []))

/-- ACC_LOAD: the accumulators of the output's cells are read (R234); the others keep their values. -/
def loadBlocks (m : Memory) (x : MatTask) (acc : Table Word) : Table Word :=
  (List.range x.d.blocks).foldl (fun t b => (x.d.cells b).foldl (fun u p =>
    tset noWord u (accKey (x.sliceOf b) p.1 p.2.1) (loadWord m x.d p.2.2.1 p.2.2.2)) t) acc

/-- The operands of a task; B's decoded blocks are given. -/
def MatTask.operands (x : MatTask) (dec : List (Nat × Nat × Option (List Byte))) (m : Memory) : Operand × Operand :=
  let sa := shape x.op x.d false
  let sb := shape x.op x.d true
  (mkOperand m x.op x.d false (bufferPat m x.d.aAddr (64 * x.d.aStride) x.d.aCode sa.2),
   mkOperand m x.op x.d true
     (if x.op.isX then decodedPat x.d dec else bufferPat m x.d.bAddr (64 * x.d.bStride) x.d.bCode sb.2))

/-- What a task that reads operands finds wrong, counted once: expansion clips, W4 0x8, scale faults, unusable blocks
(R200, R205, R207, R266). -/
def noteOperands (x : MatTask) (s : State) : MatTask × State :=
  let sa := shape x.op x.d false
  let sb := shape x.op x.d true
  let dec := s.decoded x (fun _ => true)
  let (a, b) := x.operands dec s.mem
  let es := a.all x.bf16 sa.1 sa.2 ++ b.all x.bf16 sb.1 sb.2
  let clips := (es.filter (fun e => e.clip)).length
  let bad := (es.filter (fun e => e.bad)).length
  let broken := scaleBroken s.mem x.op x.d false || scaleBroken s.mem x.op x.d true
  let unusable := ((dec.filter (fun b => b.2.2.isNone)).map (fun b => (b.1, b.2.1))).eraseDups.length
  let t := (s.countElems 0x6005 1 clips clsNone).countElems 0x6005 2 bad clsFailed
  let t := if broken then t.count 0x6005 8 clsFailed else t
  let t := (t.addCnt 0x6007 4 unusable).addCnt 0x6001 clsFailed unusable
  ({ x with failed := x.failed || decide (bad ≠ 0) || broken || decide (unusable ≠ 0) }, t)

/-- The results of pass `p`, whose last step ends in cycle `fin`: the blocks of an earlier pass of a folded store are
written as they end, those of the last at the task's end (R224, R228). -/
def computePass (x : MatTask) (p fin : Nat) (s : State) : MatTask × State :=
  let (a, b) := x.operands (s.decoded x (fun q => q == p)) s.mem
  let acc0 := if x.op.clears ∧ p = 0 then (sliceList x.slices).foldl (fun t i => clearSlice i t) s.eng.acc else s.eng.acc
  let r := computeBlocks x a b ((List.range x.d.blocks).filter (fun k => decide (k / max 1 x.lanes = p))) acc0 []
  let t := s.modEng (fun e => { e with acc := r.1 })
  let ws := r.2.flatMap (fun w => w.2)
  if p + 1 < x.passes then
    ({ x with pass := p + 1 }, ws.foldl (fun u w => u.schedule (fin + 24) (.store w.1 w.2 none)) t)
  else ({ x with pass := p + 1, writes := ws }, t)

/-- The passes that are whole and whose results are not yet formed. -/
def computePasses : List (Nat × Nat) → MatTask → State → MatTask × State
  | [], x, s => (x, s)
  | (p, fin) :: t, x, s => let r := computePass x p fin s; computePasses t r.1 r.2

/-- Growth of every kind is counted as it arises (R167, R229, R269, R270). Cycles lost to late weights count against the
stream of the bundle's TAG (R300). -/
def countGrowth (x : MatTask) (w : Walk) (s : State) : MatTask × State :=
  let f := w.fetch - x.fetch
  let t := (((s.countCycles 0x6006 2 (w.store - x.store)).countCycles 0x6007 1 (w.expand - x.expand)).countCycles 0x6007 2 f
    ).countCycles 0x6004 4 ((w.store - x.store) + (w.expand - x.expand) + f)
  ({ x with store := w.store, expand := w.expand, fetch := w.fetch },
   if x.ctx.tagv then t.countCycles 0x6008 7 f else t)

/-- A task has run all its steps: its last cycle and the first in which its slices are free are known (R226). -/
def finishSteps (x : MatTask) (fin : Nat) (s : State) : MatTask × State :=
  ({ x with fin := fin }, s.modEng (fun e => { e with
    sliceFree := (sliceList x.slices).foldl (fun t i => tset zeroNat t i (fin + 1)) e.sliceFree }))

/-- A started task goes on as far as the bytes it has allow: the results of its whole passes, their growth, and its end
once that is known. -/
def advanceTask (x : MatTask) (s : State) : MatTask × State :=
  let w := x.walk s.clk.cycle
  let (x1, t1) := countGrowth x w s
  let (x2, t2) := computePasses ((((List.range w.ends.length).zip w.ends).drop x.pass)) x1 t1
  if w.stuck ∨ x.fin ≠ 0 then (x2, t2)
  else
    let (x3, t3) := if x.d.blocks = 0 then (x2, t2) else noteOperands x2 t2
    finishSteps x3 w.clock t3

/-- The duration of ACC_STORE and ACC_LOAD, with their growth (R167, R225, R234). -/
def accDuration (x : MatTask) : Nat := 8 + ceilDiv (x.d.blocks * 4096 * x.d.outSize) 1024 + x.extra

/-- The results of a task that starts. -/
def beginTask (x : MatTask) (s : State) : MatTask × State :=
  match x.op with
  | .accLoad => finishSteps x (x.start + accDuration x) (s.modEng (fun e => { e with acc := loadBlocks s.mem x e.acc }))
  | .accStore =>
    finishSteps { x with writes := (List.range x.d.blocks).flatMap (fun b => blockWrites s.eng.acc x.d (x.sliceOf b) b) }
      (x.start + accDuration x) s
  | _ => advanceTask x s

/-! ## Start and end (R226, R228, R249, R264) -/

/-- Tasks that share a slice. -/
def MatTask.shares (x y : MatTask) : Bool := decide (x.slices &&& y.slices ≠ 0)

/-- An earlier task of either queue that shares a slice has not started (R226). -/
def State.earlierShares (s : State) (x : MatTask) : Bool :=
  (List.range 2).any (fun k => (tget noMat s.eng.mq k).any (fun y => decide (y.id < x.id) && x.shares y))

/-- A task on the slices of `x` has steps to run (R226). -/
def State.slicesBusy (s : State) (x : MatTask) : Bool := s.eng.mrun.any (fun y => x.shares y && decide (y.fin = 0))

/-- The cycle from which the slices of a task are free: the one after the last step of every task on them (R226). -/
def State.slicesFree (s : State) (x : MatTask) : Nat :=
  (sliceList x.slices).foldl (fun m i => max m (tget zeroNat s.eng.sliceFree i)) 0

/-- The cycle in which the last of a task's slices became ON. -/
def State.slicesOn (s : State) (x : MatTask) : Nat :=
  (sliceList x.slices).foldl (fun m i => max m (tget zeroNat s.eng.wokeAt (112 + i))) 0

/-- The wait of a task is counted: for its slices' power, and for its slices (R226, R249). -/
def countWaits (x : MatTask) (start : Nat) (s : State) : State :=
  let base := x.issued + 6
  let wake := min start (s.slicesOn x) - base
  (s.countCycles 0x6006 1 (start - base - wake)).countCycles 0x6006 3 wake

/-- A task reads bytes of the buffer tier: ACC_LOAD its output, the others their operands (R225, R236). -/
def MatTask.readsBuffer (x : MatTask) : Bool :=
  decide (x.d.blocks ≠ 0) && (decide (x.op = .accLoad) || x.op.reads && decide (x.d.k ≠ 0))

/-- The cycles that a task loses to scale records not yet readable (R199) and to banks that other masters hold (R225), when
it reads such operands. -/
def lostCycles (x : MatTask) (scaleWait bankWait : Nat) : Nat × Nat :=
  (if x.readsBuffer ∧ x.op.reads ∧ (hasScales x.op x.d false ∨ hasScales x.op x.d true) then scaleWait else 0,
   if x.readsBuffer then bankWait else 0)

/-- A task starts in cycle `k` (R226). -/
def startMatrix (x : MatTask) (rest : List MatTask) (k scaleWait bankWait : Nat) (s : State) : State :=
  let t := (s.toCycle k).modEng (fun e => { e with mq := tset noMat e.mq x.slot rest })
  let l := lostCycles x scaleWait bankWait
  let t1 := ((countWaits x k t).countCycles 0x6005 3 l.1).countCycles 0x6004 4 (l.1 + l.2)
  let r := beginTask { x with start := k, extra := l.1 + l.2 } t1
  r.2.modEng (fun e => { e with mrun := e.mrun ++ [r.1] })

/-- MATRIX_TASK_START: the front task of a slot, once every slice it names is free and powered (R226, R249). The operands
say how long its scale records and buffer-tier banks make it wait. -/
def execMatrixTaskStart (slot : Fin 2) (scaleWait bankWait : Nat) (s : State) : Result :=
  .next (match tget noMat s.eng.mq slot.val with
    | [] => s
    | x :: rest =>
      if s.earlierShares x ∨ s.slicesBusy x ∨ (sliceList x.slices).any (fun i => decide (s.dom (112 + i) ≠ .on)) then s
      else startMatrix x rest (max (max (x.issued + 6) (s.slicesFree x)) s.clk.cycle) scaleWait bankWait s)

/-- The cycle in which a task's blocks are visible and its signal takes effect (R167, R228). -/
def MatTask.visible (x : MatTask) : Nat := if writesOut x.op x.d then x.fin + 24 else x.fin

/-- A task ends: its blocks are visible, its tables released, a failure reported, and its object signalled (R228, R264,
R569). -/
def endMatrix (x : MatTask) (s : State) : State :=
  let t := (s.toCycle x.visible).modEng (fun e => { e with mrun := e.mrun.filter (fun y => decide (y.id ≠ x.id)) })
  let t1 := x.writes.foldl (fun u w => u.putMem w.1 w.2) t
  let t2 := match x.header with | .passed sl _ => t1.addRefs sl (· - 1) | _ => t1
  let t3 := if x.failed then (t2.opFailed x.ctx x.job x.d.opTag 0).settleHalt else t2
  if x.d.syncV then t3.schedule (t3.clk.cycle + 1) (.signal x.d.sync 1) else t3

/-- MATRIX_TASK_END (R228): a task that still waits for its header or for bytes has not ended (R270, R275). -/
def execMatrixTaskEnd (task : Nat) (s : State) : Result :=
  .next (match s.eng.mrun.find? (fun x => decide (x.id = task)) with
    | some x => if x.hold.isSome ∨ x.fin = 0 ∨ (x.op.isX ∧ x.header = .unread) then s else endMatrix x s
    | none => s)

/-- The tasks of a slot in issue order: those that have started, then the queue. -/
def State.slotTasks (s : State) (slot : Nat) : List MatTask :=
  s.eng.mrun.filter (fun x => decide (x.slot = slot)) ++ tget noMat s.eng.mq slot

/-- Put back tasks of a slot that have changed; the expander tasks that have started go on. -/
def putTasks (slot : Nat) (ts : List MatTask) (s : State) : State :=
  let new := fun (x : MatTask) => (ts.find? (fun y => decide (y.id = x.id))).getD x
  let t := s.modEng (fun e => { e with mq := tmod noMat e.mq slot (fun q => q.map new), mrun := e.mrun.map new })
  (t.eng.mrun.filter (fun x => decide (x.slot = slot) && x.op.isX && decide (x.fin = 0))).foldl (fun u x =>
    let r := advanceTask x u
    r.2.modEng (fun e => { e with mrun := modBy (fun y => decide (y.id = x.id)) (fun _ => r.1) e.mrun })) t

/-! ## Header reads (R264) -/

/-- The oldest task whose header is unread is read, when it is in the fetch buffer. -/
def readNext : List MatTask → State → List MatTask × State
  | [], s => ([], s)
  | x :: t, s =>
    if x.op.isX ∧ x.header = .unread then
      match x.hdr with
      | some f => let (y, u) := readHeader x f s; (y :: t, u)
      | none => (x :: t, s)
    else (let (l, u) := readNext t s; (x :: l, u))

/-- EXPANDER_HEADER_READ: the tasks of the slot in issue order (R264). -/
def execExpanderHeaderRead (slot : Fin 2) (s : State) : Result :=
  let r := readNext (s.slotTasks slot.val) s
  .next (putTasks slot.val r.1 r.2)

/-! ## The fetch buffer (R270, R271, R351) -/

def fetchBytes : Nat := 262144

/-- The bytes that a block takes in the fetch buffer: its index entry and its stored bytes. -/
def Fetched.size (f : Fetched) : Nat := 8 + (match f.data with | some bs => bs.length | none => 0)

/-- The bytes that a task holds in the fetch buffer in a cycle: its header until it is read, and the blocks not used. -/
def MatTask.heldBytes (x : MatTask) (cycle : Nat) : Nat :=
  let gone := if x.start = 0 then 0 else (x.walk cycle).gone
  (if x.hdr.isSome ∧ x.header = .unread then 64 else 0) + (x.got.drop gone).foldl (fun n f => n + f.size) 0

/-- The expander's read of block (c, j): its index entry, then its stored bytes (R253, R256). A ZERO block has none. -/
def State.fetchBlock (s : State) (x : MatTask) (c j : Nat) : Fetched :=
  let ia := x.d.bAddr + 64 + 8 * ((x.d.bStride + c) * x.chunks + j)
  match (s.unitBytes ia 8).map indexEnt with
  | none => { ent := none, data := none, guarded := false, came := s.clk.cycle }
  | some e =>
    let a := x.d.bAddr + 64 * e.off
    let n := 64 * e.len
    { ent := some e, data := if e.mode = 2 then none else s.unitBytes a n, guarded := s.unitGuarded a n,
      came := s.clk.cycle }

/-- The requests of a block's reads reach the tier controllers with the task's TAG (R301, R351). -/
def State.noteBlock (s : State) (x : MatTask) (c j : Nat) (f : Fetched) : State :=
  let t := s.noteUnit (x.d.bAddr + 64 + 8 * ((x.d.bStride + c) * x.chunks + j)) 8 (ctxStream x.ctx)
  match f.ent, f.data with
  | some e, some bs => t.noteUnit (x.d.bAddr + 64 * e.off) bs.length (ctxStream x.ctx)
  | _, _ => t

/-- Some of the bytes that an expander reads have their home in a tier whose accesses are held or paused (R520, R526). -/
def State.unitWaits (s : State) (a n : Nat) : Bool :=
  let waits := fun (p : Nat) => s.inBulk p 1 && (s.bulkHeld || s.bulkPaused) || s.inDeep p 1 && s.media.deepHold
  if objectWindow ≤ a then (List.range n).any (fun i => match s.translate (a + i) with | some p => waits p | none => false)
  else waits a

/-- A read of block (c, j) waits for its tier: that of its index entry, or that of its stored bytes. -/
def State.blockWaits (s : State) (x : MatTask) (c j : Nat) : Bool :=
  let ia := x.d.bAddr + 64 + 8 * ((x.d.bStride + c) * x.chunks + j)
  s.unitWaits ia 8 || (match (s.unitBytes ia 8).map indexEnt with
    | some e => decide (e.mode ≠ 2) && s.unitWaits (x.d.bAddr + 64 * e.off) (64 * e.len)
    | none => false)

/-- The next read of a task for the fetch buffer waits for its tier. -/
def State.fetchWaits (s : State) (x : MatTask) : Bool :=
  if x.hdr.isNone then s.unitWaits x.d.bAddr 64
  else match x.plan.drop x.got.length with | [] => false | (_, j, c) :: _ => s.blockWaits x c j

/-- Fill with the next blocks of a task, in the order of R268, while whole blocks fit and no read waits for its tier: what is
left of the room. -/
def fillBlocks : List (Nat × Nat × Nat) → Nat → MatTask → State → Nat × MatTask × State
  | [], room, x, s => (room, x, s)
  | (_, j, c) :: t, room, x, s =>
    let f := s.fetchBlock x c j
    if room < f.size ∨ s.blockWaits x c j then (0, x, s)
    else fillBlocks t (room - f.size) { x with got := x.got ++ [f] } (s.noteBlock x c j f)

/-- Fill with a task's header and blocks. -/
def fillTask (room : Nat) (x : MatTask) (s : State) : Nat × MatTask × State :=
  if x.hdr.isSome then fillBlocks (x.plan.drop x.got.length) room x s
  else if room < 64 ∨ s.fetchWaits x then (0, x, s)
  else
    let y := { x with hdr := some { data := s.unitBytes x.d.bAddr 64 } }
    fillBlocks (y.plan.drop y.got.length) (room - 64) y (s.noteUnit x.d.bAddr 64 (ctxStream x.ctx))

/-- Fill for the expander tasks of a list, in task order. -/
def fillTasks : List MatTask → Nat → State → List MatTask × State
  | [], _, s => ([], s)
  | x :: t, room, s =>
    if x.op.isX then
      let (r, y, u) := fillTask room x s
      let (l, v) := fillTasks t r u
      (y :: l, v)
    else (let (l, v) := fillTasks t room s; (x :: l, v))

/-- The expander task of a slot that has started and waits for bytes. -/
def State.waitingFetch (s : State) (slot : Nat) : Option MatTask :=
  s.eng.mrun.find? (fun x => decide (x.slot = slot) && x.op.isX && decide (x.fin = 0))

/-- At most `bytes` bytes come, `late` cycles after the lane began to wait for them where a started task waits: they fill the
room of the fetch buffer in task order. -/
def fillFetch (slot bytes late : Nat) (s : State) : State :=
  let t := match s.waitingFetch slot with
    | some x => (if late = 0 then s else s.toCycle (max s.clk.cycle ((x.walk 0).clock + late))).noteHold x.hold
    | none => s
  let ts := (t.slotTasks slot).map (fun x => { x with hold := none })
  let held := ts.foldl (fun n x => n + x.heldBytes t.clk.cycle) 0
  let r := fillTasks ts (min bytes (fetchBytes - held)) t
  putTasks slot r.1 r.2

/-- A started expander task that waits for held bytes enters its hold (R574), which is counted; a pause is no hold (R520). -/
def holdFetch (slot : Nat) (s : State) : State :=
  match s.waitingFetch slot with
  | some x =>
    if x.hold.isSome ∨ s.bulkPaused then s
    else (s.modEng (fun e => { e with
      mrun := modBy (fun y => decide (y.id = x.id)) (fun y => { y with hold := some s.clk.ticks }) e.mrun })).count
        0x6010 1 clsRecovered
  | none => s

/-- FETCH_BUFFER_FILL (R270): bytes whose tier is held do not come, nor those behind them (R526). -/
def execFetchBufferFill (slot : Fin 2) (bytes lateCycles : Nat) (s : State) : Result :=
  .next (if (s.waitingFetch slot.val).any (fun x => s.fetchWaits x) then holdFetch slot.val s
    else fillFetch slot.val bytes lateCycles s)

/-! ## Decode tables (R260 to R263) -/

/-- The code lengths of a table record. -/
def tableLengths (bs : List Byte) : List Nat :=
  (List.range 256).map (fun y => let b := (bs.getD (16 + y / 2) 0).toNat; if y % 2 = 0 then b % 16 else b / 16)

/-- REFS of the slot or TABLE_PENDING is above 0 (R262, R263). -/
def State.tableBusy (s : State) (k : Nat) : Bool :=
  decide (s.eng.tablePending ≠ 0) || (match s.table k with | some t => decide (t.refs ≠ 0) | none => false)

/-- Why a TABLE_LOAD is refused (R262); 0 when it is not. -/
def tableRefused (a : Nat) (s : State) : Nat :=
  if a % 64 ≠ 0 ∨ !inBuffer a 144 then abRange
  else
    let bs := Memory.gets s.mem a 144
    let v := leNat bs
    if s.tableBusy (bits v 0 6) then abBusy
    else if bits v 8 8 = 0 ∨ s.holdsTable (bits v 0 6, bits v 8 8) then abRange
    else if !lengthsOk (tableLengths bs) then abRange
    else if (crc32 (zeroCheck bs 4)).toNat ≠ bits v 32 32 then abRange
    else 0

/-- A write of TABLE_LOAD: the record at bits [47:0] of the value (R262, R276). -/
def wTableLoad (v : Nat) (s : State) : WriteRes :=
  let a := bits v 0 48
  let c := tableRefused a s
  if c ≠ 0 then (c, s.count 0x6007 5 clsFailed)
  else
    let bs := Memory.gets s.mem a 144
    (0, s.modEng (fun e => { e with
      tables := tset noTable e.tables (bits (leNat bs) 0 6)
        (some { tver := fld (leNat bs) 8 8, refs := 0, lengths := tableLengths bs }) }))

/-- TABLE_LOAD: answered when the slot holds the table, at most 5 µs later (R262). -/
def execTableLoad (m : Master) (addr : DWord) (s : State) : Result :=
  entryWrite m 0x4300 1 8 addr.toNat (wTableLoad addr.toNat) s

/-- A write of TABLE_FREE (R263). -/
def wTableFree (v : Nat) (s : State) : WriteRes :=
  if 64 ≤ v then (abRange, s)
  else if s.tableBusy v then (abBusy, s)
  else (0, s.modEng (fun e => { e with tables := tset noTable e.tables v none }))

def execTableFree (m : Master) (slot : BitVec 8) (s : State) : Result :=
  entryWrite m 0x4300 2 1 slot.toNat (wTableFree slot.toNat) s

end Sys2Proof.Machine
end

