-- ==== Sys2Proof/Machine/Vector.lean ====
section
/-!
DEFINITION. The vector fabric and the rotation units (R158, R159, R202 to R219, R237 to R246): the check of a vector task
descriptor, configuration images, quantising and its statistics, scale adaptation, the adapter step, the Hadamard
rotation, and the start and end of tasks. Which function an image defines is free; the conversions of its input and output
are the manual's (log 22).
-/
namespace Sys2Proof.Machine

/-! ## The descriptor (R244) -/

def vecDesc (v : Nat) : VecDesc :=
  { sync := fld v 0 14, syncV := bit v 14, statsV := bit v 15, stateV := bit v 16, opTag := fld v 32 16,
    e := bits v 48 32, rowLen := bits v 80 16, inCode := bits v 96 3, outCode := bits v 99 3, gsize := bits v 102 2,
    shift := bits v 104 4, ea := fld v 108 8, eo := fld v 116 8, rotB := bits v 126 2, src := bits v 128 48,
    src2 := bits v 176 48, dst := bits v 224 48, dstScale := bits v 272 48, stats := bits v 320 48, state := bits v 368 48,
    param := fld v 416 64, srcScale := bits v 480 48 }

/-- Bits of an IN_CODE or OUT_CODE. -/
def vecBits (c : Nat) : Nat := if c = 0 ∨ c = 5 then 32 else if c = 1 ∨ c = 6 then 16 else if c = 4 then 4 else 8

/-- Bytes of `n` elements of a code. -/
def vecBytes (c n : Nat) : Nat := ceilDiv (n * vecBits c) 8

/-- The class of a task: that of its image, or 5 for ROTATE. -/
def clsRotate : Nat := 5

/-- The task quantises or requantises, so that it has statistics and a scale state (R212, R240, R243): into A8, A4, or FP8
E4M3 elements, to which a ROTATE only converts. -/
def narrows (cls : Nat) (d : VecDesc) : Bool :=
  (decide (cls = 0) || decide (cls = 1) || decide (cls = 3)) && decide (2 ≤ d.outCode) ||
    decide (cls = clsRotate) && decide (3 ≤ d.outCode)

/-- The task writes group scales. -/
def grouped (cls : Nat) (d : VecDesc) : Bool :=
  (decide (cls = 3) || decide (cls = clsRotate)) && narrows cls d && decide (d.gsize ≠ 0)

/-- ROTATE block sizes (R244). -/
def rotSize (b : Nat) : Nat := 16 * 4 ^ b

/-! ### The update parameter word (R218) -/

def parBeta (d : VecDesc) : Nat := bits d.param.toNat 0 4
def parLr (d : VecDesc) : Nat := bits d.param.toNat 4 5
def parClamp (d : VecDesc) : Int := signed 8 (bits d.param.toNat 16 8)
def parGroup (d : VecDesc) : Nat := bits d.param.toNat 24 2

/-- The first field of the parameter word outside its range (R218). -/
def paramBad (d : VecDesc) : Option Nat :=
  if 8 < parBeta d then some 0xE1
  else if 24 < parLr d then some 0xE2
  else if parClamp d < -40 ∨ 0 < parClamp d then some 0xE3
  else if parGroup d = 3 then some 0xE4
  else none

/-- The groups of an adapter step. -/
def adaptGroups (d : VecDesc) : Nat := ceilDiv d.e (32 * 2 ^ parGroup d)

/-- The BF16 copy of the adapter (R240). -/
def copyAddr (d : VecDesc) : Nat := ceilDiv (d.dst + 4 * d.e) 64 * 64

/-! ### The scale state record (R213) -/

def stMin (v : Nat) : Int := signed 8 (bits v 8 8)
def stMax (v : Nat) : Int := signed 8 (bits v 16 8)

/-- The first field of a scale state record that fails (R214). -/
def stateBad (v : Nat) : Option Nat :=
  if bits v 8 8 = 0x80 ∨ stMax v < stMin v then some 0xC2
  else if bits v 16 8 = 0x80 then some 0xC3
  else if bits v 30 2 = 3 then some 0xC6
  else none

/-! ## The check (R210, R214, R218, R243, R245) -/

/-- An address that a task reads or writes `n` bytes at; nothing is checked for no bytes. -/
def spotBad (a n : Nat) : Bool := decide (n ≠ 0) && !(operandOk a n)

/-- A scale state record off its 16-byte boundary (R213) or outside the buffer tier (log 100). -/
def recordBad (a : Nat) : Bool := decide (a % 16 ≠ 0) || !inBuffer a 16

/-- The bytes of the second input that are checked: the column exponents of CLASS 0, the momentum of CLASS 4; of the gain
vector of CLASS 1, whose format is not stated, the first. -/
def src2Bytes (cls : Nat) (d : VecDesc) : Nat :=
  if cls = 4 then d.e else if cls = 0 then min d.e (max 1 d.rowLen) else if cls = 1 then min 1 d.e else 0

/-- A scale tensor outside the buffer tier. -/
def tensorBad (m : Memory) (a gcode total : Nat) : Bool :=
  decide (total ≠ 0) && (decide (a % 64 ≠ 0) ||
    (match (scalesAt m a gcode total).fault with | some f => decide (f.1 = 0) | none => false))

/-- A scale tensor of an adapter step outside the buffer tier; without a GROUP in range only its boundary is known. -/
def adaptTensorBad (m : Memory) (d : VecDesc) (a : Nat) : Bool :=
  if parGroup d = 3 then spotBad a (min 1 d.e) else tensorBad m a (parGroup d) (adaptGroups d)

/-- A faulty scale record that is readable at issue (R199). -/
def tensorRec (m : Memory) (a gcode total : Nat) : Option DescFault :=
  if total = 0 then none
  else
    match (scalesAt m a gcode total).fault with
    | some (f, r) => if f = 0 then none else some (rangeAt f r)
    | none => none

/-- The bytes of the scale tensor that a task writes: 48 codes a record. -/
def tensorBytes (d : VecDesc) : Nat := 64 * ceilDiv (ceilDiv d.e (groupSize d.gsize)) 48

/-- The first field that fails among those that the class reads, in ascending field number (R245, R599). -/
def vecField (m : Memory) (cls : Nat) (d : VecDesc) : Option Nat :=
  if cls = 1 ∧ d.rowLen ≠ 0 ∧ d.e % d.rowLen ≠ 0 then some 0x86
  else if cls = clsRotate ∧ d.e % rotSize d.rotB ≠ 0 then some 0x86
  else if cls = 1 ∧ d.rowLen = 0 then some 0x87
  else if (cls ≤ 2 ∧ d.inCode = 7) ∨ (cls = clsRotate ∧ 2 ≤ d.inCode) then some 0x88
  else if cls ≠ 4 ∧ 5 ≤ d.outCode then some 0x89
  else if spotBad d.src (if cls = 4 then d.e else if cls = 3 then 4 * d.e else vecBytes d.inCode d.e) then some 0x8F
  else if spotBad d.src2 (src2Bytes cls d) then some 0x90
  else if spotBad d.dst (if d.e = 0 then 0 else if cls = 4 then copyAddr d + 2 * d.e - d.dst else vecBytes d.outCode d.e)
    then some 0x91
  else if (grouped cls d ∧ spotBad d.dstScale (tensorBytes d)) ∨ (cls = 4 ∧ adaptTensorBad m d d.dstScale) then some 0x92
  else if (narrows cls d ∨ cls = 4) ∧ d.statsV ∧ spotBad d.stats 32 then some 0x93
  else if narrows cls d ∧ d.stateV ∧ recordBad d.state then some 0x94
  else if cls = 4 ∧ adaptTensorBad m d d.srcScale then some 0x96
  else none

/-- The whole check of a RUN of a class, or of a ROTATE, whose descriptor is at address `a`. -/
def checkVector (m : Memory) (cls : Nat) (d : VecDesc) (a : Nat) : Option DescFault :=
  match vecField m cls d with
  | some f => some (rangeAt f a)
  | none =>
    lowestFault ([if narrows cls d ∧ d.stateV then (stateBad (numAt m d.state 16)).map (fun f => rangeAt f d.state) else none] ++
      (if cls ≠ 4 then []
       else
        (if parGroup d = 3 then []
         else [tensorRec m d.srcScale (parGroup d) (adaptGroups d), tensorRec m d.dstScale (parGroup d) (adaptGroups d)]) ++
        [(paramBad d).map (fun f => rangeAt f (a + 52))]))

/-! ## Issue (R158 to R160, R249) -/

def noVec : Nat → List VecTask := fun _ => []

/-- The vector slot of a context: 0 for slot 9, 1 for slot 10 (R173). -/
def vecSlot (c : SlotCtx) : Nat := if c.slot = 10 then 1 else 0

/-- The kind of unit a task uses, and the units. -/
def vecUnits (op : VecOp) (u : BitVec 8) : UnitKind × List Nat :=
  match op with
  | .rotate => (.rotation, [bits u.toNat 0 2])
  | _ => (.vectorSection, sliceList u)

def VecTask.unitList (x : VecTask) : List Nat := (vecUnits x.op x.units).2
def VecTask.kind (x : VecTask) : UnitKind := (vecUnits x.op x.units).1

/-- Tasks that share a section or a rotation unit (R159). -/
def VecTask.shares (x y : VecTask) : Bool := decide (x.kind = y.kind) && x.unitList.any (fun i => y.unitList.contains i)

/-- A CONFIG on one of some sections is in flight. -/
def State.configOn (s : State) (us : List Nat) : Bool :=
  (((List.range 2).flatMap (fun k => tget noVec s.eng.vq k)) ++ s.eng.vrun).any (fun y =>
    decide (y.op = .config) && y.unitList.any (fun i => us.contains i))

def State.vectorSection? (s : State) (i : Nat) : Option Image := tget noImage s.eng.sect i

/-- The function of some sections, when every one holds the same IMAGE_ID (R242). -/
def State.imageOf (s : State) (us : List Nat) : Option Image :=
  match us with
  | [] => none
  | u :: _ =>
    match s.vectorSection? u with
    | none => none
    | some im => if us.all (fun i => match s.vectorSection? i with | some j => decide (j.id = im.id) | none => false)
        then some im else none

/-- A vector task joins its slot's queue; `image` is set when its class was known and checked at issue. -/
def queueVector (c : SlotCtx) (op : VecOp) (u : BitVec 8) (d : VecDesc) (im : Option Image) (s : State) : State :=
  let k := vecSlot c
  let x : VecTask :=
    { id := s.nextId, slot := k, ctx := c, job := s.jobOf c, op := op, units := u, d := d, issued := s.clk.cycle,
      start := 0, fin := 0, writes := [], stats := none, scaleUpdate := false, record := false, image := im, fails := false,
      broken := false }
  (s.modEng (fun e => { e with vq := tmod noVec e.vq k (fun q => q ++ [x]) })).takeId

/-- What the check of a vector slot finds, and the image when its class is known (R245). -/
def vecCheck (op : VecOp) (us : List Nat) (d : VecDesc) (a : Nat) (s : State) : Option DescFault × Option Image :=
  match op with
  | .rotate => (checkVector s.mem clsRotate d a, none)
  | .config => (if spotBad d.src d.e then some (rangeAt 0x8F a) else none, none)
  | .run =>
    if s.configOn us then (none, none)
    else
      match s.imageOf us with
      | some im => (checkVector s.mem im.cls d a, some im)
      | none => (none, none)

/-- A vector slot (R158). -/
def opVector (op : VecOp) (c : SlotCtx) (u : BitVec 8) (desc : BitVec 20) (pre s : State) : State :=
  let a := 128 * desc.toNat
  if pre.gated blkBuffer then taskFault c none 0 { cause := causeBus, detail := 0, addr := 0 } s
  else if !inBuffer a 128 then taskFault c none 0 { cause := causeDesc, detail := 0, addr := a } s
  else
    let d := vecDesc (numAt pre.mem a 128)
    let y := if d.syncV then some d.sync else none
    let ku := vecUnits op u
    if ku.2 = [] ∨ ku.2.any (fun i => !s.unitUsable ku.1 i) then taskFault c y d.opTag (rangeAt 0x102 0) s
    else
      let r := vecCheck op ku.2 d a { pre with eng := s.eng }
      match r.1 with
      | some f => taskFault c y d.opTag f s
      | none => queueVector c op u d r.2 s

/-- The queue of a vector slot is full (R159). -/
def vectorFull (k : Nat) (s : State) : Bool := decide (4 ≤ (tget noVec s.eng.vq k).length)

/-- A vector slot command: with its queue full the bundle stalls (R159). -/
def vectorCmd (op : VecOp) (c : SlotCtx) (u : BitVec 8) (desc : BitVec 20) (s : State) : Result :=
  if vectorFull (vecSlot c) s then .next (beginStall s) else slotCmd (opVector op c u desc) s

def execRun (c : SlotCtx) (units : BitVec 8) (desc : BitVec 20) (s : State) : Result := vectorCmd .run c units desc s
def execConfig (c : SlotCtx) (units : BitVec 8) (desc : BitVec 20) (s : State) : Result := vectorCmd .config c units desc s
def execRotate (c : SlotCtx) (units : BitVec 8) (desc : BitVec 20) (s : State) : Result := vectorCmd .rotate c units desc s

/-! ## Quantising (R202 to R204, R212) -/

/-- What quantising a group gives: its scale code, the output patterns, and its counts. -/
structure Quant where
  scale : BitVec 8
  pats  : List Nat
  clips : Nat
  zeros : Nat
  nans  : Nat
deriving DecidableEq, Repr

def FVal.isNan (v : FVal) : Bool := match v with | .nan _ => true | _ => false

/-- Neither zero nor NaN. -/
def FVal.nonZero (v : FVal) : Bool := match v with | .fin _ m _ => decide (m ≠ 0) | .inf _ => true | .nan _ => false

/-- One value under an exponent: its pattern, whether it saturated, whether the output represents zero. -/
def quantOne (code : Nat) (v : FVal) (e : Int) : Nat × Bool × Bool :=
  let x := v.scale (-e)
  if code = 2 then
    let p := toFp8 x
    (p, satFp8 x, decide (p % 128 = 0))
  else
    let (k, sat) := toIntCode (codeMax code) x
    (enc (if code = 3 then 8 else 4) k, sat, decide (k = 0))

/-- A group under a given exponent, or under one of its own choice (R203, R204). DESIGN CHOICE (log 127): ZERO_GROUP as the
given exponent writes every code as 0, and an input that is neither zero nor NaN counts in NZERO. -/
def quantGroup (code : Nat) (given : Option (BitVec 8)) (vs : List FVal) : Quant :=
  let sc := match given with | some b => b | none => needOf (maxAbs vs) (codeMax code)
  let nans := (vs.filter (fun v => v.isNan)).length
  match scaleExp sc with
  | none =>
    { scale := sc, pats := vs.map (fun _ => 0), clips := 0, zeros := (vs.filter (fun v => v.nonZero)).length, nans := nans }
  | some e =>
    let rs := vs.map (fun v => (v, quantOne code v e))
    { scale := sc, pats := rs.map (fun r => r.2.1), clips := (rs.filter (fun r => r.2.2.1)).length,
      zeros := (rs.filter (fun r => r.2.2.2 && r.1.nonZero)).length, nans := nans }

/-- Values in groups of `g`. -/
def chunks {α : Type} (g : Nat) : Nat → List α → List (List α)
  | 0, _ => []
  | _ + 1, [] => []
  | n + 1, l => l.take g :: chunks g n (l.drop g)

/-- The FP32 pattern of a magnitude (R191). -/
def magWord (v : FVal) : Word := BitVec.ofNat 32 (fFp32.narrow v)

/-- The statistics of a task from its groups (R212). -/
def statsOf (code : Nat) (used : BitVec 8) (vs : List FVal) (qs : List Quant) (own : Bool) : Stats :=
  let m := magWord (maxAbs vs)
  { n := vs.length, clips := qs.foldl (fun a q => a + q.clips) 0, zeros := qs.foldl (fun a q => a + q.zeros) 0,
    nans := qs.foldl (fun a q => a + q.nans) 0,
    zgs := if own then (qs.filter (fun q => decide (q.scale = zeroGroup))).length else 0,
    maxAbs := m, need := needOf (fp32 m) (codeMax code), eUsed := used }

/-- Codes packed as R187 packs them. -/
def packCodes (code : Nat) (ps : List Nat) : List Byte :=
  if code = 4 then (chunks 2 ps.length ps).map (fun c => BitVec.ofNat 8 (c.getD 0 0 + 16 * c.getD 1 0))
  else ps.map (fun p => BitVec.ofNat 8 p)

/-- A scale tensor as records of 48 codes (R198). -/
def scaleRecords (gcode : Nat) (a : Nat) (codes : List (BitVec 8)) : List (Nat × List Byte) :=
  ((chunks 48 codes.length codes).zipIdx).map (fun c =>
    (a + 64 * c.2, leBytes 64 (gcode + c.1.length * 2 ^ 8 + 48 * c.2 * 2 ^ 32 + leNat c.1 * 2 ^ 128)))

/-- The exponent that a quantising task is given (R204, R209, R214, R240): the scale state's; EO in CLASS 0; `eo`, that of
the image, in CLASS 1; none in CLASS 3 and ROTATE, where each group chooses its own (log 22). A CLASS 2 task reads none, and
its codes stand for themselves. -/
def givenExp (m : Memory) (cls : Nat) (eo : BitVec 8) (d : VecDesc) : Option (BitVec 8) :=
  if cls = 2 then some 0
  else if d.stateV then some (fld (numAt m d.state 16) 0 8)
  else if cls = 0 then some d.eo
  else if cls = 1 then some eo
  else none

/-- Quantise the values of a task: what it writes, and its statistics (R203, R204, R208, R212). -/
def quantTask (m : Memory) (cls : Nat) (eo : BitVec 8) (d : VecDesc) (vs : List FVal) : List (Nat × List Byte) × Stats :=
  let given := givenExp m cls eo d
  let g := if grouped cls d then groupSize d.gsize else max 1 vs.length
  let qs := (chunks g vs.length vs).map (quantGroup d.outCode given)
  let ws := [(d.dst, packCodes d.outCode (qs.flatMap (fun q => q.pats)))]
  let ws := if grouped cls d then ws ++ scaleRecords (d.gsize - 1) d.dstScale (qs.map (fun q => q.scale)) else ws
  (ws, statsOf d.outCode (match given with | some b => b | none => zeroGroup) vs qs given.isNone)

/-- A task with its results: the values as codes, or as FP32, BF16 or FP8 E4M3; statistics and a scale update where the class
has them (R191, R193, R240). The clips and NaN inputs of integer codes are counted in CLASS 2 too, which has no record
(R194). -/
def finishTask (m : Memory) (cls : Nat) (eo : BitVec 8) (x : VecTask) (vs : List FVal) : VecTask :=
  let d := x.d
  let q := quantTask m cls eo d vs
  let ws := if narrows cls d ∨ (cls = 2 ∧ 2 ≤ d.outCode) then q.1 else [(d.dst, vs.flatMap (outBytes d.outCode))]
  { x with writes := if d.e = 0 then [] else ws, record := narrows cls d,
           stats := if narrows cls d ∨ (cls = 2 ∧ 3 ≤ d.outCode) then some q.2 else none,
           scaleUpdate := narrows cls d && d.stateV }

/-! ## Rotation (R210, R211) -/

/-- One stage of the transform. -/
def rotStage (xs : List Word) (st : Nat) : List Word :=
  (List.range xs.length).map (fun i =>
    if bit i st then fsub (xs.getD (i - 2 ^ st) 0) (xs.getD i 0) else fadd (xs.getD i 0) (xs.getD (i + 2 ^ st) 0))

/-- A block: its stages, then the division by √B. -/
def rotBlock (rb : Nat) (xs : List Word) : List Word :=
  ((List.range (4 + 2 * rb)).foldl rotStage xs).map (fun w => fscale w (-((2 + rb : Nat) : Int)))

/-- FP32 or BF16 values in memory as FP32. -/
def readFloats (m : Memory) (code a n : Nat) : List Word :=
  (List.range n).map (fun i =>
    if code = 0 then BitVec.ofNat 32 (numAt m (a + 4 * i) 4) else BitVec.ofNat 32 (numAt m (a + 2 * i) 2 * 65536))

/-! ## The adapter step (R219) -/

/-- The addresses of the codes of a scale tensor, group by group, up to a record that breaks off. -/
def scalePlaces (m : Memory) (gcode total : Nat) : Nat → Nat → List Nat → List Nat
  | 0, _, acc => acc
  | n + 1, a, acc =>
    if total ≤ acc.length then acc.take total
    else if !inBuffer a 64 then acc
    else
      let r := numAt m a 64
      let cnt := bits r 8 8
      if cnt = 0 then scalePlaces m gcode total n (a + 64) acc
      else if bits r 0 2 ≠ gcode ∨ 48 < cnt ∨ bits r 32 32 ≠ acc.length then acc
      else scalePlaces m gcode total n (a + 64) (acc ++ (List.range cnt).map (fun i => a + 16 + i))

/-- An element under its group's scale code; 0 for ZERO_GROUP and past the end of a broken tensor (R200). -/
def scaledElem (code : Nat) (codes : List (BitVec 8)) (q p : Nat) : Word :=
  match codes[q]? with
  | none => 0
  | some b => match scaleExp b with | none => 0 | some k => fscale (toWord (elemVal code p)) k

/-- One element of the step: the new momentum, the new weight, and whether the step was clamped. -/
def adaptElem (d : VecDesc) (g m w : Word) : Word × Word × Bool :=
  let b : Int := -(parBeta d : Int)
  let m2 := fadd (fsub m (fscale m b)) (fscale g b)
  let u := fscale m2 (-(parLr d : Int))
  let big : Bool := match fp32 u with
    | .fin _ x e => !leMag x e 1 (parClamp d)
    | .inf _ => true
    | .nan _ => false
  let u2 := if big then toWord (.fin u.msb 1 (parClamp d)) else u
  (m2, fsub w u2, big)

/-- The whole step: what it writes, its statistics, and whether a scale tensor broke off. -/
def adaptTask (m : Memory) (d : VecDesc) : List (Nat × List Byte) × Stats × Bool :=
  let gsz := 32 * 2 ^ parGroup d
  let n := adaptGroups d
  let gs := scalesAt m d.srcScale (parGroup d) n
  let ms := scalesAt m d.dstScale (parGroup d) n
  let rs := (List.range d.e).map (fun i =>
    adaptElem d (scaledElem cdFp8 gs.codes (i / gsz) (numAt m (d.src + i) 1))
      (scaledElem cdA8 ms.codes (i / gsz) (numAt m (d.src2 + i) 1)) (BitVec.ofNat 32 (numAt m (d.dst + 4 * i) 4)))
  let vs := rs.map (fun r => fp32 r.1)
  let qs := (chunks gsz vs.length vs).map (quantGroup 3 none)
  let st := statsOf 3 zeroGroup vs qs true
  let places := scalePlaces m (parGroup d) n (bufferSize / 64 + 2) d.dstScale []
  let scaleWrites := (places.zip (qs.map (fun q => q.scale))).map (fun p => (p.1, [p.2]))
  ([(d.dst, rs.flatMap (fun r => leBytes 4 r.2.1.toNat)), (copyAddr d, rs.flatMap (fun r => outBytes 1 (fp32 r.2.1))),
    (d.src2, packCodes 3 (qs.flatMap (fun q => q.pats)))] ++ scaleWrites,
   { st with clips := (rs.filter (fun r => r.2.2)).length },
   gs.order || ms.order || gs.fault.isSome || ms.fault.isSome)

/-! ## Configuration images (R239, R241) -/

/-- The image at SRC, when it is one the device takes. -/
def readImage (m : Memory) (d : VecDesc) : Option Image :=
  let bs := Memory.gets m d.src d.e
  let v := leNat (bs.take 64)
  let cls := bits v 32 3
  let p := bits v 36 4
  if d.e < 64 ∨ 64 + bits v 40 16 + bits v 56 16 ≠ d.e ∨ 4 < cls ∨ p = 0 ∨ 8 < p ∨ 32768 < bits v 40 16
      ∨ 32768 < bits v 56 16 ∨ (crc32 (zeroCheck bs 60)).toNat ≠ bits v 480 32 then none
  else some { id := fld v 0 32, cls := cls, passes := p, bytes := bs }

/-! ## Start (R159, R167, R242, R245) -/

/-- Element `i` of the input as its IN_CODE gives it, without an exponent (R184, R188, R240). -/
def rawElem (m : Memory) (d : VecDesc) (i : Nat) : FVal :=
  let at' := fun (n : Nat) => numAt m (d.src + n * i) n
  if d.inCode = 0 then fFp32.decode (at' 4)
  else if d.inCode = 1 then fBf16.decode (at' 2)
  else if d.inCode = 2 then decodeFp8 (at' 1)
  else if d.inCode = 3 then intVal (signed 8 (at' 1))
  else if d.inCode = 4 then intVal (signed 4 (bits (numAt m (d.src + i / 2) 1) (4 * (i % 2)) 4))
  else if d.inCode = 5 then intVal (signed 32 (at' 4))
  else intVal (signed 16 (at' 2))

/-- The exponent of the column of element `i`: one scale code per column at SRC2 (R201). -/
def columnExp (im : Image) (m : Memory) (d : VecDesc) (i : Nat) : BitVec 8 :=
  if d.rowLen = 0 then Config.columnExp im.bytes i else fld (numAt m (d.src2 + i % d.rowLen) 1) 0 8

/-- The exponent of an input element of a code: Ew + Ea of a line value, with the shift of a PS16 one (R201, R208); Ea of a
code (R195); none of FP32 and BF16. ZERO_GROUP makes the element zero. -/
def inputExp (code : Nat) (ea ew : BitVec 8) (shift : Nat) : Option Int :=
  if code ≤ 1 then some 0
  else
    match scaleExp ea with
    | none => none
    | some a =>
      if code ≤ 4 then some a else (scaleExp ew).map (fun w => w + a + (if code = 6 then (shift : Int) else 0))

/-- A raw value under an exponent; zero under ZERO_GROUP (R196). -/
def FVal.under (v : FVal) (k : Option Int) : FVal := match k with | some e => v.scale e | none => .fin false 0 0

/-- The value of element `i` of a CLASS 0 task. -/
def elemValue (im : Image) (m : Memory) (d : VecDesc) (i : Nat) : FVal :=
  (rawElem m d i).under (inputExp d.inCode d.ea (columnExp im m d i) d.shift)

/-- The value of element `i` of a CLASS 1 task, P × 2^(Ew + Ea) of a line value (R209): a RUN of this class reads no exponent
and no SHIFT from its descriptor, and the exponents of its image are free (R240, log 22). -/
def rowValue (im : Image) (m : Memory) (d : VecDesc) (i : Nat) : FVal :=
  (rawElem m d i).under (inputExp d.inCode (Config.imageExp im.bytes 0) (Config.columnExp im.bytes (i % d.rowLen)) 0)

/-- A value as FP32, toward zero (R191, R209). -/
def asFp32 (v : FVal) : Word := BitVec.ofNat 32 (fFp32.narrow v)

/-- The values of a CLASS 0 task: exact where the image converts, so that a code is P shifted by Ew + Ea - Eo and saturated
(R208); else those of its function (R209). -/
def elemResults (im : Image) (m : Memory) (d : VecDesc) : List FVal :=
  (List.range d.e).map (fun i =>
    let v := elemValue im m d i
    if Config.converts im.bytes then v else fp32 (Config.elemFn im.bytes (asFp32 v)))

/-- The values of a CLASS 1 task, row by row. -/
def rowResults (im : Image) (m : Memory) (d : VecDesc) : List FVal :=
  let gain := Memory.gets m d.src2 (4 * d.rowLen)
  (chunks d.rowLen d.e ((List.range d.e).map (fun i => asFp32 (rowValue im m d i)))).flatMap (fun row =>
    (List.range row.length).map (fun i => fp32 (Config.rowFn im.bytes row gain i)))

/-- The results of a RUN with a usable function (R240). -/
def runTask (im : Image) (x : VecTask) (m : Memory) : VecTask :=
  let d := x.d
  let all := List.range d.e
  match im.cls with
  | 0 => finishTask m 0 0 x (elemResults im m d)
  | 1 => finishTask m 1 (Config.imageExp im.bytes 1) x (rowResults im m d)
  | 2 => finishTask m 2 0 x (all.map (fun i => fp32 (Config.elemFn im.bytes (asFp32 (rawElem m d i)))))
  | 3 => finishTask m 3 0 x (all.map (fun i => fp32 (BitVec.ofNat 32 (numAt m (d.src + 4 * i) 4))))
  | _ =>
    let r := adaptTask m d
    { x with writes := if d.e = 0 then [] else r.1, stats := some r.2.1, record := true, broken := r.2.2 && decide (d.e ≠ 0) }

/-- The results of a ROTATE (R210, R211, R243). -/
def rotateTask (x : VecTask) (m : Memory) : VecTask :=
  let d := x.d
  finishTask m clsRotate 0 x
    ((chunks (rotSize d.rotB) d.e (readFloats m d.inCode d.src d.e)).flatMap (fun b => (rotBlock d.rotB b).map fp32))

/-- A lane register: what the last run on its section left there (R237, log 22). -/
def State.laneReg (s : State) (sec lane r : Nat) : Word := Config.laneReg (tget zeroNat s.eng.lanes sec) lane r

/-- A run leaves new values in the lane registers of its sections. -/
def State.useLanes (s : State) (us : List Nat) : State :=
  { s.modEng (fun e => { e with lanes := us.foldl (fun t i => tset zeroNat t i s.freeIx) e.lanes }) with freeIx := s.freeIx + 1 }

/-- A RUN begins: its function, found now when it was not known at issue (R242, R245). Without a usable function it lasts as
one pass does (log 23). -/
def beginRun (x : VecTask) (s : State) : VecTask × State × Nat :=
  let dur := fun p => 20 + ceilDiv x.d.e (128 * max 1 x.unitList.length) * p
  match s.imageOf x.unitList with
  | none => ({ x with fails := true }, s, dur 1)
  | some im =>
    if x.image = none ∧ (checkVector s.mem im.cls x.d 0).isSome then ({ x with fails := true }, s, dur im.passes)
    else (runTask im x s.mem, s.useLanes x.unitList, dur im.passes)

/-- A CONFIG begins: the named sections hold no function (R241). -/
def beginConfig (x : VecTask) (s : State) : VecTask × State × Nat :=
  let im := if x.d.e = 0 then none else readImage s.mem x.d
  let t := s.modEng (fun e => { e with sect := x.unitList.foldl (fun u i => tset noImage u i none) e.sect })
  ({ x with image := im, fails := decide (x.d.e ≠ 0) && im.isNone }, t, 64 + ceilDiv x.d.e 128)

/-- A vector task begins: what it will write, and its duration (R167). -/
def beginVector (x : VecTask) (s : State) : VecTask × State × Nat :=
  match x.op with
  | .run => beginRun x s
  | .config => beginConfig x s
  | .rotate => (rotateTask x s.mem, s, 24 + ceilDiv x.d.e 256)

/-- The cycle in which the last of a task's units became ON. -/
def State.unitsOn (s : State) (x : VecTask) : Nat :=
  x.unitList.foldl (fun m i => max m (tget zeroNat s.eng.wokeAt (unitDomain x.kind i))) 0

/-- The cycles that a task loses to scale records not yet readable (R199): only an adapter step expands scaled operands. -/
def vecLost (x : VecTask) (s : State) (scaleWait : Nat) : Nat :=
  match s.imageOf x.unitList with
  | some im => if x.op = .run ∧ im.cls = 4 ∧ x.d.e ≠ 0 then scaleWait else 0
  | none => 0

/-- A vector task starts in cycle `k`; its wait for power is counted (R249). -/
def startVector (x : VecTask) (rest : List VecTask) (k scaleWait : Nat) (s : State) : State :=
  let t := (s.toCycle k).modEng (fun e => { e with vq := tset noVec e.vq x.slot rest })
  let lost := vecLost x t scaleWait
  let t1 := (t.countCycles 0x6006 3 (min k (s.unitsOn x) - (x.issued + 4))).countCycles 0x6005 3 lost
  let r := beginVector x t1
  r.2.1.modEng (fun e => { e with vrun := e.vrun ++ [{ r.1 with start := k, fin := k + r.2.2 + lost }] })

/-- VECTOR_TASK_START: the front task of a slot, once earlier tasks on its sections or unit have ended and its units are
ON (R159, R249). A RUN waits for a CONFIG on its sections until that has ended. The operand says how long its scale records
make it wait. -/
def execVectorTaskStart (slot : Fin 2) (scaleWait : Nat) (s : State) : Result :=
  .next (match tget noVec s.eng.vq slot.val with
    | [] => s
    | x :: rest =>
      let earlier := (List.range 2).any (fun k => (tget noVec s.eng.vq k).any (fun y => decide (y.id < x.id) && x.shares y))
      let loading := s.eng.vrun.any (fun y => x.shares y && decide (y.op = .config))
      if earlier ∨ loading ∨ x.unitList.any (fun i => decide (s.dom (unitDomain x.kind i) ≠ .on)) then s
      else
        let free := s.eng.vrun.foldl (fun m y => if x.shares y then max m y.fin else m) 0
        startVector x rest (max (max (x.issued + 4) free) s.clk.cycle) scaleWait s)

/-! ## End (R212 to R216, R241, R242) -/

/-- CLIP_SHARE and ZERO_SHARE. -/
def share1024 (k n : Nat) : Nat := if n = 0 then 0 else k * 1024 / n

/-- The statistics record (R212). -/
def statsBytes (t : Stats) (hit : Bool) : List Byte :=
  leBytes 32 (t.n + t.clips * 2 ^ 32 + t.zeros * 2 ^ 64 + min 0xFFFF t.nans * 2 ^ 96 + min 0xFFFF t.zgs * 2 ^ 112
    + t.maxAbs.toNat * 2 ^ 128 + share1024 t.clips t.n * 2 ^ 160 + share1024 t.zeros t.n * 2 ^ 176
    + t.need.toNat * 2 ^ 192 + t.eUsed.toNat * 2 ^ 200 + b2n hit * 2 ^ 208)

/-- The exponent after an update, or none for a hold (R216). -/
def scaleNext (v : Nat) (t : Stats) : Int × Bool :=
  let lo := stMin v
  let hi := stMax v
  let e := clampInt lo hi (signed 8 (bits v 0 8))
  match scaleExp t.need with
  | none => (e, false)
  | some need =>
    if t.n = 0 then (e, false)
    else
      let target : Int :=
        if bits v 32 10 < share1024 t.clips t.n then need
        else if need ≤ e - 2 ∧ bits v 42 10 < share1024 t.zeros t.n then need + 1
        else e
      let d := target - e
      let d := if 0 < d then min d (bits v 24 3 : Int) else if d < 0 then max d (-(bits v 27 3 : Int)) else d
      (clampInt lo hi (e + d), true)

/-- The scale state record after an update (R213, R216). -/
def scaleRecord (v : Nat) (t : Stats) : Nat :=
  let (e, upd) := scaleNext v t
  let v1 := v - bits v 0 8 + enc 8 e
  if upd then
    v1 - bits v 64 8 * 2 ^ 64 + t.need.toNat * 2 ^ 64 - bits v 72 16 * 2 ^ 72 + min 0xFFFF (bits v 72 16 + 1) * 2 ^ 72
  else v1 - bits v 88 16 * 2 ^ 88 + min 0xFFFF (bits v 88 16 + 1) * 2 ^ 88

/-- CLIP_FAIL is reached (R215). -/
def clipFails (m : Memory) (x : VecTask) (t : Stats) : Bool :=
  let lim := bits (numAt m x.d.state 16) 52 10
  x.scaleUpdate && decide (lim ≠ 0) && decide (lim ≤ share1024 t.clips t.n)

/-- The statistics record, the scale update and the counters of a task (R212, R215, R216). -/
def writeStats (x : VecTask) (t : Stats) (s : State) : State :=
  let hit := clipFails s.mem x t
  let s1 := (s.countElems 0x6005 4 t.clips clsNone).countElems 0x6005 5 t.nans clsNone
  let s2 := if hit then s1.count 0x6005 7 clsFailed else s1
  let s3 := if x.record ∧ x.d.statsV then s2.putMem x.d.stats (statsBytes t hit) else s2
  if x.scaleUpdate then
    let v := numAt s3.mem x.d.state 16
    let s4 := s3.putMem x.d.state (leBytes 16 (scaleRecord v t))
    if enc 8 (scaleNext v t).1 = bits v 0 8 then s4 else s4.addCnt 0x6005 6 1
  else s3

/-- The cycle in which a vector task's results are visible and its signal takes effect (R167). -/
def VecTask.visible (x : VecTask) : Nat := if x.op = .config then x.fin else x.fin + 8

/-- A CONFIG that loaded an image leaves it in every named section (R241). -/
def installImage (x : VecTask) (s : State) : State :=
  match x.op, x.image with
  | .config, some im => s.modEng (fun e => { e with sect := x.unitList.foldl (fun u i => tset noImage u i (some im)) e.sect })
  | _, _ => s

/-- A vector task ends: results, statistics, scale update, failure report, signal, in that order (R212, R216, R569). -/
def endVector (x : VecTask) (s : State) : State :=
  let t := (s.toCycle x.visible).modEng (fun e => { e with vrun := e.vrun.filter (fun y => decide (y.id ≠ x.id)) })
  let t1 := installImage x (x.writes.foldl (fun u w => u.putMem w.1 w.2) t)
  let hit : Bool := match x.stats with | some st => clipFails t1.mem x st | none => false
  let t2 := match x.stats with | some st => writeStats x st t1 | none => t1
  let t3 := if x.fails then t2.count 0x6006 4 clsFailed else t2
  let t4 := if x.broken then t3.count 0x6005 8 clsFailed else t3
  let t5 := if x.fails ∨ x.broken ∨ hit then (t4.opFailed x.ctx x.job x.d.opTag 0).settleHalt else t4
  if x.d.syncV then t5.schedule (t5.clk.cycle + 1) (.signal x.d.sync 1) else t5

/-- VECTOR_TASK_END (R167). -/
def execVectorTaskEnd (task : Nat) (s : State) : Result :=
  .next (match s.eng.vrun.find? (fun x => decide (x.id = task)) with
    | some x => endVector x s
    | none => s)

end Sys2Proof.Machine
end

