-- ==== Sys2Proof/Machine/Memory.lean ====
section
/-!
DEFINITION. The device address range as a master reaches it (R19, R320 to R330, R598): what each byte is, what a read of
it gives, which writes are allowed, and MASTER_ACCESS. Every access is checked whole before any byte is read or written.
-/
namespace Sys2Proof.Machine

/-! ## Objects and tiles (R328, R329) -/

/-- A tile of a record that has not ended (R328 MOVES_PENDING). -/
def TileMove.pending (t : TileMove) : Bool :=
  match t with
  | .reserved _ | .copying _ _ | .deferred _ | .joined | .waiting _ => true
  | _ => false

/-- MOVES_PENDING of an object (R328). -/
def State.movesPending (s : State) (o : Nat) : Nat :=
  ((s.mig.recs.filter (fun r => decide (r.obj = o))).flatMap (fun r =>
    (r.tiles.filter (fun t => t.2.pending)).map (fun t => t.1))).eraseDups.length

/-- The object record of R328. -/
def State.objBytes (s : State) (o : Nat) : List Byte :=
  let x := s.obj o
  leBytes 32 (if x.exist then
      1 + b2n x.held * 2 + x.domain % 16 * 2 ^ 2 + x.hints.toNat * 2 ^ 8 + x.size * 2 ^ 32 + x.tiles * 2 ^ 64
        + x.mapFirst * 2 ^ 80 + x.holdSync.toNat * 2 ^ 112 + x.holdValue.toNat * 2 ^ 128 + x.holdTicks.toNat * 2 ^ 160
        + s.movesPending o % 2 ^ 16 * 2 ^ 192
    else 0)

/-- A tile entry of R329; the whole map reads zero until B5 has cleared it, and while there is no bulk tier. -/
def State.tileBytes (s : State) (i : Nat) : List Byte :=
  let t := s.tileEnt i
  leBytes 16 (if s.mig.tileMapOn ∧ s.mig.bulkSize ≠ 0 then
      t.tier + t.dstTier * 2 ^ 2 + b2n t.moving * 2 ^ 4 + b2n t.dirty * 2 ^ 5 + t.recopies * 2 ^ 6
        + b2n t.poisoned * 2 ^ 8 + t.home * 2 ^ 16 + t.dst * 2 ^ 64
    else 0)

/-! ## Array status and margins (R64 to R67, R95 to R97) -/

/-- STATE as the status region shows it (R65, R67): CONVERTING only as last sampled. -/
def State.shownState (s : State) (n : Nat) : Nat :=
  match (s.array n).st with
  | .idle | .converting => if s.arr.shown.contains n then 1 else 0
  | .programming => 2
  | .quarantined => 3
  | .retired => 4

/-- A BARRED field: valid, slot. -/
def barBits (b : Option (BitVec 8)) : Nat := match b with | some x => x.toNat + 2 ^ 8 | none => 0

/-- The array status record of R65. -/
def State.statusRec (s : State) (n : Nat) : List Byte :=
  let p := s.array n
  leBytes 8 (s.shownState n + b2n p.mapped * 2 ^ 3 + p.qreason.toNat * 2 ^ 4 + p.addrSlot.toNat * 2 ^ 8
    + p.fence.toNat * 2 ^ 16 + b2n p.gen * 2 ^ 18 + b2n p.maint * 2 ^ 19 + barBits p.barred0 * 2 ^ 20
    + barBits p.barred1 * 2 ^ 29 + barBits p.barred2 * 2 ^ 38 + p.redEpoch.toNat * 2 ^ 48)

/-- The address map entry of R66. -/
def State.mapRec (s : State) (a : Nat) : List Byte :=
  let e := s.mapOf a
  leBytes 2 (match e.st with
    | .served => e.phys % 264
    | .moving => e.phys % 264 + 2 ^ 12
    | .unavailable => 2 ^ 13)

/-- A margin entry: both sets (R97). -/
def State.marginRec (s : State) (k : Nat) : List Byte :=
  leBytes 8 (s.mset (k / 32) (k % 32) 0) ++ leBytes 8 (s.mset (k / 32) (k % 32) 1)

/-! ## Stream control blocks (R278 to R287, R314) -/

def Ring.bytes (r : Ring) : List Byte :=
  leBytes 32 (r.base + r.slots * 2 ^ 48 + r.head * 2 ^ 64 + r.tail * 2 ^ 80)

def RecvState.code : RecvState → Nat
  | .attached => 0
  | .detached => 1
  | .off => 2

def Receiver.bytes (r : Receiver) : List Byte :=
  leBytes 32 (r.kind + r.stream * 2 ^ 2 + r.device * 2 ^ 6 + b2n r.lossless * 2 ^ 11 + r.rst.code * 2 ^ 12
    + r.detachLag * 2 ^ 16 + r.rejoinFree * 2 ^ 24 + r.missed * 2 ^ 32 + r.hostBase * 2 ^ 64 + r.hostSlots * 2 ^ 128
    + r.hostTail * 2 ^ 144 + r.hostHead * 2 ^ 160)

/-- SSTATE (R283): an enabled stream is BUSY while it has a current job (log 47). -/
def StreamBlk.sstate (b : StreamBlk) : Nat :=
  match b.st with
  | .disabled => 0
  | .stopping => 3
  | .enabled => if b.cur.isSome then 2 else 1

/-- The stream state of R283. -/
def State.streamState (s : State) (n : Nat) : List Byte :=
  let b := s.stream n
  let d := s.runDry n
  leBytes 32 (b.sstate + b.closedByDone * 2 ^ 3 + b.pushq.length * 2 ^ 6 + b.enqueued.toNat * 2 ^ 16
    + b2n d.isSome * 2 ^ 48 + (match d with | some w => w.toNat | none => 0) * 2 ^ 64 + b.misses.toNat * 2 ^ 96)

/-- The 512 bytes of a stream control block (R278). -/
def State.ctlBytes (s : State) (n : Nat) : List Byte :=
  let b := s.stream n
  b.inb.bytes ++ b.outb.bytes ++ leBytes 32 b.settings.toNat ++ recvNums.flatMap (fun k => (b.recv k).bytes)
    ++ s.streamState n ++ leBytes 128 b.jobReg.toNat ++ List.replicate 128 0

/-! ## What a byte is (R320, R321) -/

/-- The region of one byte of the device address range, with the number of its item and the byte within it. -/
inductive Region where
  | phys (a : Nat)
  | ibuf
  | sync
  | exc
  | ctl (stream off : Nat)
  | owner
  | miss
  | arrRec (n off : Nat)
  | arrMap (n off : Nat)
  | margin (k off : Nat)
  | ageing (n off : Nat)
  | objTab (o off : Nat)
  | tileMap (i off : Nat)
  | nowhere
deriving DecidableEq, Repr

/-- The control window (R321); its gaps belong to no region. -/
def controlRegion (a : Nat) : Region :=
  if ibufBase ≤ a ∧ a < ibufBase + 0x400000 then .ibuf
  else if syncBase ≤ a ∧ a < syncBase + 0x20000 then .sync
  else if excBase ≤ a ∧ a < excBase + 0x2000 then .exc
  else if streamBase ≤ a ∧ a < streamBase + 0x2000 then .ctl ((a - streamBase) / 512) ((a - streamBase) % 512)
  else if streamBase + 0x2000 ≤ a ∧ a < streamBase + 0xA000 then .owner
  else if streamBase + 0xA000 ≤ a ∧ a < streamBase + 0xA400 then .miss
  else if arrayBase ≤ a ∧ a < arrayBase + 0x21000 then .arrRec ((a - arrayBase) / 8) ((a - arrayBase) % 8)
  else if arrayBase + 0x21000 ≤ a ∧ a < arrayBase + 0x29000 then
    .arrMap ((a - arrayBase - 0x21000) / 2) ((a - arrayBase - 0x21000) % 2)
  else if marginBase ≤ a ∧ a < marginBase + 0x840000 then .margin ((a - marginBase) / 16) ((a - marginBase) % 16)
  else if marginBase + 0x840000 ≤ a ∧ a < marginBase + 0x861000 then
    .ageing ((a - marginBase - 0x840000) / 8) ((a - marginBase - 0x840000) % 8)
  else if objectBase ≤ a ∧ a < objectBase + 0x80000 then .objTab ((a - objectBase) / 32) ((a - objectBase) % 32)
  else if tileMapBase ≤ a ∧ a < tileMapBase + 0x1000000 then .tileMap ((a - tileMapBase) / 16) ((a - tileMapBase) % 16)
  else .nowhere

/-- The region of a byte (R320); an object-window byte is the byte of its tile's home (R327). -/
def State.region (s : State) (a : Nat) : Region :=
  if a < bufferSize then .phys a
  else if ibufBase ≤ a ∧ a < ibufBase + 0x10000000 then controlRegion a
  else if s.inBulk a 1 ∨ s.inDeep a 1 then .phys a
  else if objectWindow ≤ a ∧ a < 2 * objectWindow then
    match s.translate a with
    | some p => .phys p
    | none => .nowhere
  else .nowhere

/-! ## Whether a byte can be reached (R322, R391, R513, R526) -/

/-- The answer of one byte's access, from the best to the worst. -/
inductive Reach where
  | ok | waits | gated | fails
deriving DecidableEq, Repr

/-- A physical location of a tier. -/
def State.reachPhys (s : State) (a : Nat) (write : Bool) : Reach :=
  if inBuffer a 1 then (if s.gated blkBuffer then .gated else .ok)
  else if s.inBulk a 1 then
    if s.media.bulkLost then .fails else if s.gated blkBulk then .gated else if s.bulkHeld ∨ s.bulkPaused then .waits else .ok
  else if s.inDeep a 1 then
    if s.media.deepLost ∨ (write ∧ s.media.roDeep) then .fails
    else if s.gated blkDeep then .gated else if s.media.deepHold ∨ (write ∧ s.warned) then .waits else .ok
  else .fails

/-- A region whose block must run. -/
def State.reachBlock (s : State) (b : Nat) (allowed : Bool) : Reach :=
  if !allowed then .fails else if s.gated b then .gated else .ok

/-- One byte. The read-only regions of R19 fail every write. -/
def State.reach (s : State) (a : Nat) (write : Bool) : Reach :=
  match s.region a with
  | .phys p =>
    if objectWindow ≤ a ∧ s.gated blkMigration then .gated else s.reachPhys p write
  | .ibuf | .sync => s.reachBlock blkSeq true
  | .exc => s.reachBlock blkSeq (!write)
  | .ctl _ _ | .owner => s.reachBlock blkStream true
  | .miss => s.reachBlock blkStream (!write)
  | .arrRec _ _ | .arrMap _ _ => if write then .fails else .ok
  | .margin _ _ | .ageing _ _ => s.reachBlock blkReducers (!write)
  | .objTab _ _ => s.reachBlock blkMigration (!write)
  | .tileMap _ _ =>
    if write then .fails
    else if !(s.mig.tileMapOn && decide (s.mig.bulkSize ≠ 0)) then .ok
    else if s.media.bulkLost then .fails else if s.gated blkBulk then .gated else if s.bulkHeld ∨ s.bulkPaused then .waits else .ok
  | .nowhere => .fails

/-- The worse of two answers. -/
def Reach.worse (a b : Reach) : Reach :=
  match a, b with
  | .fails, _ | _, .fails => .fails
  | .gated, _ | _, .gated => .gated
  | .waits, _ | _, .waits => .waits
  | .ok, .ok => .ok

/-- Some byte of an access lies in the sync region and the access is not one aligned 4-byte access. -/
def syncBad (a n : Nat) : Bool :=
  decide (a < syncBase + 0x20000) && decide (syncBase < a + n) && !(decide (n = 4) && decide (a % 4 = 0))

/-- The whole access (R598). -/
def State.reachAll (s : State) (a n : Nat) (write : Bool) : Reach :=
  if 2 ^ 48 < a + n ∨ syncBad a n then .fails
  else (List.range n).foldl (fun r i => r.worse (s.reach (a + i) write)) .ok

/-! ## Reads -/

/-- One byte as a read shows it. -/
def State.seeByte (s : State) (a : Nat) : Byte :=
  match s.region a with
  | .phys p => Memory.byte s.mem p
  | .sync => (leBytes 4 (s.y ((a - syncBase) / 8)).toNat).getD (a % 4) 0
  | .ctl n off => (s.ctlBytes n).getD off 0
  | .arrRec n off => (s.statusRec n).getD off 0
  | .arrMap n off => (s.mapRec n).getD off 0
  | .margin k off => (s.marginRec k).getD off 0
  | .ageing n off => (leBytes 8 (s.ageRecord n).toNat).getD off 0
  | .objTab o off => (s.objBytes o).getD off 0
  | .tileMap i off => (s.tileBytes i).getD off 0
  | _ => Memory.byte s.mem a

/-- What an access on a path gives: it waits for its tier, meets a gated block, fails, is held until a tile commits
(R344), or is done. -/
inductive PathRes where
  | waits
  | gated
  | fails
  | held (s : State)
  | done (s : State) (data : List Byte)
deriving DecidableEq, Repr

/-- The physical address at which an access that starts at `a` lies, when it lies in a tier. -/
def State.physOf (s : State) (a : Nat) : Option Nat := match s.region a with | .phys p => some p | _ => none

/-- A read of `n` bytes (R22, R327, R598), whose data may leave over a cascade link (R301), for a stream. A stream control
block shows what the device has read of its ring (R280, R303). -/
def State.pathRead (s : State) (m : Master) (a n : Nat) (remote : Bool := false) (st : Option Nat := none) : PathRes :=
  if n = 0 then .done s []
  else
    match s.reachAll a n false with
    | .fails => .fails
    | .gated => .gated
    | .waits => .waits
    | .ok =>
      let t := match s.region a with | .ctl k _ => s.readRing k | _ => s
      let data := (List.range n).map (fun i => t.seeByte (a + i))
      match s.physOf a with
      | some p => .done ((s.noteTier p n (if remote then 2 else Master.cls m false) st).noteRead p n) data
      | none => .done t data

/-! ## Writes -/

/-- Replace bytes of a list from an offset. -/
def overlay (img : List Byte) (off : Nat) (bs : List Byte) : List Byte :=
  img.take off ++ bs ++ img.drop (off + bs.length)

/-- A field of bytes as a number. -/
def imgNum (img : List Byte) (off n : Nat) : Nat := leNat ((img.drop off).take n)

/-- The defined bits of the stream settings (R284). -/
def settingsMask : Nat := 0xFFFF7FFF03FFFFF7

/-- An access of bytes [off, off + n) touches [lo, hi). -/
def touches (off n lo hi : Nat) : Bool := decide (off < hi) && decide (lo < off + n)

/-- The ring descriptors and settings of a DISABLED stream as a new image gives them (R278). -/
def StreamBlk.configure (b : StreamBlk) (img : List Byte) : StreamBlk :=
  { b with
    inb := { b.inb with base := bits (imgNum img 0 8) 0 48, slots := bits (imgNum img 0 8) 48 7 }
    outb := { b.outb with base := bits (imgNum img 0x20 8) 0 48, slots := bits (imgNum img 0x20 8) 48 7 }
    settings := BitVec.ofNat 256 (imgNum img 0x40 8) &&& BitVec.ofNat 256 settingsMask }

/-- The part of a write that touches receiver entry `k`: HOST_HEAD alone, or the entry, which into an ATTACHED one of an
enabled stream must write KIND (R317). -/
def ctlRecv (n off : Nat) (bs img : List Byte) (k : Nat) (s : State) : Option State :=
  let lo := 0x60 + 32 * k
  if !touches off bs.length lo (lo + 32) then some s
  else if off = lo + 20 ∧ bs.length = 2 then hostHeadOk n k (leNat bs) s
  else if (s.stream n).st ≠ .disabled ∧ ((s.stream n).recv k).rst = .attached ∧ !touches off bs.length lo (lo + 1) then none
  else recvEntryWrite n k (imgNum img lo 32) s

/-- A write into one stream control block (R278, R280, R282, R317): none where it fails. -/
def ctlWrite (n off : Nat) (bs : List Byte) (s : State) : Option State :=
  let len := bs.length
  let b := s.stream n
  let img := overlay (s.ctlBytes n) off bs
  let setup := touches off len 0 8 || touches off len 0x20 0x28 || touches off len 0x40 0x60
  if 512 < off + len ∨ touches off len 8 10 ∨ touches off len 0x28 0x2C ∨ touches off len 0xE0 0x200 then none
  else if setup ∧ b.st ≠ .disabled then none
  else
    let s1 := if setup then s.setStream n (b.configure img) else s
    let s2 := if touches off len 10 12 then tailWrite n (imgNum img 10 2) s1 else some s1
    recvNums.foldl (fun o k => o.bind (ctlRecv n off bs img k)) s2

/-- A bundle's bits before a write are kept for as long as a fetch may still have seen them (R169). -/
def State.keepBundle (s : State) (i : Nat) : State :=
  let now := s.clk.cycle
  s.modSeq (fun q => { q with
    recent := q.recent.filter (fun r => decide (now ≤ r.1 + 16)) ++ [(now, i, recordAt s.mem (ibufBase + 64 * i))] })

/-- A write into the instruction buffer (R168). -/
def ibufWrite (a : Nat) (bs : List Byte) (s : State) : State :=
  let lo := (a - ibufBase) / 64
  let hi := (a + bs.length - 1 - ibufBase) / 64
  ((List.range (hi + 1 - lo)).foldl (fun u i => u.keepBundle (lo + i)) s).putMem a bs

/-- A write of the owner table: the reserved bits stay zero (R309). -/
def ownerWrite (a : Nat) (bs : List Byte) (s : State) : State :=
  s.putMem a (bs.zipIdx.map (fun p => if (a + p.2) % 2 = 1 then p.1 &&& 0x81#8 else p.1))

/-- A write of VALUE sets the object, a write of ADD adds to it (R145). -/
def syncWrite (a : Nat) (bs : List Byte) (s : State) : State :=
  let n := (a - syncBase) / 8
  let v := BitVec.ofNat 32 (leNat bs)
  if a % 8 = 0 then s.ySet n v else s.yAdd n v

/-- Cut bytes at tile boundaries. -/
def cutTiles : Nat → Nat → List Byte → List (Nat × List Byte)
  | 0, _, _ => []
  | f + 1, a, bs =>
    if bs = [] then []
    else
      let k := tileSize - a % tileSize
      (a, bs.take k) :: cutTiles f (a + k) (bs.drop k)

/-- The pieces of an access, one per tile. -/
def pieces (a : Nat) (bs : List Byte) : List (Nat × List Byte) := cutTiles (bs.length / tileSize + 2) a bs

/-- An object-window write to a moving tile sets DIRTY (R329, R344). -/
def State.dirtyTile (s : State) (a : Nat) : State :=
  match (if objectWindow ≤ a then s.tileOf a else none) with
  | some i => if (s.tileEnt i).moving then s.setTile i { s.tileEnt i with dirty := true } else s
  | none => s

/-- Write one piece to its tier. -/
def State.writePiece (s : State) (m : Master) (a : Nat) (bs : List Byte) (st : Option Nat) : State :=
  match s.physOf a with
  | some p => ((s.dirtyTile a).noteTier p bs.length (Master.cls m true) st).writePhys p bs
  | none => s

/-- Earlier writes of the tile are still held. -/
def State.tileBehind (s : State) (o k : Nat) : Bool :=
  s.mig.held.any (fun h => decide (h.obj = o) && decide (h.tile = k) && !h.applied)

/-- The tile of a piece is in the copy that follows RECOPIES = 2, or holds earlier writes back: its object-window writes are
held, in acceptance order (R344 step 3). -/
def State.heldTile (s : State) (a : Nat) : Bool :=
  match (if objectWindow ≤ a then s.tileOf a else none) with
  | some i => ((s.tileEnt i).moving && decide ((s.tileEnt i).recopies = 2)) || s.tileBehind (objOf a) (objByte a / tileSize)
  | none => false

/-- A held piece of the access that a unit repeats: the same unit, address and bytes. -/
def State.heldAgain (s : State) (m : Master) (a : Nat) (bs : List Byte) : Option HeldWrite :=
  s.mig.held.find? (fun h => h.again && decide (h.master = m) && decide (h.start = a)
    && decide (h.data = (bs.drop (objectWindow + h.obj * 2 ^ 30 + h.offset - a)).take h.data.length))

/-- Every held piece of an access has been written. -/
def State.heldDone (s : State) (access : Nat) : Bool :=
  s.mig.held.all (fun h => decide (h.access ≠ access) || h.applied)

/-- Drop the held pieces of an access. -/
def State.dropHeldWrite (s : State) (access : Nat) : State :=
  s.modMig (fun g => { g with held := g.held.filter (fun h => decide (h.access ≠ access)) })

/-- A unit that gives up its access leaves no held write behind. -/
def State.dropTickets (s : State) (m : Master) : State :=
  s.modMig (fun g => { g with held := g.held.filter (fun h => !(h.again && decide (h.master = m))) })

/-- A write into the tiers: the pieces in a tile that holds writes back are held, the others are written (R22, R344). -/
def State.tierWrite (s : State) (m : Master) (a : Nat) (bs : List Byte) (st : Option Nat) (again : Bool) : PathRes :=
  let hs := (pieces a bs).filter (fun p => s.heldTile p.1)
  let t := ((pieces a bs).filter (fun p => !s.heldTile p.1)).foldl (fun u p => u.writePiece m p.1 p.2 st) s
  if hs = [] then .done t []
  else
    .held (((t.modMig (fun g => { g with
      held := g.held ++ hs.map (fun p => { obj := objOf p.1, tile := objByte p.1 / tileSize, master := m, offset := objByte p.1,
                                           data := p.2, again := again, applied := false, access := s.nextId, start := a,
                                           stream := st }) })).takeId).addCnt 0x6009 3 1)

/-- A write of bytes (R22, R19, R278, R344, R598), for a stream (R301). A unit that asks again for a held write finds it
still held, or its bytes written in their turn. -/
def State.pathWrite (s : State) (m : Master) (a : Nat) (bs : List Byte) (st : Option Nat := none) (again : Bool := false) :
    PathRes :=
  if bs = [] then .done s []
  else
    match s.reachAll a bs.length true with
    | .fails => .fails
    | .gated => .gated
    | .waits => .waits
    | .ok =>
      match s.region a with
      | .phys _ =>
        match (if again then s.heldAgain m a bs else none) with
        | some h => if s.heldDone h.access then .done (s.dropHeldWrite h.access) [] else .held s
        | none => s.tierWrite m a bs st again
      | .ibuf => .done (ibufWrite a bs s) []
      | .sync => .done (syncWrite a bs s) []
      | .owner => .done (ownerWrite a bs s) []
      | .ctl n off => match ctlWrite n off bs s with | some t => .done t [] | none => .fails
      | _ => .fails

/-! ## Clocks that an access crosses (R504) -/

/-- The ratio between the interconnect's clock and that of an address: SEQ_CLK for the buffer tier and the control window,
NAND_CLK for the deep tier (R502). -/
def State.ratioAt (s : State) (a : Nat) : BitVec 3 :=
  match s.region a with
  | .phys p => if inBuffer p 1 then 1 else if s.inDeep p 1 then 4 else 0
  | .nowhere => 0
  | _ => 1

/-- The ratios that an access of a master crosses: a management core's own clock is MGMT_CLK, the bundle stream's SEQ_CLK. -/
def State.ratios (s : State) (m : Master) (a : Nat) : BitVec 3 :=
  let r := s.ratioAt a
  match m with
  | .core _ => 2 ||| r
  | .bundle => if r = 1 then 0 else 1 ||| r
  | _ => r

/-! ## MASTER_ACCESS -/

/-- An access fails on its path: answered, and counted for PCI Express (R475). -/
def pathFails (m : Master) (s : State) : State := pathAnswer m s none

/-- A read fails on its path: to PCI Express it is answered with bytes of 0xFF (R475). -/
def readFails (m : Master) (n : Nat) (s : State) : State :=
  match m with
  | .host => (s.emit (.readData .host (List.replicate n 0xFF))).count 0x600D 1 clsFailed
  | _ => pathFails m s

/-- An access of PCI Express that fails on its path (R475). -/
def hostFails (a : Access) (s : State) : State :=
  match a with | .read n => readFails .host n s | .write _ => pathFails .host s

/-- An access of a master on its path (R598). One that waits for its tier is accepted when the tier is free: until then
nothing changes (log 30). -/
def accessPath (m : Master) (a : Nat) (acc : Access) (s : State) : State :=
  match acc with
  | .read n =>
    match s.pathRead m a n with
    | .done t d => t.emit (.readData m d)
    | .waits => s
    | _ => readFails m n s
  | .write bs =>
    match s.pathWrite m a bs with
    | .done t _ => t.emit (.pathOk m)
    | .held t => t
    | .waits => s
    | _ => pathFails m s

/-- How many bytes an access names. -/
def accessLen (a : Access) : Nat := match a with | .read n => n | .write bs => bs.length

/-- An access with other bytes. -/
def alterBytes (s : State) (a : Access) : Access :=
  match a with
  | .read n => .read n
  | .write bs => .write (s.freeBytes bs.length)

/-- An access that reaches another address with other bytes (R504). -/
def alteredAccess (m : Master) (a : Access) (s : State) : State :=
  accessPath m s.freeAddr (alterBytes s a) (s.takeFrees (1 + accessLen a))

def execMasterAccess (m : Master) (addr : BitVec 48) (a : Access) (s : State) : Result :=
  crossing (s.ratios m addr.toNat) s (accessPath m addr.toNat a) (alteredAccess m a)

end Sys2Proof.Machine
end

