-- ==== Sys2Proof/Machine/Media.lean ====
section
/-!
DEFINITION. How each medium is written (R358 to R394): programming and erasing arrays, array writes, rebuilds (R75), the
store plane, and the board NAND behind the flash translation layer.
-/
namespace Sys2Proof.Machine

/-! ## Programming (R358 to R364) -/

/-- A row failure (R362): the tile is abandoned and the array erased; the third failure of a tile retires the array. -/
def rowFailure (n : Nat) (s : State) : State :=
  let t := s.count 0x600A 1 clsRecovered
  let f := (s.array n).failures + 1
  if 3 ≤ f then (t.retire n 0).arrayLost n
  else t.modArray n (fun p => { p with failures := f, eraseOpen := true, loops := 0 })

/-- Every row is written: the array is IDLE, to be measured and rebuilt (R113, R368 step 4). -/
def programmed (n : Nat) (s : State) : State :=
  let t := s.modArray n (fun p => { p with st := .idle, progOpen := false, source := none, failures := 0, fresh := true })
  State.grantHv { t with awr := { t.awr with ws := t.awr.ws.map (fun w => { w with
      addrs := modBy (fun a => decide (a.array = some n)) (fun a => { a with st := .measuring }) w.addrs }) } }

/-- The row in progress passes: its codes and reference weights are held and DONE is programmed (R358, R359, R363). -/
def rowPass (n : Nat) (s : State) : State :=
  let p := s.array n
  let cs := match p.source with | some t => (t.drop (512 * p.rowsDone)).take 512 | none => []
  let t := ((s.setCells (n * 262144 + 512 * p.rowsDone) cs).setRefs n p.rowsDone).modArray n (fun q => { q with
    rowsDone := q.rowsDone + 1, loops := 0 })
  if p.rowsDone + 1 = 512 then programmed n t else t

/-- One loop on the present row (R362, R363). -/
def pulse (n : Nat) (inWindow : Bool) (s : State) : State :=
  let p := s.array n
  if p.loops = 0 ∧ p.rowsDone < p.rowsOpen then rowFailure n (s.addCnt 0x600A 2 1)
  else
    let t := s.modArray n (fun q => { q with loops := q.loops + 1, rowsOpen := q.rowsDone + 1 })
    if inWindow then rowPass n t else if p.loops + 1 = 16 then rowFailure n t else t

/-- PULSE_VERIFY_LOOP: on an array whose bank's high-voltage unit serves it, its PROGRAM_OPEN mark committed (R360, R384). -/
def execPulseVerifyLoop (array : Nat) (rowInWindow : Bool) (s : State) : Result :=
  let p := s.array array
  .next (if p.st = .programming ∧ p.source.isSome ∧ !p.eraseOpen ∧ !s.warned ∧ s.arr.hv.contains array
      ∧ s.programCommitted array then
    pulse array rowInWindow s
  else s)

/-- ARRAY_ERASE_END: the erase before a program, after a row failure or of an abandoned program ends with its erase-verify; its
ERASE_OPEN mark has been committed (R359, R364, R384). An array without a tile to program is IDLE again. -/
def execArrayEraseEnd (array : Nat) (verify : Bool) (s : State) : Result :=
  let p := s.array array
  .next (if p.st = .programming ∧ p.eraseOpen ∧ s.arr.hv.contains array ∧ s.eraseCommitted array then
    let t := (s.erased array).modArray array (fun q =>
      if q.source.isSome then { q with progOpen := true } else { q with st := .idle })
    if !verify then (t.retire array 0).arrayLost array else if p.source.isSome then t else t.grantHv
  else s)

/-- A supply warning stops every tile being programmed: it gives up its high-voltage unit, and it is erased and programmed
again from row 0 after the warning, which does not count toward R362. An erase in progress keeps its unit (R394). -/
def State.warnPrograms (s : State) : State :=
  s.arr.hv.foldl (fun t n =>
    let p := s.array n
    let u := if p.st = .programming ∧ p.eraseOpen then t else t.modArr (fun a => { a with hv := a.hv.erase n })
    if p.st = .programming ∧ !p.eraseOpen ∧ (p.loops ≠ 0 ∨ p.rowsOpen ≠ 0) then
      (u.modArray n (fun q => { q with eraseOpen := true, loops := 0 })).count 0x600A 5 clsRecovered
    else u) s

/-! ## Array write records (R366, R367) -/

def awInstall (v : Nat) : Bool := decide (bits v 0 2 = 0)
def awCount (v : Nat) : Nat := bits v 19 13
def awListAddr (v : Nat) : Nat := bits v 64 48
def awSrc (v : Nat) : Nat := bits v 128 48
def awResult (v : Nat) : Nat := bits v 192 48

/-- The addresses of the list. -/
def awAddrs (m : Memory) (v : Nat) : List Nat :=
  (List.range (awCount v)).map (fun i => numAt m (awListAddr v + 2 * i) 2)

/-- A field of the record is refused (R366, R367 row 1). -/
def State.awRange (s : State) (v : Nat) : Bool :=
  let n := awCount v
  let l := awAddrs s.mem v
  decide (2 ≤ bits v 0 2) || decide (n = 0) || decide (4096 < n) || decide (awListAddr v % 2 ≠ 0)
    || !inBuffer (awListAddr v) (2 * n) || decide (awSrc v % 64 ≠ 0) || !s.inBufBulk (awSrc v) (n * tileSize)
    || (bit v 3 && (decide (awResult v % 16 ≠ 0) || !s.inBufBulk (awResult v) 16))
    || l.any (fun a => decide (16383 < a)) || decide (l.eraseDups.length ≠ l.length)

/-- Arrays for addresses in list order, each the lowest that R62 allows and none twice; none when a bank lacks one. -/
def State.assign (s : State) : List Nat → List Nat → Option (List Nat)
  | [], got => some got
  | a :: t, got =>
    match (bankArrays (a / 256)).find? (fun n =>
        (s.array n).free && !s.taken n && !(s.array n).barred (a % 256) && !got.contains n) with
    | some n => s.assign t (got ++ [n])
    | none => none

/-- Library tiles neither in use nor reserved (R376, R396). -/
def State.libraryFree (s : State) : Nat := 40448 - s.media.lib.length - s.media.libReserved

/-- An address is in an array write in progress, or MOVING for a rewrite (R367). -/
def State.awBusy (s : State) (a : Nat) : Bool :=
  s.awr.ws.any (fun w => w.addrs.any (fun x => decide (x.addr = a))) ||
    (match s.moveOf a with | some h => decide (h.kind ≠ .refresh) | none => false)

/-- The busy rows of R367, for some addresses. -/
def State.awRefusedBusy (s : State) (install lib : Bool) (l : List Nat) : Bool :=
  decide (4 ≤ s.awr.ws.length) || l.any (fun a => s.awBusy a) || (!install && (s.assign l []).isNone)
    || (lib && decide (s.libraryFree < l.length))

/-- Why a record is refused; 0 when it is not (R366, R367, R521, R560). -/
def State.awRefused (s : State) (a : Nat) : Nat :=
  if a % 64 ≠ 0 ∨ !inBuffer a 64 then abRange
  else
    let v := numAt s.mem a 64
    if s.awRange v then abRange
    else if !s.acceptsWork ∨ s.awRefusedBusy (awInstall v) (bit v 2) (awAddrs s.mem v) then abBusy
    else 0

/-! ## Scan and take (R365, R368, R370) -/

/-- The row of the first 0x8 pattern of a tile. -/
def badRow (cs : List (BitVec 4)) : Option Nat := (cs.findIdx? (fun c => decide (c = 8))).map (fun i => i / 512)

/-- The first address, with its row, whose source holds a 0x8 pattern. -/
def firstBad : List (Nat × List (BitVec 4)) → Option (Nat × Nat)
  | [] => none
  | (a, cs) :: t => match badRow cs with | some r => some (a, r) | none => firstBad t

/-- A refresh in progress on an address is abandoned (R117, R367). -/
def State.dropRefresh (s : State) (a : Nat) : State :=
  match s.moveOf a with | some h => if h.kind = .refresh then s.abandon h else s | none => s

/-- An INSTALL takes one address out of service: its own array is programmed in place once it is IDLE (R69, R368), or,
without one, it takes a free array (R370). -/
def takeInstall (id : Nat) (x : AwAddr) (s : State) : State :=
  let e := s.mapOf x.addr
  if e.st = .unavailable then (s.releaseRebuild x.addr).installTake id x.addr x.tile
  else
    ((s.makeUnavailable x.addr).modArray e.phys (fun p => { p with mapped := false, addrSlot := 0 })).setAw id x.addr
      (fun a => { a with array := some e.phys, st := .taken })

/-- A REWRITE takes a mirror for one address, which becomes MOVING unless it has no old home. -/
def takeMirror (id : Nat) (x : AwAddr) (s : State) : State :=
  match s.chooseArray x.addr with
  | none => s
  | some m =>
    let e := s.mapOf x.addr
    let t := if e.st = .unavailable then s.releaseRebuild x.addr else s.setMap x.addr { e with st := .moving }
    (t.setAw id x.addr (fun a => { a with array := some m })).startProgram m x.tile

/-- The handover set of a REWRITE (R116). -/
def State.rewriteSet (s : State) (id : Nat) : State :=
  match s.awr.ws.find? (fun w => decide (w.id = id)) with
  | none => s
  | some w =>
    s.modArr (fun a => { a with moves := a.moves ++ [{
      id := id, kind := .rewrite id, members := w.addrs.filterMap (fun x => x.array.map (fun m => (x.addr, m))),
      ready := [], since := none, forced := false }] })

/-- The library tile of one address is written: its transaction waits for the store plane (R371, R380). -/
def writeLibrary (id : Nat) (x : AwAddr) (s : State) : State :=
  let t := s.setAw id x.addr (fun a => { a with lib := some s.nextId })
  (t.modMedia (fun m => { m with waiting := m.waiting ++ [{
    part := .library, item := s.nextId, blocks := [], twins := [], pages := 0, data := .tile s.nextId x.tile
    committed := false }] })).takeId

/-- An array write that has been accepted starts: the scan, then every address is taken (R368 steps 1 and 2). -/
def startWrite (w : ArrayWrite) (readable : Bool) (s : State) : State :=
  let add := fun (x : ArrayWrite) => { s with awr := { s.awr with ws := s.awr.ws ++ [x] } }
  let ended := fun (st a r : Nat) => add { w with
    status := st, failAddr := a, row := r, addrs := w.addrs.map (fun x => { x with st := .lost }) }
  if !readable then ended 2 ((w.addrs.map (fun x => x.addr)).headD 0) 0
  else
    match firstBad (w.addrs.map (fun x => (x.addr, x.tile))) with
    | some (a, r) => ended 1 a r
    | none =>
      let t := w.addrs.foldl (fun u x => u.dropRefresh x.addr) (add w)
      let t1 := if w.install then w.addrs.foldl (fun u x => takeInstall w.id x u) t
        else (w.addrs.foldl (fun u x => takeMirror w.id x u) t).rewriteSet w.id
      (if w.lib then w.addrs.foldl (fun u x => writeLibrary w.id x u) t1 else t1).settle

/-- The bytes of a range of the buffer or the bulk tier can be read. -/
def State.readableRange (s : State) (a n : Nat) : Bool :=
  if inBuffer a n then !s.gated blkBuffer else s.inBulk a n && !s.media.bulkLost && !s.gated blkBulk

/-- A write of ARRAY_WRITE (R366). -/
def wArrayWrite (v : Nat) (s : State) : WriteRes :=
  let a := bits v 0 48
  let c := s.awRefused a
  if c ≠ 0 then (c, s)
  else
    let r := numAt s.mem a 64
    let l := awAddrs s.mem r
    let w : ArrayWrite := {
      id := s.nextId, install := awInstall r, lib := bit r 2, resultV := bit r 3, syncV := bit r 4, sync := fld r 5 14,
      src := awSrc r, resultAddr := awResult r,
      addrs := l.zipIdx.map (fun p => {
        addr := p.1, array := none, st := .programming, tile := tileCodes s.mem (awSrc r + p.2 * tileSize), lib := none })
      status := 0, failAddr := 0, row := 0, byMove := none, committed := false }
    let t := s.takeId.modMedia (fun m => { m with libReserved := m.libReserved + if w.lib then l.length else 0 })
    (0, startWrite w (s.readableRange w.src (l.length * tileSize))
      (t.noteTier w.src (l.length * tileSize) 0 none))

/-- ARRAY_WRITE_INSTALL: the write of ARRAY_WRITE whose record says INSTALL. -/
def execArrayWriteInstall (m : Master) (addr : DWord) (s : State) : Result :=
  entryWrite m 0x3200 1 8 addr.toNat (wArrayWrite addr.toNat) s

/-- ARRAY_WRITE_REWRITE: the write of ARRAY_WRITE whose record says REWRITE. -/
def execArrayWriteRewrite (m : Master) (addr : DWord) (s : State) : Result :=
  entryWrite m 0x3200 1 8 addr.toNat (wArrayWrite addr.toNat) s

/-! ## Commit and result (R368 steps 6 and 7, R371, R372) -/

/-- STATUS: as the scan found it, else VERIFY when an address has no new tile (R369). -/
def ArrayWrite.result (w : ArrayWrite) : Nat :=
  if w.status ≠ 0 then w.status else if w.addrs.any (fun a => decide (a.st = .lost)) then 3 else 0

/-- FIRST_ADDR (R372). -/
def ArrayWrite.firstAddr (w : ArrayWrite) : Nat :=
  if w.status ≠ 0 then w.failAddr
  else match w.addrs.find? (fun a => decide (a.st = .lost)) with | some a => a.addr | none => 0

/-- DONE_COUNT (R372). -/
def ArrayWrite.done (w : ArrayWrite) : Nat := (w.addrs.filter (fun a => decide (a.st = .served))).length

/-- The result word of R372. -/
def ArrayWrite.word (w : ArrayWrite) (ticks : Word) : List Byte :=
  leBytes 16 (w.result + b2n w.lib * 2 ^ 8 + w.firstAddr * 2 ^ 32 + w.row * 2 ^ 48 + w.done * 2 ^ 64
    + ticks.toNat * 2 ^ 96)

/-- The MEDIA partition has committed the write, or nothing of it is to be committed: no address of it is served (R368 step
6). -/
def ArrayWrite.ends (w : ArrayWrite) : Bool := w.settled && (w.committed || decide (w.done = 0))

/-- A write whose commit stands writes its result word and signals; library tiles that it reserved and did not write are
reserved no more. -/
def endWrite (w : ArrayWrite) (s : State) : State :=
  let left := (w.addrs.filter (fun a => !s.libHolds a)).length
  let t1 : State := { s with awr := { s.awr with ws := s.awr.ws.filter (fun x => decide (x.id ≠ w.id)) } }
  let t2 := t1.freeLibrary.modMedia (fun m => { m with libReserved := m.libReserved - if w.lib then left else 0 })
  let t3 := if w.result = 0 then t2 else t2.addClass clsFailed
  let t4 := if w.resultV then t3.writeNoted w.resultAddr (w.word t3.tick32) 1 none else t3
  if w.syncV then t4.signal w.sync else t4

/-! ## Rebuild from the library (R75) -/

/-- ADDRESS_REBUILD: an UNAVAILABLE address takes a new array under R62 and its tile is rebuilt there from the model
library; the programs, the measurement and the service on it follow as for an array write. Without a library entry the
address stays as it is. -/
def execAddressRebuild (addr : BitVec 14) (s : State) : Result :=
  let a := addr.toNat
  .next (match s.libTile a with
    | none => s
    | some tile =>
      if (s.mapOf a).st ≠ .unavailable ∨ (s.moveOf a).isSome ∨ s.awBusy a ∨ (s.rebuildOf a).isSome then s
      else (s.rebuildTake a tile).grantHv)

/-! ## The store plane (R376 to R383) -/

/-- STORE_PAGE_PROGRAM_END: one page of the transaction under way is programmed at the block's write pointer; its last page
commits it (R380). A page that fails its program status ends the use of the block, whose transactions are rewritten
elsewhere. A request below the write pointer is refused: the block is closed and its transactions rewritten elsewhere; a
program goes to no page beyond it (R393). While a rail is in warning no page program starts (R394). -/
def execStorePageProgramEnd (block page : Nat) (statusOk : Bool) (last : Bool) (s : State) : Result :=
  let b := s.storeBlk block
  .next (if b.bad ∨ b.eraseOpen ∨ b.erasing ∨ s.markedErase block ∨ s.partOf block = none then s
    else if page < b.wp then
      (((s.modBlk block (fun q => { q with wp := s.blockPages block })).vacate block).releaseStore block).count 0x600A 11 clsFailed
    else
      match s.storeTx block with
      | none => s
      | some x =>
        if b.wp < page ∨ s.blockPages block ≤ page ∨ !s.mayProgram then s
        else
          let t := s.modMedia (fun m => { m with pageRuns := false })
          if !statusOk then (t.failBlk block).vacate block
          else
            let y := { x with pages := x.pages + 1 }
            if y.ends last then commitTx y (t.fillBlk block 1)
            else (t.modBlk block (fun q => { q with wp := q.wp + 1 })).modMedia (fun m => { m with writing := some y }))

/-- The arrays whose sets a lost transaction of the backing copy holds are reported unreadable (R379). -/
def State.loseSets (s : State) (block item : Nat) : State :=
  let ns := (s.media.trans.filter (fun t => t.lies block && decide (t.item = item))).flatMap (fun t => t.backs)
  s.modMedia (fun m => { m with marginLost := (m.marginLost ++ ns).eraseDups })

/-- A lost page (R379, R549); a MEDIA transaction is restored from its second copy. -/
def lostPage (part : Partition) (block item : Nat) (s : State) : State :=
  let t := s.count 0x600A 6 clsFailed
  match part with
  | .library =>
    let ks := (t.media.trans.filter (fun x => x.lies block && decide (x.item = item))).filterMap (fun x => x.tile?)
    (t.modMedia (fun m => { m with
      index := m.index.filter (fun q => !ks.any (fun k => decide (q.2 = some k))) })).freeLibrary
  | .margin => t.loseSets block item
  | .firmware => t.modBoot (fun b => { b with imageLost := true })
  | .ledger =>
    let rs := (t.media.trans.filter (fun x => x.lies block && decide (x.item = item))).filterMap (fun x =>
      match x.data with | .ledger r _ => some r | _ => none)
    (t.modBoot (fun b => { b with
      ring := b.ring.filter (fun r => !rs.contains r)
      ringLost := b.ringLost || rs.any (fun r => decide (b.ring.getLast? = some r)) })).modMedia (fun m => { m with
        trans := dropBy (fun x => x.lies block && decide (x.item = item)) m.trans })
  | .media => t.rewriteStore block item

/-- An erase in the plane of a block keeps a read there waiting: it is under way and not suspended (R382). -/
def State.planeErases (s : State) (b : Nat) : Bool :=
  s.media.blk.any (fun p => samePlane p.1 b && p.2.erasing && !p.2.suspended)

/-- Suspended erases in the plane of a block resume when a read there ends (R382). -/
def State.resumeErases (s : State) (b : Nat) : State :=
  s.modMedia (fun m => { m with
    blk := m.blk.map (fun p => (p.1, if samePlane p.1 b then { p.2 with suspended := false } else p.2)) })

/-- STORE_PAGE_READ_END: a page is read, and the erases in its plane that were suspended for it resume; more than 36
corrected bits have its transaction rewritten to a fresh block (R379, R382). A block with ERASE_OPEN is not read as data
(R383), and a read waits while an erase in its plane is not suspended. -/
def execStorePageReadEnd (part : Partition) (block : Nat) (item : Nat) (correctedBits : Nat) (lost : Bool) (s : State) :
    Result :=
  .next (if s.planeErases block ∨ (s.storeBlk block).eraseOpen then s
    else
      let t := s.resumeErases block
      if lost ∨ 72 < correctedBits then lostPage part block item t
      else if 36 < correctedBits then (t.rewriteStore block item).count 0x600A 7 clsCorrected
      else t)

/-- STORE_BLOCK_ERASE_END: a block that no committed transaction lies in, whose ERASE_OPEN mark is committed, is erased; the
next MEDIA update clears the mark; one that fails erase-verify is replaced (R376, R383). No erase starts while a rail is in
warning, and one under way is suspended (R394). -/
def execStoreBlockEraseEnd (block : Nat) (verify : Bool) (s : State) : Result :=
  let b := s.storeBlk block
  .next (if b.bad ∨ b.suspended ∨ s.mediaHeld ∨ s.holdsData block ∨ !b.eraseOpen ∨ !s.markedErase block then s
    else
      let t := s.modBlk block (fun q => { q with
        erases := q.erases + 1, eraseOpen := !verify, wp := 0, erasing := false, suspends := 0 })
      if verify then t else t.failBlk block)

/-- STORE_ERASE_SUSPEND: an erase under way is suspended to serve a read in its plane, at most 16 times (R382); its ERASE_OPEN
mark stands (R383). -/
def execStoreEraseSuspend (block : Nat) (s : State) : Result :=
  let b := s.storeBlk block
  .next (if b.bad ∨ b.suspended ∨ 16 ≤ b.suspends ∨ !b.erasing then s
    else s.modBlk block (fun q => { q with suspended := true, suspends := q.suspends + 1 }))

/-- 24 hours in ticks. -/
def dayTicks : Nat := 24 * 3600 * 25000000

/-- STORE_SCRUB: the daily read of every written page starts (R379); its pages end in STORE_PAGE_READ_END. -/
def execStoreScrub (s : State) : Result :=
  let t := s.toTick (s.media.lastScrub + dayTicks)
  .next (t.modMedia (fun m => { m with lastScrub := t.clk.ticks }))

/-! ## The deep tier (R387 to R392) -/

/-- DEEP_WRITE: a master's write to the deep tier completes when it is programmed and logged (R388). -/
def execDeepWrite (m : Master) (addr : BitVec 48) (data : List Byte) (s : State) : Result :=
  crossing (s.ratios m addr.toNat) s
    (fun t => if s.inDeep addr.toNat data.length then accessPath m addr.toNat (.write data) t else pathFails m t)
    (alteredAccess m (.write data))

/-- The FTL issues programs and erases: not during a warning, nor while its clock is held (R394, R510). -/
def State.ftlRuns (s : State) : Bool := !s.warned && !s.media.deepHold && !s.media.deepLost && !s.gated blkDeep

/-- A LOGGED extent is due to be merged: its log holds 16 tiles, or the deep tier is idle (R387). -/
def State.mergeDue (s : State) (e : Nat) : Bool := decide (16 ≤ (s.ext e).log.length) || decide (s.deepQ.reqs = [])

/-- FTL_MERGE: a LOGGED extent that is due starts to be merged, and one that is RELOCATING becomes whole in its new location
(R387). -/
def execFtlMerge (extent : BitVec 18) (s : State) : Result :=
  let e := extent.toNat
  .next (if !s.ftlRuns then s
    else
      match (s.ext e).st with
      | .logged => if s.mergeDue e then s.relocate false e else s
      | .relocating => s.switchExt e
      | _ => s)

/-- The erase counts of the blocks in use. -/
def State.usedErases (s : State) : List Nat := s.usedBlocks.map (fun b => (s.nandBlk b).erases)

/-- The extent with a base location that has gone longest unwritten. -/
def State.oldestExtent (s : State) : Option Nat :=
  (s.media.ext.foldl (fun best p =>
    if !p.2.based then best
    else match best with
      | none => some (p.1, p.2.written)
      | some q => if p.2.written < q.2 then some (p.1, p.2.written) else some q) (none : Option (Nat × Nat))).map
    (fun q => q.1)

/-- WEAR_LEVEL_MOVE: when the erase counts in use differ by more than WEAR_SPREAD, the extent longest unwritten moves onto
the most-worn free block (R389). -/
def execWearLevelMove (s : State) : Result :=
  let l := s.usedErases
  .next (match s.oldestExtent with
    | some e =>
      if s.ent? 0x4600 7 < l.foldl max 0 - l.foldl min (l.headD 0) ∧ s.ftlRuns then
        (s.relocate true e).noteTier (deepBase + e * 0x400000) 0x400000 1 none
      else s
    | none => s)

/-- The extents that have a base location or a logged tile in a block. -/
def State.extentsIn (s : State) (b : Nat) : List Nat :=
  s.media.ext.filterMap (fun p =>
    if (p.2.based ∧ p.2.block = b) ∨ (p.2.log ++ p.2.merging).any (fun x => decide (x.2 = b)) then some p.1 else none)

/-- A tile whose home is a deep-tier location becomes POISONED (R348, R390). -/
def State.poisonAt (s : State) (loc : Nat) : State :=
  match s.mig.tiles.find? (fun p => decide (p.2.tier = 3) && decide (p.2.home = loc)) with
  | some p => (s.setTile p.1 { p.2 with poisoned := true }).addCnt 0x6009 8 1
  | none => s

/-- READ_DISTURB_RELOCATE: the extents that a block holds move, once its reads since its last erase have reached
READ_DISTURB_LIMIT, or a read corrected more than 75 % of the code's capability, which `weak` says (R390); `lostTile` is a tile
of the deep tier with a codeword that cannot be corrected. -/
def execReadDisturbRelocate (block : Nat) (weak : Bool) (lostTile : Option Nat) (s : State) : Result :=
  let t := match lostTile with | some k => (s.poisonAt k).count 0x600A 10 clsFailed | none => s
  let due := weak || lostTile.isSome || decide (s.ent? 0x4600 5 ≤ (s.nandBlk block).reads)
  .next (if due ∧ s.ftlRuns ∧ s.extentsIn block ≠ [] then
    ((s.extentsIn block).foldl (fun u e => u.relocate false e) t).addCnt 0x600A 8 1
  else t)

/-- Blocks in use by the provisioned size, one extent each, and the good blocks beyond them (R391, R396). -/
def State.deepBlocks (s : State) : Nat := s.mig.deepSize / 0x400000
def State.deepSpare (s : State) : Nat :=
  s.media.nandBlocks - (s.media.nblk.filter (fun p => p.2.bad)).length - s.deepBlocks

/-- A move to a block that failed goes to another one (R391). -/
def State.retarget (s : State) (b : Nat) : State :=
  s.media.ext.foldl (fun t p =>
    if p.2.next = some b then
      match t.freeBlock false with
      | some c => (t.eraseNand c).setExt p.1 { t.ext p.1 with next := some c }
      | none => t
    else t) s

/-- Below 0.5 % of spare blocks the deep tier is read-only, which is degraded (R391). -/
def State.checkSpares (s : State) : State :=
  if s.deepSpare * 200 < s.deepBlocks ∧ !s.media.roDeep then
    (s.modMedia (fun m => { m with roDeep := true })).addClass clsDegraded
  else s

/-- What a bad block held is written again elsewhere, once the FTL issues programs (R391, R394). -/
def State.vacateBad (s : State) : State :=
  if s.ftlRuns then
    (s.media.nblk.filter (fun p => p.2.bad)).foldl (fun t p => (t.extentsIn p.1).foldl (fun u e => u.relocate false e) t) s
  else s

/-- NAND_STATUS_FAIL: a block is marked bad; a program is written again to another block; below 0.5 % of spare blocks the
deep tier is read-only (R391). -/
def execNandStatusFail (block : Nat) (erase : Bool) (s : State) : Result :=
  .next (if (s.nandBlk block).bad ∨ s.media.nandBlocks ≤ block then s
    else
      let t := (s.setNandBlk block { s.nandBlk block with bad := true }).count 0x600A 9 clsRecovered
      (if erase then t else (t.retarget block).vacateBad).checkSpares)

/-- An extent holds the home of a tile that is MOVING (R392). -/
def State.extentMoving (s : State) (e : Nat) : Bool :=
  s.mig.tiles.any (fun p => decide (p.2.tier = 3) && decide (p.2.home / 32 = e) && p.2.moving)

/-- A write of DEEP_TRIM (R392). -/
def wDeepTrim (v : Nat) (s : State) : WriteRes :=
  if 262144 ≤ v then (abRange, s)
  else if s.extentMoving v then (abBusy, s)
  else
    let t := (s.setExt v (extDefault v)).releaseBlock (s.ext v)
    (0, { t with mem := Memory.clear t.mem (deepBase + v * 0x400000) (deepBase + (v + 1) * 0x400000) })

def execDeepTrim (m : Master) (extent : Word) (s : State) : Result :=
  entryWrite m 0x4600 6 4 extent.toNat (wDeepTrim extent.toNat) s

end Sys2Proof.Machine
end

