-- ==== Sys2Proof/Machine/Migration.lean ====
section
/-!
DEFINITION. The migration engine (R331 to R352): move records, their acceptance and kinds, placement, quotas, the copy and
commit of tiles, what happens when requests meet, holds, and the end of array writes, which moves into the array tier
also are.
-/
namespace Sys2Proof.Machine

/-! ## Fields of a move record (R331) -/

def MoveRec.f (r : MoveRec) (lo w : Nat) : Nat := bits r.raw.toNat lo w
def MoveRec.dstTier (r : MoveRec) : Nat := r.f 4 2
def MoveRec.absDst (r : MoveRec) : Bool := bit r.raw.toNat 6
def MoveRec.resultV (r : MoveRec) : Bool := bit r.raw.toNat 7
def MoveRec.domain (r : MoveRec) : Nat := r.f 22 4
def MoveRec.first (r : MoveRec) : Nat := r.f 32 13
def MoveRec.count (r : MoveRec) : Nat := r.f 45 14
def MoveRec.dstAddr (r : MoveRec) : Nat := r.f 128 48
def MoveRec.size (r : MoveRec) : Nat := r.f 192 32
/-- HINTS; its reserved bits [7:4] are ignored and read zero (R5, R338). -/
def MoveRec.hints (r : MoveRec) : BitVec 16 := BitVec.ofNat 16 (r.f 176 16) &&& 0xFF0F#16
def MoveRec.resultAddr (r : MoveRec) : Nat := r.f 224 48

def mkCreate : Nat := 0
def mkDestroy : Nat := 1
def mkPromote : Nat := 2
def mkEvict : Nat := 3
def mkSetHints : Nat := 4

/-- The stream that a record's traffic carries (R343): the bundle's TAG, STREAM when STREAMV = 1, or none. -/
def MoveRec.stream (r : MoveRec) : Option Nat :=
  match r.ctx with
  | some c => if c.tagv then some c.tag.toNat else none
  | none => if bit r.raw.toNat 30 then some (r.f 26 4) else none

/-! ## Locations (R337, R340, R341) -/

/-- The base of a tier as DST_ADDR gives it, and the tier's bytes. -/
def State.tierSpan (s : State) (t : Nat) : Nat × Nat :=
  if t = 0 then (arrayWindow, 16384 * tileSize)
  else if t = 1 then (0, bufferSize)
  else if t = 2 then (bulkBase, s.mig.bulkSize - 16 * 1024 * 1024)
  else (deepBase, s.mig.deepSize)

/-- The pool of a tier in tile locations: first and number (R340); the array tier's pool is all addresses. -/
def State.pool (s : State) (t : Nat) : Nat × Nat :=
  if t = 0 then (0, 16384)
  else if t = 1 then (s.ent? 0x4500 8 / tileSize, s.ent? 0x4500 9 / tileSize)
  else if t = 2 then ((s.ent? 0x4500 10 - bulkBase) / tileSize, s.ent? 0x4500 11 / tileSize)
  else ((s.ent? 0x4500 12 - deepBase) / tileSize, s.ent? 0x4500 13 / tileSize)

/-- The objects that exist, with their numbers. -/
def State.objects (s : State) : List (Nat × Obj) := s.mig.objs.filter (fun p => p.2.exist)

/-- The tile entries of an object. -/
def Obj.entries (o : Obj) : List Nat := (List.range o.tiles).map (fun k => o.mapFirst + k)

/-- The homes of an object's tiles in a tier. -/
def State.homesOf (s : State) (o : Obj) (t : Nat) : List Nat :=
  o.entries.filterMap (fun i => let e := s.tileEnt i; if e.tier = t then some e.home else none)

/-- The destination that a tile of a record reserves. -/
def TileMove.dst (m : TileMove) : Option Nat :=
  match m with
  | .reserved d | .copying d _ | .deferred d | .waiting d => some d
  | _ => none

/-- The destinations that a record has reserved. -/
def MoveRec.reserved (r : MoveRec) : List Nat := r.tiles.filterMap (fun p => p.2.dst)

/-- The locations of a tier that are a home, a reserved destination, an old home not yet released or a parked copy. -/
def State.usedLocs (s : State) (t : Nat) : List Nat :=
  (s.objects.flatMap (fun p => s.homesOf p.2 t))
    ++ ((s.mig.recs.filter (fun r => decide (r.dstTier = t))).flatMap (fun r => r.reserved))
    ++ (s.mig.oldLocs.filterMap (fun p => if p.1 = t then some p.2 else none))
    ++ (if t = 2 then s.mig.parked.map (fun p => p.bulk) else [])

/-- The lowest `n` free locations of a tier's pool; none when it lacks room (R337). -/
def State.freeLocs (s : State) (t n : Nat) : Option (List Nat) :=
  let used := s.usedLocs t
  let p := s.pool t
  let l := (((List.range (min p.2 (used.length + n))).map (fun i => p.1 + i)).filter (fun i => !used.contains i)).take n
  if l.length = n then some l else none

/-- The location `k` places after DST_ADDR, when it is in the pool and no other tile's home or destination (R337,
R347). -/
def State.absLoc (s : State) (r : MoveRec) (k : Nat) : Option Nat :=
  let t := r.dstTier
  let i := (r.dstAddr - (s.tierSpan t).1) / tileSize + k
  let p := s.pool t
  if p.1 ≤ i ∧ i < p.1 + p.2 ∧ !(s.usedLocs t).contains i then some i else none

/-- Usage of a domain in a tier (R341): homes, and destinations reserved for moves of its objects. -/
def State.usage (s : State) (d t : Nat) : Nat :=
  (s.objects.foldl (fun n p => if p.2.domain = d then n + (s.homesOf p.2 t).length else n) 0)
    + (s.mig.recs.foldl (fun n r =>
        if r.dstTier = t ∧ (s.obj r.obj).domain = d then n + r.reserved.length else n) 0)

/-- `n` more tiles would pass the quota of a domain in a tier; 0xFFFFFFFF is no limit, and a lowered quota blocks only new
reservations (R341, R356). -/
def State.overQuota (s : State) (d t n : Nat) : Bool :=
  let q := s.ent? 0x4510 (1 + 4 * d + t)
  decide (n ≠ 0) && decide (q ≠ 0xFFFFFFFF) && decide (q < s.usage d t + n)

/-! ## Records -/

def State.getRec (s : State) (id : Nat) : Option MoveRec := s.mig.recs.find? (fun r => decide (r.id = id))

def State.modRec (s : State) (id : Nat) (f : MoveRec → MoveRec) : State :=
  s.modMig (fun m => { m with recs := modBy (fun r => decide (r.id = id)) f m.recs })

/-- Change what became of one tile of a record. -/
def State.setMove (s : State) (id k : Nat) (m : TileMove) : State :=
  s.modRec id (fun r => { r with tiles := r.tiles.map (fun p => if p.1 = k then (k, m) else p) })

/-- The tile entry of tile `k` of a record's object. -/
def State.entryOf (s : State) (r : MoveRec) (k : Nat) : Nat := (s.obj r.obj).mapFirst + k

/-- The record that is copying a tile of an object, with the tile's state in it. -/
def State.mover (s : State) (o k : Nat) : Option (MoveRec × TileMove) :=
  (s.mig.recs.filter (fun r => decide (r.obj = o))).findSome? (fun r =>
    (r.tiles.find? (fun p => decide (p.1 = k) && (match p.2 with | .copying _ _ => true | _ => false))).map
      (fun p => (r, p.2)))

/-! ## Acceptance (R332, R333, R350) -/

/-- A field of the record is out of range (R333, R335). -/
def State.moveBad (s : State) (r : MoveRec) : Bool :=
  let o := s.obj r.obj
  let span := s.tierSpan r.dstTier
  let moves := decide (r.kind = mkPromote) || decide (r.kind = mkEvict)
  decide (4 < r.kind)
    || (decide (r.kind ≠ mkCreate) && !o.exist)
    || (decide (r.kind = mkCreate) && (decide (2 ^ 30 < r.size) || (decide (r.dstTier = 0) && !r.absDst)))
    || (moves && decide (o.tiles < r.first + r.count))
    || ((moves || decide (r.kind = mkCreate)) && r.absDst
        && (decide (r.dstAddr % tileSize ≠ 0) || decide (r.dstAddr < span.1) || decide (span.1 + span.2 ≤ r.dstAddr)))
    || (r.resultV && !s.inBufBulk r.resultAddr 16)

/-- A PROMOTE with HOLDV sets the object's hold when it is accepted (R350). -/
def State.setHold (s : State) (r : MoveRec) : State :=
  if r.kind = mkPromote ∧ bit r.raw.toNat 79 then
    s.setObj r.obj { s.obj r.obj with
      held := true, holdSync := BitVec.ofNat 14 (r.f 80 14), holdValue := BitVec.ofNat 32 (r.f 96 32),
      holdTicks := s.tick32 }
  else s

/-- A record is accepted: read and checked whole. One that ends here is RANGE, and fails its job when it came from the
bundle stream (R333). -/
def acceptMove (addr : Nat) (ctx : Option SlotCtx) (job : Option JobRef) (s : State) : State :=
  let r : MoveRec := { id := s.nextId, addr := addr, ctx := ctx, job := job, raw := recordAt s.mem addr, started := false,
                       tiles := [], status := 0, deferred := false }
  let bad := s.moveBad r
  let r' : MoveRec := if bad then { r with started := true, status := 4 } else r
  let t := (s.modMig (fun m => { m with recs := m.recs ++ [r'] })).takeId
  if bad then
    match ctx with
    | some c => (t.opFailed c job 0 0).settleHalt
    | none => t
  else t.setHold r

/-- A record's address: on a 64-byte boundary of the buffer tier (R331, R333). -/
def moveAddrOk (a : Nat) : Bool := decide (a % 64 = 0) && inBuffer a 64

/-- A write of MOVE_SUBMIT (R332, R333). -/
def wMoveSubmit (v : Nat) (s : State) : WriteRes :=
  let a := bits v 0 48
  if !moveAddrOk a then (abRange, s)
  else if 32 ≤ s.mig.recs.length ∨ !s.acceptsWork then (abBusy, s)
  else (0, acceptMove a none none s)

def execMoveSubmit (m : Master) (addr : DWord) (s : State) : Result :=
  entryWrite m 0x4500 5 8 addr.toNat (wMoveSubmit addr.toNat) s

/-- MIGRATE and PREFETCH (R162, R333, R350): the record's address joins the engine's queue. -/
def opMove (prefetch : Bool) (c : SlotCtx) (reg : BitVec 5) (pre s : State) : State :=
  let a := (pre.x reg).toNat
  if pre.gated blkMigration then s.slotFault c causeBus 0
  else if !moveAddrOk a ∨ (prefetch ∧ bits (numAt pre.mem a 8) 0 4 ≠ mkPromote) then
    s.raiseExc { s.slotRec c causeRange 0 with addr := a }
  else
    (s.modSeq (fun q => { q with moveQ := q.moveQ ++ [{
      id := s.nextId, ctx := c, job := s.jobOf c, addr := a, issued := s.clk.cycle }] })).takeId

/-- The engine's queue of 8 requests from the bundle stream is full (R162). -/
def moveFull (s : State) : Bool := decide (8 ≤ s.seq.moveQ.length)

def execMigrate (c : SlotCtx) (reg : BitVec 5) (s : State) : Result :=
  if moveFull s then .next (beginStall s) else slotCmd (opMove false c reg) s

def execPrefetch (c : SlotCtx) (reg : BitVec 5) (s : State) : Result :=
  if moveFull s then .next (beginStall s) else slotCmd (opMove true c reg) s

/-- MOVE_ACCEPT: the oldest record from the bundle stream, 16 cycles after its issue when there is room (R332). -/
def execMoveAccept (s : State) : Result :=
  .next (match s.seq.moveQ with
    | [] => s
    | b :: rest =>
      if 32 ≤ s.mig.recs.length ∨ !s.acceptsWork then s
      else acceptMove b.addr (some b.ctx) b.job ((s.toCycle (b.issued + 16)).modSeq (fun q => { q with moveQ := rest })))

/-! ## When requests meet (R349) -/

/-- A held piece has been written: a unit that asks again finds it so, and any other access is answered with its last
piece. -/
def pieceWritten (h : HeldWrite) (s : State) : State :=
  let t := s.modMig (fun m => { m with held := m.held.map (fun x => if x = h then { x with applied := true } else x) })
  if !h.again && t.heldDone h.access then (t.dropHeldWrite h.access).emit (.pathOk h.master) else t

/-- A held piece applies at an address: one that must wait for the tier stays held, with those behind it, and an access that
fails on its path is answered so. -/
def pieceAt (a : Nat) (h : HeldWrite) (s : State) : State :=
  match s.reachAll a h.data.length true with
  | .waits => s
  | .ok => pieceWritten h (s.writePiece h.master a h.data h.stream)
  | _ => let t := s.dropHeldWrite h.access; if h.again then t else pathFails h.master t

/-- A held piece applies at its tile's home. -/
def applyPiece (h : HeldWrite) (s : State) : State := pieceAt (objectWindow + h.obj * 2 ^ 30 + h.offset) h s

/-- The held writes of a tile apply in acceptance order, after its commit or the end of its move (R344). -/
def applyHeld (o k : Nat) (s : State) : State :=
  (s.mig.held.filter (fun h => decide (h.obj = o) && decide (h.tile = k) && !h.applied)).foldl (fun t h =>
    if t.mig.held.contains h then applyPiece h t else t) s

/-- The held writes of every tile whose move has ended apply, once the tier can be reached again. -/
def State.flushHeld (s : State) : State :=
  s.mig.held.foldl (fun t h =>
    if !h.applied && !(t.tileEnt ((t.obj h.obj).mapFirst + h.tile)).moving then applyHeld h.obj h.tile t else t) s

/-- The move of a tile has ended: a PIN that waited for it waits no more (R335). -/
def State.unpin (s : State) (o i : Nat) : State :=
  s.setObj o { s.obj o with pinWait := (s.obj o).pinWait.filter (· ≠ i) }

/-- PIN is in effect for a tile entry: it is set, and the tile was not MOVING when it was set, or that move has ended (R335,
R338). -/
def Obj.pinned (o : Obj) (i : Nat) : Bool := o.hints.getLsbD 0 && !o.pinWait.contains i

/-- A tile's move in one record stops. Its copy, if any, no longer marks the tile, and its held writes apply at the home. -/
def stopTile (r : MoveRec) (k : Nat) (dest : TileMove) (s : State) : State :=
  let t := s.setMove r.id k dest
  match r.tiles.find? (fun p => decide (p.1 = k)) with
  | some (_, .copying _ _) =>
    let i := s.entryOf r k
    applyHeld r.obj k ((t.setTile i { t.tileEnt i with
      moving := false, dirty := false, recopies := 0, dstTier := 0, dst := 0 }).unpin r.obj i)
  | _ => t

/-- Whether a record's tile is an eviction that a PROMOTE to a faster tier abandons: its destination is reserved, or it is
joined to such a copy. -/
def evictHit (r : MoveRec) (k faster : Nat) : Bool :=
  decide (r.kind = mkEvict) && decide (faster < r.dstTier) &&
    r.tiles.any (fun p => decide (p.1 = k) && (p.2.dst.isSome || decide (p.2 = .joined)))

/-- The evictions of one tile are abandoned before their commit (R349). -/
def abandonEvicts (o k faster : Nat) (s : State) : State :=
  s.mig.recs.foldl (fun t r =>
    if r.obj = o ∧ evictHit r k faster then (stopTile r k .abandoned t).addCnt 0x6009 5 1 else t) s

/-- What a record that reaches a tile finds (R349); a tile that is to move keeps the destination `d`. -/
def reach (kind dt o k d : Nat) (s : State) : TileMove :=
  let x := s.obj o
  let e := s.tileEnt (x.mapFirst + k)
  match s.mover o k with
  | some (m, _) =>
    if kind = mkPromote then
      (if m.kind = mkPromote ∧ m.dstTier = dt then .joined else .waiting d)
    else if m.kind = mkPromote then .deferred d
    else if m.dstTier = dt then .joined else .waiting d
  | none =>
    if kind = mkPromote then (if dt < e.tier then .reserved d else .skipped)
    else if dt ≤ e.tier then .skipped
    else if x.held then .deferred d else .reserved d

/-- The tiles of a record in ascending order. -/
def MoveRec.named (r : MoveRec) : List Nat := (List.range r.count).map (fun k => r.first + k)

/-- Count the tiles that are deferred now (R349). -/
def noteDeferred (id n : Nat) (s : State) : State :=
  if n = 0 then s else (s.modRec id (fun r => { r with deferred := true })).addCnt 0x6009 4 n

/-- A tile's state asks for a destination. -/
def TileMove.isDeferred (m : TileMove) : Bool := match m with | .deferred _ => true | _ => false

/-- A waiting or deferred tile is tested again (R349): nothing changes while the reason lasts. -/
def retestTile (r : MoveRec) (k : Nat) (s : State) : State :=
  match (s.getRec r.id).bind (fun q => (q.tiles.find? (fun p => decide (p.1 = k))).map (fun p => p.2)) with
  | some m =>
    match m with
    | .deferred d | .waiting d =>
      let t := if r.kind = mkPromote then abandonEvicts r.obj k r.dstTier s else s
      let n := if (t.obj r.obj).pinned (t.entryOf r k) then TileMove.failed 6 else reach r.kind r.dstTier r.obj k d t
      (if n.isDeferred && !m.isDeferred then noteDeferred r.id 1 t else t).setMove r.id k n
    | _ => s
  | none => s

/-- Every waiting or deferred tile of an object is tested again, in acceptance order. -/
def retestOnce (o : Nat) (s : State) : State :=
  s.mig.recs.foldl (fun t r => if r.obj = o then r.tiles.foldl (fun u p => retestTile r p.1 u) t else t) s

/-- The same until no test frees a tile for another record. -/
def retestObject (o : Nat) (s : State) : State := s.mig.recs.foldl (fun t _ => retestOnce o t) s

/-! ## The kinds (R335, R336, R342) -/

/-- The record is the next to start: records start in acceptance order (R343). -/
def State.nextStartRec (s : State) (id kind : Nat) : Option MoveRec :=
  match s.mig.recs.find? (fun r => !r.started) with
  | some r => if r.id = id ∧ r.kind = kind ∧ !s.boot.stopped then some r else none
  | none => none

/-- A record ends as a whole with a STATUS. -/
def finishRec (id status : Nat) (s : State) : State := s.modRec id (fun r => { r with started := true, status := status })

/-- The lowest run of free tile map entries (R335). -/
def State.mapRun (s : State) (n : Nat) : Option Nat :=
  let os := s.objects.filter (fun p => decide (p.2.tiles ≠ 0))
  let free := fun a => os.all (fun p => decide (a + n ≤ p.2.mapFirst) || decide (p.2.mapFirst + p.2.tiles ≤ a))
  let starts := (0 :: os.map (fun p => p.2.mapFirst + p.2.tiles)).filter (fun a => free a && decide (a + n ≤ 1048576))
  starts.foldl (fun best a => match best with | none => some a | some b => some (min a b)) none

/-- The locations of a new object: none when the pool lacks room, or an adoption clash. -/
def createLocs (r : MoveRec) (n : Nat) (s : State) : Option (List Nat) :=
  if r.absDst then (List.range n).mapM (fun k => s.absLoc r k) else s.freeLocs r.dstTier n

/-- Write a tile of zeros at a location (R335). -/
def zeroTile (t i : Nat) (s : State) : State :=
  let a := tierBase t + i * tileSize
  let u : State := { s with mem := Memory.clear s.mem a (a + tileSize) }
  if t = 3 then u.ftlWrite i else u

/-- CREATE (R335). -/
def createObj (r : MoveRec) (s : State) : State :=
  let n := ceilDiv r.size tileSize
  if (s.obj r.obj).exist then finishRec r.id 4 s
  else if s.overQuota r.domain r.dstTier n then finishRec r.id 2 s
  else
    match s.mapRun n, createLocs r n s with
    | some mf, some ls =>
      if s.mig.bulkSize = 0 then finishRec r.id 3 s
      else
        let t := s.setObj r.obj { objDefault 0 with
          exist := true, domain := r.domain, hints := r.hints, size := r.size,
          mapFirst := if n = 0 then 0 else mf }
        let u := (ls.zipIdx).foldl (fun v p => v.setTile (mf + p.2) { tileDefault 0 with tier := r.dstTier, home := p.1 }) t
        finishRec r.id 0 (if r.absDst then u else ls.foldl (fun v i => zeroTile r.dstTier i v) u)
    | _, none => finishRec r.id (if r.absDst then 4 else 3) s
    | none, _ => finishRec r.id 3 s

def execCreate (rec : Nat) (s : State) : Result :=
  .next (match s.nextStartRec rec mkCreate with | some r => createObj r s | none => s)

/-- The array write that carries a record's tiles into the array tier ends without a result (R346). -/
def dropMoveWrite (id : Nat) (s : State) : State :=
  match s.awr.ws.find? (fun w => decide (w.byMove = some id)) with
  | none => s
  | some w =>
    let t := match s.arr.moves.find? (fun h => decide (h.kind = .rewrite w.id)) with
      | some h => s.abandon h
      | none => s
    { t with awr := { t.awr with ws := t.awr.ws.filter (fun x => decide (x.id ≠ w.id)) } }

/-- Every pending tile of a record stops with one outcome. -/
def stopRec (r : MoveRec) (dest : TileMove) (s : State) : State :=
  dropMoveWrite r.id (r.tiles.foldl (fun u p => if p.2.pending then stopTile r p.1 dest u else u) s)

/-- The held writes of an object fail on their paths, each access once; a unit that asks again fails then. -/
def failHeld (o : Nat) (s : State) : State :=
  (s.mig.held.filter (fun h => decide (h.obj = o))).foldl (fun t h =>
    if t.mig.held.contains h then
      let u := t.dropHeldWrite h.access
      if h.again then u else pathFails h.master u
    else t) s

/-- DESTROY (R335, R349): moves of the object are abandoned, its homes released, its tile entries zeroed, and EXISTS
clears. A record of another domain needs SHARED (R338). -/
def destroyObj (r : MoveRec) (s : State) : State :=
  let o := s.obj r.obj
  if !o.exist then finishRec r.id 8 s
  else if o.domain ≠ r.domain ∧ !o.hints.getLsbD 1 then finishRec r.id 5 s
  else
    let t := s.mig.recs.foldl (fun u q => if q.obj = r.obj ∧ q.id ≠ r.id then stopRec q (.failed 8) u else u) s
    let u := o.entries.foldl (fun v i => v.setTile i (tileDefault i)) t
    finishRec r.id 0 ((failHeld r.obj u).setObj r.obj (objDefault 0))

def execDestroy (rec : Nat) (s : State) : Result :=
  .next (match s.nextStartRec rec mkDestroy with | some r => destroyObj r s | none => s)

/-- SET_HINTS (R335): a PIN set while tiles are MOVING waits for the end of their moves. -/
def setHints (r : MoveRec) (s : State) : State :=
  let o := s.obj r.obj
  if !o.exist then finishRec r.id 8 s
  else if o.domain ≠ r.domain ∧ !o.hints.getLsbD 1 then finishRec r.id 5 s
  else
    finishRec r.id 0 (s.setObj r.obj { o with
      hints := r.hints
      pinWait := if !r.hints.getLsbD 0 then []
                 else if o.hints.getLsbD 0 then o.pinWait else o.entries.filter (fun i => (s.tileEnt i).moving) })

def execSetHints (rec : Nat) (s : State) : Result :=
  .next (match s.nextStartRec rec mkSetHints with | some r => setHints r s | none => s)

/-- Why no tile of a PROMOTE or EVICT may move (R338): DESTROYED, NOT_SHARED, PINNED, or NO_DEEP; 0 when none applies. A
record that names no tile ends DONE (R331, R336). -/
def State.moveRefused (s : State) (r : MoveRec) : Nat :=
  let o := s.obj r.obj
  if !o.exist ∨ o.tiles < r.first + r.count then 8
  else if r.count = 0 then 0
  else if o.domain ≠ r.domain ∧ !o.hints.getLsbD 1 then 5
  else if r.named.any (fun k => o.pinned (s.entryOf r k)) then 6
  else if r.kind = mkEvict ∧ r.dstTier = 3 ∧ o.hints.getLsbD 2 then 4
  else 0

/-- Destinations for the tiles of a record that will move, or the STATUS it ends with (R337, R342). -/
def placeTiles (r : MoveRec) (ks : List Nat) (s : State) : Nat ⊕ List Nat :=
  if s.overQuota (s.obj r.obj).domain r.dstTier ks.length then .inl 2
  else if r.absDst then
    match ks.mapM (fun k => s.absLoc r (k - r.first)) with
    | some l => .inr l
    | none => .inl 4
  else
    match s.freeLocs r.dstTier ks.length with
    | some l => .inr l
    | none => .inl 3

/-- PROMOTE and EVICT: each named tile is classed under R349, and the destinations of every tile that will move are
reserved, or none of them moves (R342). -/
def startMoves (r : MoveRec) (s : State) : State :=
  let c := s.moveRefused r
  if c ≠ 0 then finishRec r.id c s
  else
    let t := if r.kind = mkPromote then r.named.foldl (fun u k => abandonEvicts r.obj k r.dstTier u) s else s
    let cls := r.named.map (fun k => (k, reach r.kind r.dstTier r.obj k 0 t))
    let need := (cls.filter (fun p => p.2.dst.isSome)).map (fun p => p.1)
    match placeTiles r need t with
    | .inl st => finishRec r.id st s
    | .inr ls =>
      let at' := fun k => match (need.zip ls).find? (fun p => decide (p.1 = k)) with | some p => p.2 | none => 0
      let tiles := cls.map (fun p => (p.1, reach r.kind r.dstTier r.obj p.1 (at' p.1) t))
      retestObject r.obj (noteDeferred r.id (tiles.filter (fun p => p.2.isDeferred)).length
        (t.modRec r.id (fun q => { q with started := true, tiles := tiles })))

def execPromote (rec : Nat) (s : State) : Result :=
  .next (match s.nextStartRec rec mkPromote with | some r => startMoves r s | none => s)

def execEvict (rec : Nat) (s : State) : Result :=
  .next (match s.nextStartRec rec mkEvict with | some r => startMoves r s | none => s)

/-! ## Copying (R343, R344, R346) -/

/-- Tiles that the engine copies (R343). Those of a move into the array tier are written by its array write, under R360
(log 106). -/
def State.copyingTiles (s : State) : Nat :=
  s.mig.recs.foldl (fun n r =>
    if r.dstTier = 0 then n
    else n + (r.tiles.filter (fun p => match p.2 with | .copying _ _ => true | _ => false)).length) 0

/-- The first reserved tile of a record. -/
def MoveRec.nextTile (r : MoveRec) : Option (Nat × Nat) :=
  r.tiles.findSome? (fun p => match p.2 with | .reserved d => some (p.1, d) | _ => none)

/-- A tile becomes MOVING. -/
def State.beginTile (s : State) (r : MoveRec) (k d : Nat) : State :=
  let i := s.entryOf r k
  (s.setMove r.id k (.copying d false)).setTile i { s.tileEnt i with
    moving := true, dirty := false, dstTier := r.dstTier, dst := d }

/-- The traffic of one copy of a tile: read class at its home, write class at its destination (R343). -/
def State.noteCopy (s : State) (r : MoveRec) (k d : Nat) : State :=
  let e := s.tileEnt (s.entryOf r k)
  (s.noteTier (tierBase e.tier + e.home * tileSize) tileSize 0 r.stream).noteTier
    (tierBase r.dstTier + d * tileSize) tileSize 1 r.stream

/-- One tile's copy starts (R344 step 1). -/
def startCopy (r : MoveRec) (k d : Nat) (s : State) : State := (s.noteCopy r k d).beginTile r k d

/-- The bytes of an array tile (R29, R112). -/
def packTile : List (BitVec 4) → List Byte
  | a :: b :: t => BitVec.ofNat 8 (a.toNat + 16 * b.toNat) :: packTile t
  | _ => []

/-- The bytes of a tile at its home; none when it cannot be read. -/
def State.homeBytes (s : State) (e : Tile) : Option (List Byte) :=
  if e.poisoned then none
  else if e.tier = 0 then
    (if (s.mapOf e.home).st = .unavailable then none else some (packTile (s.readTile (s.mapOf e.home).phys)))
  else some (Memory.gets s.mem (tierBase e.tier + e.home * tileSize) tileSize)

/-- The tiles of a record that are reserved, with their destinations. -/
def MoveRec.reservedTiles (r : MoveRec) : List (Nat × Nat) :=
  r.tiles.filterMap (fun p => match p.2 with | .reserved d => some (p.1, d) | _ => none)

/-- The tiles of a move into the array tier that were written to after their set handed over: they are to be programmed
again (R344, R346). -/
def MoveRec.resubmitted (r : MoveRec) : List (Nat × Nat) :=
  r.tiles.filterMap (fun p => match p.2 with | .copying d true => if r.dstTier = 0 then some (p.1, d) else none | _ => none)

/-- A tile is tested as its record reaches it (R349): whether it may be copied now. -/
def reachTile (r : MoveRec) (k d : Nat) (s : State) : Bool × State :=
  if (s.obj r.obj).pinned (s.entryOf r k) then (false, s.setMove r.id k (.failed 6))
  else
    match reach r.kind r.dstTier r.obj k d s with
    | .reserved _ => (true, s)
    | m => (false, (if m.isDeferred then noteDeferred r.id 1 s else s).setMove r.id k m)

/-- The tiles of a move into the array tier are submitted as one REWRITE (R346, R373): all its reserved tiles, once none of
its tiles waits for another move; one that R367 would refuse as busy waits. -/
def submitToArrays (r : MoveRec) (s : State) : State :=
  let t := r.reservedTiles.foldl (fun u p => (reachTile r p.1 p.2 u).2) s
  match t.getRec r.id with
  | none => t
  | some q =>
    let ts := q.reservedTiles ++ q.resubmitted
    let l := ts.map (fun p => p.2)
    if ts = [] ∨ q.tiles.any (fun p => match p.2 with | .waiting _ => true | _ => false) ∨ t.awRefusedBusy false false l then t
    else
      let srcs := ts.map (fun p => (p.2, t.homeBytes (t.tileEnt (t.entryOf q p.1))))
      let w : ArrayWrite := {
        id := t.nextId, install := false, lib := false, resultV := false, syncV := false, sync := 0, src := 0,
        resultAddr := 0,
        addrs := srcs.map (fun p => {
          addr := p.1, array := none, st := .programming, tile := tileCodes (Memory.puts [] 0 (p.2.getD [])) 0, lib := none })
        status := 0, failAddr := 0, row := 0, byMove := some q.id, committed := false }
      startWrite w (srcs.all (fun p => p.2.isSome)) (ts.foldl (fun u p => startCopy q p.1 p.2 u) t.takeId)

/-- The tiles of other records that joined a move share its outcome (R349). -/
def settleJoined (r : MoveRec) (k : Nat) (dest : TileMove) (s : State) : State :=
  s.mig.recs.foldl (fun t q =>
    if q.obj = r.obj ∧ q.id ≠ r.id ∧ q.dstTier = r.dstTier ∧ q.tiles.any (fun p => decide (p.1 = k) && decide (p.2 = .joined))
    then t.setMove q.id k dest else t) s

/-- The old home of a tile that has left the array tier: its address is UNAVAILABLE and its array is owed an erase
(R346). -/
def leaveArray (addr : Nat) (s : State) : State :=
  let e := s.mapOf addr
  if e.st = .unavailable then s
  else (s.makeUnavailable addr).modArray e.phys (fun p => { p with mapped := false, addrSlot := 0, eraseOpen := true })

/-- The commit of a tile (R345): in one cycle the destination becomes the home and MOVING clears. -/
def commitTile (r : MoveRec) (k d : Nat) (s : State) : State :=
  let i := s.entryOf r k
  let e := s.tileEnt i
  let t := (s.setTile i { tileDefault 0 with tier := r.dstTier, home := d }).unpin r.obj i
  let t1 := if e.tier = 0 then leaveArray e.home t
    else t.modMig (fun m => { m with oldLocs := m.oldLocs ++ [(e.tier, e.home)] })
  let t2 := ((t1.setMove r.id k .moved).addCnt 0x6009 1 1) |> settleJoined r k .moved
  retestObject r.obj (applyHeld r.obj k t2)

/-- A dirty tile is copied again (R344 step 2). -/
def recopy (r : MoveRec) (k d : Nat) (s : State) : State :=
  let i := s.entryOf r k
  let e := s.tileEnt i
  ((s.noteCopy r k d).setTile i { e with dirty := false, recopies := e.recopies + 1 }).addCnt 0x6009 2 1

/-- A copy ends whole: a dirty tile is copied again, a clean one commits (R344, R345). -/
def endCopy (r : MoveRec) (k d : Nat) (s : State) : State :=
  let e := s.tileEnt (s.entryOf r k)
  if e.dirty then recopy r k d s
  else
    match s.homeBytes e with
    | some bs => commitTile r k d (s.writePhys (tierBase r.dstTier + d * tileSize) bs)
    | none => s

/-- The home of a moving tile cannot be read: POISONED, and the move is abandoned (R348). -/
def poisonTile (r : MoveRec) (k : Nat) (s : State) : State :=
  let i := s.entryOf r k
  let t := (stopTile r k (.failed 9) s) |> settleJoined r k (.failed 9)
  let u := (t.setTile i { t.tileEnt i with poisoned := true }).count 0x6009 8 clsFailed
  retestObject r.obj u

/-- The destination cannot be written: one retry at another location of the pool, then MEDIA (R348). -/
def retryTile (r : MoveRec) (k : Nat) (retried : Bool) (s : State) : State :=
  match (if retried then none else s.freeLocs r.dstTier 1) with
  | some (n :: _) =>
    let i := s.entryOf r k
    ((s.setMove r.id k (.copying n true)).setTile i { s.tileEnt i with dst := n, dirty := false }).noteCopy r k n
  | _ => retestObject r.obj ((stopTile r k (.failed 7) s) |> settleJoined r k (.failed 7))

/-- TILE_COPY_START: the next reserved tile in record and tile order, while fewer than 32 tiles copy (R343); the tile is
tested again as the record reaches it (R349). A tile of a move into the array tier whose home cannot be read is POISONED
(R348). -/
def execTileCopyStart (s : State) : Result :=
  .next (match s.mig.recs.find? (fun r => (r.nextTile.isSome || decide (r.resubmitted ≠ [])) && !(decide (r.dstTier = 0) &&
      s.awr.ws.any (fun w => decide (w.byMove = some r.id)))) with
    | none => s
    | some r =>
      if s.warned then s
      else if r.dstTier = 0 then
        match (r.reservedTiles ++ r.resubmitted).find? (fun p => (s.homeBytes (s.tileEnt (s.entryOf r p.1))).isNone) with
        | some p => poisonTile r p.1 s
        | none => submitToArrays r s
      else if 32 ≤ s.copyingTiles then s
      else
        match r.nextTile with
        | none => s
        | some (k, d) => let t := reachTile r k d s; if t.1 then startCopy r k d t.2 else t.2)

/-- The array write that carries a tile of a record, with the mirror of its address when the margins there are valid. -/
def State.mirrorDone (s : State) (r : MoveRec) (d : Nat) : Option (ArrayWrite × Nat) :=
  match s.awr.ws.find? (fun w => decide (w.byMove = some r.id)) with
  | none => none
  | some w =>
    match (w.addrs.find? (fun a => decide (a.addr = d))).bind (fun a => a.array) with
    | some m => if (s.mirrorOf m).any (fun h => h.ready.contains m) then some (w, m) else none
    | none => none

/-- The array write of a record ends with a STATUS, its set abandoned (R117, R369). -/
def failWrite (w : ArrayWrite) (status addr row : Nat) (s : State) : State :=
  let t := match s.moveOf addr with | some h => s.abandon h | none => s
  { t with awr := { t.awr with ws := modBy (fun x => decide (x.id = w.id)) (fun x => { x with
      status := status, failAddr := addr, row := row }) t.awr.ws } }

/-- The copy of a tile into its mirror has ended: a dirty tile is read and programmed there again before the set hands over
(R344, R346); one that now holds a 0x8 pattern ends the write (R365). A clean one waits for its set. -/
def endArrayCopy (r : MoveRec) (k d : Nat) (s : State) : State :=
  let i := s.entryOf r k
  let e := s.tileEnt i
  match s.mirrorDone r d, s.homeBytes e with
  | some (w, m), some bs =>
    if !e.dirty then s
    else
      let tile := tileCodes (Memory.puts [] 0 bs) 0
      match badRow tile with
      | some row => failWrite w 1 d row s
      | none =>
        let t := (recopy r k d s).setAw w.id d (fun a => { a with tile := tile, st := .programming })
        ((t.modArr (fun a => { a with moves := a.moves.map (fun h => if h.ready.contains m then
            { h with ready := h.ready.filter (· ≠ m), since := none, forced := false } else h) })).startProgram m tile).grantHv
  | _, _ => s

/-- A tile of a move into the array tier cannot be read: POISONED; the other tiles of the record are submitted again
without it (R348). -/
def poisonArrayTile (r : MoveRec) (k : Nat) (s : State) : State :=
  let t := dropMoveWrite r.id (poisonTile r k s)
  (t.getRec r.id).elim t (fun q => q.tiles.foldl (fun u p =>
    match p.2 with | .copying d _ => stopTile q p.1 (.reserved d) u | _ => u) t)

/-- How a location of a tier is reached (R322); an array is read at its home. -/
def State.reachLoc (s : State) (tier loc : Nat) (write : Bool) : Reach :=
  if tier = 0 then .ok else s.reachPhys (tierBase tier + loc * tileSize) write

/-- TILE_COPY_END (R344, R345, R348). The tiles of a move into the array tier commit with their array write; while a rail is
in warning, or a location cannot be reached, no copy ends; a read-only destination fails it (R391). -/
def execTileCopyEnd (obj : BitVec 14) (tile : BitVec 13) (how : CopyEnd) (s : State) : Result :=
  .next (match s.mover obj.toNat tile.toNat with
    | some (r, .copying d retried) =>
      let k := tile.toNat
      let e := s.tileEnt (s.entryOf r k)
      let src := s.reachLoc e.tier e.home false
      let dst := s.reachLoc r.dstTier d true
      let lost := (s.homeBytes e).isNone || decide (src = .fails)
      if s.warned ∨ src = .waits ∨ src = .gated ∨ dst = .waits ∨ dst = .gated then s
      else if r.dstTier = 0 then
        match how with
        | .done => if lost then poisonArrayTile r k s else endArrayCopy r k d s
        | .sourceLost => poisonArrayTile r k s
        | .destinationFailed => s
      else
        match how with
        | .done => if lost then poisonTile r k s else if dst = .fails then retryTile r k retried s else endCopy r k d s
        | .sourceLost => poisonTile r k s
        | .destinationFailed => retryTile r k retried s
    | _ => s)

/-- OLD_LOCATION_RELEASE: an old home is released within 2 µs of the commit (R345). -/
def execOldLocationRelease (tier : BitVec 2) (location : Nat) (s : State) : Result :=
  .next (s.modMig (fun m => { m with oldLocs := m.oldLocs.erase (tier.toNat, location) }))

/-- A supply warning meets copies (R348). -/
def State.warnCopies (s : State) : State :=
  if s.copyingTiles = 0 then s else (s.addCnt 0x6009 10 s.copyingTiles).addClass clsRecovered

/-- The copies that a supply warning met restart once supplies have recovered: DIRTY clears, and the tile is copied anew (R343,
R344, R348). -/
def State.restartCopies (s : State) : State :=
  s.mig.recs.foldl (fun t r =>
    if r.dstTier = 0 then t
    else r.tiles.foldl (fun u p =>
      match p.2 with
      | .copying d _ => let i := u.entryOf r p.1; (u.noteCopy r p.1 d).setTile i { u.tileEnt i with dirty := false }
      | _ => u) t) s

/-! ## The end of a record (R334) -/

/-- The code of one tile in the record's STATUS. -/
def TileMove.code (m : TileMove) : Nat := match m with | .abandoned => 1 | .failed c => c | _ => 0

/-- STATUS: of the record as a whole, else the first failure in tile order, else ABANDONED when a tile was (R334,
R349). -/
def MoveRec.result (r : MoveRec) : Nat :=
  if r.status ≠ 0 then r.status
  else
    match r.tiles.find? (fun p => decide (1 < p.2.code)) with
    | some p => p.2.code
    | none => if r.tiles.any (fun p => decide (p.2.code = 1)) then 1 else 0

/-- Every tile has committed, been skipped, been abandoned or failed. -/
def MoveRec.settled (r : MoveRec) : Bool := r.started && !r.tiles.any (fun p => p.2.pending)

/-- The result word of R334. -/
def MoveRec.word (r : MoveRec) (ticks : Word) : List Byte :=
  leBytes 16 (r.result + b2n r.deferred * 2 ^ 8
    + (r.tiles.filter (fun p => decide (p.2 = .moved))).length * 2 ^ 32
    + (r.tiles.filter (fun p => decide (p.2 = .skipped))).length * 2 ^ 46 + ticks.toNat * 2 ^ 64)

/-- The record ends: its result word, then DONE_SYNC, and it leaves the engine. -/
def endRec (r : MoveRec) (s : State) : State :=
  let t := if r.resultV ∧ s.inBufBulk r.resultAddr 16 then s.writePhys r.resultAddr (r.word s.tick32) else s
  let u := if 2 ≤ r.result then t.count 0x6009 9 clsFailed else t
  let v := if bit r.raw.toNat 78 then u.signal (BitVec.ofNat 14 (r.f 64 14)) else u
  v.modMig (fun m => { m with recs := m.recs.filter (fun q => decide (q.id ≠ r.id)) })

/-- MOVE_RESULT_WRITE (R334). -/
def execMoveResultWrite (rec : Nat) (s : State) : Result :=
  .next (match s.getRec rec with | some r => if r.settled then endRec r s else s | none => s)

/-! ## Holds (R350) -/

/-- An object record without a hold. -/
def Obj.unheld (x : Obj) : Obj := { x with held := false, holdSync := 0, holdValue := 0, holdTicks := 0 }

/-- A hold ends: deferred evictions are tested again (R349). -/
def State.dropHold (s : State) (o : Nat) : State :=
  retestObject o (s.setObj o (s.obj o).unheld)

/-- HOLD_END: Y[HOLD_SYNC] has reached HOLD_VALUE. -/
def execHoldEnd (obj : BitVec 14) (s : State) : Result :=
  let x := s.obj obj.toNat
  .next (if x.held ∧ Word.reached (s.y x.holdSync.toNat) x.holdValue then s.dropHold obj.toNat else s)

/-- The tick at which HOLD_LIMIT has passed since HOLD_TICKS: now when it has. -/
def State.holdLimitTick (s : State) (x : Obj) : Nat :=
  let due := x.holdTicks + BitVec.ofNat 32 (usTicks (s.ent? 0x4500 7))
  if Word.reached s.tick32 due then s.clk.ticks else s.clk.ticks + (due - s.tick32).toNat

/-- HOLD_LIMIT_EXPIRY (R350). -/
def execHoldLimitExpiry (obj : BitVec 14) (s : State) : Result :=
  let x := s.obj obj.toNat
  .next (if x.held then ((s.toTick (s.holdLimitTick x)).dropHold obj.toNat).addCnt 0x6009 6 1 else s)

/-- Every hold is cleared (R352). -/
def State.clearHolds (s : State) : State :=
  s.objects.foldl (fun t p => if p.2.held then t.setObj p.1 p.2.unheld else t) s

/-- Moves that have not committed are abandoned and their records end ABANDONED (R352). -/
def State.abandonMoves (s : State) : State :=
  s.mig.recs.foldl (fun t r =>
    match t.getRec r.id with
    | none => t
    | some q =>
      let u := stopRec q .abandoned t
      match u.getRec r.id with
      | none => u
      | some p => endRec (if p.started then p else { p with started := true, status := 1 }) u) s

/-! ## The end of an array write (R368, R372, R373) -/

/-- A tile was written to at its home after its set handed over: it is programmed again before it commits (R344, R346). -/
def resubmit (r : MoveRec) (k d : Nat) (s : State) : State :=
  let i := s.entryOf r k
  let e := s.tileEnt i
  ((s.setMove r.id k (.copying d true)).setTile i { e with dirty := false, recopies := e.recopies + 1 }).addCnt 0x6009 2 1

/-- The tiles of a move into the array tier after its array write: the clean ones commit, or a failed write fails them (R346,
R373). -/
def endArrayMove (w : ArrayWrite) (r : MoveRec) (s : State) : State :=
  let ts := r.tiles.filterMap (fun p => match p.2 with | .copying d _ => some (p.1, d) | _ => none)
  if w.result ≠ 0 then
    let st := if w.result = 3 then 7 else 4
    ts.foldl (fun t p => (stopTile r p.1 (.failed st) t) |> settleJoined r p.1 (.failed st)) s |> retestObject r.obj
  else
    ts.foldl (fun t p => if (t.tileEnt (t.entryOf r p.1)).dirty then resubmit r p.1 p.2 t else commitTile r p.1 p.2 t) s

/-- ARRAY_WRITE_RESULT: an array write that has committed or failed writes its result word and signals (R368, R372). -/
def execArrayWriteResult (write : Nat) (s : State) : Result :=
  .next (match s.awr.ws.find? (fun w => decide (w.id = write)) with
    | none => s
    | some w =>
      if !w.ends then s
      else
        let t := endWrite w s
        match w.byMove.bind (fun id => t.getRec id) with
        | some r => endArrayMove w r t
        | none => t)

end Sys2Proof.Machine
end

