-- ==== Sys2Proof/Machine/Transfer.lean ====
section
/-!
DEFINITION. The DMA engine's channels and descriptors as the cascade and the engine itself share them (R482 to R488): a
channel's settings, the fields of a descriptor, the descriptor in transfer, its hold (R492, R574) and the end of its
remote accesses (R410).
-/
namespace Sys2Proof.Machine

/-! ## Channels (R482) -/

def chanNums : List Nat := List.range 16

def State.chan (s : State) (k : Nat) : Chan := tget chanDefault s.dma.ch k

def State.modChan (s : State) (k : Nat) (f : Chan → Chan) : State :=
  s.modDma (fun d => { d with ch := tmod chanDefault d.ch k f })

/-- A setting of a channel: 2 CH_SOURCE, 3 CH_COMPLETION, 4 CH_RING_BASE, 5 CH_RING_SPACE, 6 CH_RING_SLOTS. -/
def State.chSet (s : State) (k j : Nat) : Nat := s.ent? (0x5110 + k) j

def State.chBundle (s : State) (k : Nat) : Bool := decide (s.chSet k 2 = 1)
def State.chGk8 (s : State) (k : Nat) : Bool := decide (s.chSet k 3 = 1)

/-- A ring channel whose ring is in host memory. -/
def State.chHostRing (s : State) (k : Nat) : Bool := !s.chBundle k && decide (s.chSet k 5 = 1)

/-- The ring of a channel as R280 indexes it. -/
def State.chRing (s : State) (k : Nat) : Ring :=
  { base := s.chSet k 4, slots := s.chSet k 6, head := (s.chan k).head, tail := (s.chan k).tail }

/-! ## Descriptors (R487) -/

def Desc.f (d : Desc) (lo w : Nat) : Nat := bits d.data.toNat lo w
def Desc.op (d : Desc) : Nat := d.f 0 4
def Desc.srcSpace (d : Desc) : Nat := d.f 4 2
def Desc.dstSpace (d : Desc) : Nat := d.f 6 2
def Desc.srcRole (d : Desc) : Nat := d.f 8 5
def Desc.dstRole (d : Desc) : Nat := d.f 13 5
def Desc.stream (d : Desc) : Option Nat := if bit d.data.toNat 18 then some (d.f 19 4) else none
def Desc.src (d : Desc) : Nat := d.f 64 64
def Desc.dst (d : Desc) : Nat := d.f 128 64
def Desc.len (d : Desc) : Nat := d.f 192 32

/-- PATTERN, from byte `off` of the destination. -/
def Desc.fillBytes (d : Desc) (off n : Nat) : List Byte :=
  (List.range n).map (fun i => BitVec.ofNat 8 (d.f (224 + 8 * ((off + i) % 4)) 8))

/-- The length of the next block: to the next 64-byte boundary of the destination (R22, R488). -/
def Desc.block (d : Desc) : Nat := min (64 - (d.dst + d.done) % 64) (d.len - d.done)

/-- The blocks from the next one on that end at byte `n` or before it. -/
def Desc.blocksTo (d : Desc) (n : Nat) : Nat :=
  if n < d.done + (64 - (d.dst + d.done) % 64) then 0 else (d.dst + n) / 64 - (d.dst + d.done) / 64

/-! ## The descriptor in transfer (R483) -/

/-- The engine's run and the descriptor at its front. -/
def State.dmaFront (s : State) : Option (DmaRun × Desc) :=
  match s.dma.run with
  | none => none
  | some r => match (s.chan r.chan).acc with | [] => none | d :: _ => some (r, d)

/-- Change the first accepted descriptor of a channel. -/
def Chan.modFront (c : Chan) (f : Desc → Desc) : Chan :=
  { c with acc := match c.acc with | [] => [] | d :: l => f d :: l }

def State.modFront (s : State) (f : Desc → Desc) : State :=
  match s.dma.run with
  | none => s
  | some r => s.modChan r.chan (fun c => c.modFront f)

def State.modRun (s : State) (f : DmaRun → DmaRun) : State := s.modDma (fun d => { d with run := d.run.map f })

/-- The transfer stops with a status (R489). -/
def dmaFail (code : Nat) (s : State) : State :=
  (s.dropTickets .host).modFront (fun d => { d with status := code, moved := true })

/-- `n` more bytes have reached the destination. -/
def dmaAdvance (n : Nat) (s : State) : State :=
  s.modFront (fun d => { d with done := d.done + n, moved := decide (d.len ≤ d.done + n) })

/-- The descriptor enters a hold (R492, R574). -/
def dmaHold (s : State) : State :=
  match s.dma.run with
  | none => s
  | some r =>
    if r.hold.isSome then s
    else ((s.modRun (fun x => { x with hold := some s.clk.ticks })).count 0x600D 5 clsRecovered).addCnt 0x6010 1 1

/-- It leaves its hold. -/
def dmaUnhold (s : State) : State :=
  match s.dma.run with
  | none => s
  | some r => (s.noteHold r.hold).modRun (fun x => { x with hold := none })

/-- A remote access of the descriptor in transfer ends (R410, R488, R489): a READ hands its bytes to the engine, a
WRITE_ACK counts its block as written, and a failure is REMOTE_FAIL. -/
def answerDma (tag : BitVec 16) (write ok : Bool) (data : List Byte) (s : State) : State :=
  match s.dmaFront with
  | none => s
  | some (r, d) =>
    if r.tag ≠ some tag then s
    else
      let t := (dmaUnhold s).modRun (fun x => { x with tag := none, data := if ok && !write then some data else none })
      if !ok then dmaFail 5 t
      else if write then dmaAdvance d.block t
      else t

end Sys2Proof.Machine
end

