-- ==== Sys2Proof/Machine/Cascade.lean ====
section
/-!
DEFINITION. The cascade ports and chains (R397 to R433 except lockstep): link training and replay, routes, packets and
remote accesses, stream rings between devices, the system map, fencing, rechecks and role assignment.
-/
namespace Sys2Proof.Machine

/-! ## Roles -/

def State.setRole (s : State) (r : Nat) (e : MapRole) : State :=
  s.modCasc (fun c => { c with map := tset mapRoleDefault c.map r e })

/-- This device's role. -/
def State.me (s : State) : Nat := s.casc.role.toNat

/-- The role of the chain head in the map. -/
def State.headRole (s : State) : Option Nat := roleNums.find? (fun r => (s.roleOf r).head)

/-- RANK_MASTER of every entry follows the members (R399). -/
def State.fixMasters (s : State) : State :=
  roleNums.foldl (fun t r =>
    let e := s.roleOf r
    t.setRole r { e with master := decide (e.st = .active) && decide (s.masterOf e.rank = some r) }) s

/-- The other roles present in the system. -/
def State.others (s : State) : List Nat := roleNums.filter (fun r => s.rolePresent r && decide (r ≠ s.me))

/-! ## Holds of remote accesses (R574) -/

/-- A remote access is routed over a port. -/
def State.overPort (s : State) (k : Nat) (r : Remote) : Bool :=
  decide (tget noRoute s.casc.routes r.role.toNat = some k)

/-- Remote accesses routed over a port enter a hold while it replays or retrains; the one of a DMA descriptor holds its
descriptor, which has the one timer (R492, R574). -/
def holdRemotes (k : Nat) (s : State) : State :=
  let mine := fun (r : Remote) => s.overPort k r && decide (r.hold = none) && decide (r.who ≠ .dma)
  let n := (s.casc.remote.filter mine).length
  let t := if s.casc.remote.any (fun r => s.overPort k r && decide (r.who = .dma)) then dmaHold s else s
  if n = 0 then t
  else
    ((t.modCasc (fun c => { c with
      remote := modBy mine (fun r => { r with hold := some s.clk.ticks }) c.remote })).addCnt 0x6010 1 n).addCnt
        0x6001 clsRecovered n

/-- They leave the hold. -/
def unholdRemotes (k : Nat) (s : State) : State :=
  let mine := fun (r : Remote) => s.overPort k r && r.hold.isSome
  let t := if s.casc.remote.any (fun r => s.overPort k r && decide (r.who = .dma)) then dmaUnhold s else s
  let u := (s.casc.remote.filter mine).foldl (fun v r => v.noteHold r.hold) t
  u.modCasc (fun c => { c with remote := modBy mine (fun r => { r with hold := none }) c.remote })

/-! ## Routes (R405) -/

def State.upPorts (s : State) : List Nat := portNums.filter (fun k => decide ((s.port k).st = .up))

/-- The route from this device to a role. -/
def State.newRoute (s : State) (r : Nat) : Option Nat := s.routeOf s.me r

/-- The routes are computed again; a destination whose route changed is not sent to for 50 us (R405). -/
def State.reroute (s : State) : State :=
  let ch := roleNums.filter (fun r =>
    let o := tget noRoute s.casc.routes r
    o.isSome && (s.newRoute r).isSome && decide (o ≠ s.newRoute r))
  (s.modCasc (fun c => { c with
    routes := roleNums.foldl (fun t r => tset noRoute t r (s.newRoute r)) c.routes
    routeWait := c.routeWait.filter (fun w => !ch.contains w.1) ++ ch.map (fun r => (r, s.clk.ticks)) })).flushSends

/-- ROUTE_CHANGE_WAIT_END: 50 us after the new route was learnt (R405). -/
def execRouteChangeWaitEnd (role : BitVec 5) (s : State) : Result :=
  .next (match s.casc.routeWait.find? (fun w => decide (w.1 = role.toNat)) with
    | none => s
    | some w =>
      ((s.toTick (w.2 + usTicks 50)).modCasc (fun c => { c with
        routeWait := c.routeWait.filter (fun v => decide (v.1 ≠ role.toNat)) })).flushSends)

/-! ## The chain head's watch (R427) -/

/-- The watch timer restarts: on a device with a role that is not the chain head, not in a recheck, with a port UP. -/
def State.restartWatch (s : State) : State :=
  s.modCasc (fun c => { c with
    watch := if c.isHead ∨ c.shade ≠ .none ∨ s.upPorts = [] ∨ s.pwr.mode = 4 then none else some s.clk.ticks })

/-! ## Links down (R413) -/

/-- The records of a receiver that wait for a port, taken out of its queue (O7: none is delivered late). -/
def State.dropRecords (s : State) (n e : Nat) : State :=
  s.modCasc (fun c => { c with sendWait := c.sendWait.filter (fun x => decide (s.ringOf x.pkt ≠ some (n, e))) })

/-- The records of a receiver that some ports hold unacknowledged, or that wait for a port. -/
def State.onTheWay (s : State) (ks : List Nat) (n e : Nat) : Nat :=
  (ks.map (fun k => ((s.port k).replay.filter (fun f => decide (f.ring = some (n, e)))).length)).sum
    + (s.casc.sendWait.filter (fun x => decide (s.ringOf x.pkt = some (n, e)))).length

/-- A remote receiver whose route crossed the link: DETACHED, its undelivered and unacknowledged records MISSED, and its
credits gone until a new bind (R316, R413). One that was detached for its lag misses what is still on its way. -/
def cutReceiver (k : Option Nat) (n e : Nat) (s : State) : State :=
  let r := (s.stream n).recv e
  let lost := s.onTheWay k.toList n e
  let t := if r.rst = .attached then detach n e ((s.stream n).lag e) s
    else (s.modStream n (fun b => b.modRecv e (fun q => q.miss lost))).addCnt 0x6008 5 lost
  (t.dropRecords n e).modFar n e (fun x => { x with free := 0, cut := true })

/-- Every receiver of KIND 2 whose route crosses a link that goes DOWN. -/
def cutReceivers (k : Option Nat) (crosses : Nat → Bool) (s : State) : State :=
  streamNums.foldl (fun a n => recvNums.foldl (fun b e =>
    let r := (b.stream n).recv e
    if r.kind = 2 ∧ crosses r.device then cutReceiver k n e b else b) a) s

/-- The chain head begins to count DEAD_TIME for a role whose links are all DOWN (R426). -/
def noteSilent (r : Nat) (s : State) : State :=
  if s.casc.isHead ∧ r ≠ s.me ∧ tget zeroNat s.casc.silent r = 0 ∧ !s.casc.suspended.contains r then
    s.modCasc (fun c => { c with silent := tset zeroNat c.silent r (s.clk.ticks + 1) })
  else s

/-- Receivers that a link cut off ask for a new bind while there is a route to them (R413, R424). -/
def rebind (s : State) : State :=
  streamNums.foldl (fun t n => recvNums.foldl (fun u e =>
    let r := (u.stream n).recv e
    if r.kind = 2 ∧ r.rst = .detached ∧ (u.stream n).st = .enabled ∧ (u.farRing n e).cut
        ∧ (tget noRoute u.casc.routes r.device).isSome then
      u.send ptRingBind (BitVec.ofNat 5 r.device) r.stream (n + 16 * e) 0
    else u) t) s

/-- Every link of the device that holds a role is DOWN (R426). -/
def State.cutOff (s : State) (r : Nat) : Bool := !(s.hops.any (fun e => decide (e.src = s.nodeOf r)))

/-- The roles that a device holds in the map. -/
def State.rolesAt (s : State) (n : Word) : List Nat := roleNums.filter (fun r => s.rolePresent r && decide (s.nodeOf r = n))

/-- After a link between two devices has gone DOWN: the chain head begins to count for a device without a link left (R426),
routes are computed again (R405), and receivers cut off bind anew where another path leads to them. -/
def linkLost (ends : List Word) (s : State) : State :=
  rebind ((ends.flatMap s.rolesAt).foldl (fun t r => if t.cutOff r then noteSilent r t else t) s).reroute

/-- A port goes DOWN: the packets in its replay buffer are lost (R413). -/
def portDown (k : Nat) (s : State) : State :=
  let down := fun (u : State) => u.modPort k (fun q => { portDefault k with retrains := q.retrains })
  match (s.port k).peer with
  | none => down s
  | some r =>
    if (s.port k).st = .down then down s
    else
      let u := s.count 0x600B 9 clsDegraded
      let w := linkLost [lowId r.serial] (down (cutReceivers (some k) (fun d => decide (tget noRoute u.casc.routes d = some k)) u))
      if w.upPorts = [] then w.modCasc (fun c => { c with watch := none }) else w

/-- Two names of one link. -/
def FarLink.same (a b : FarLink) : Bool := (FarLink.hops a).all (fun e => (FarLink.hops b).any (fun d =>
  decide (e.src = d.src) && decide (e.port = d.port) && decide (e.dst = d.dst)))

/-- A link between other devices takes a state. -/
def State.setLink (s : State) (l : FarLink) (st : PortState) : State :=
  s.modCasc (fun c => { c with links := c.links.filter (fun x => !FarLink.same x.1 l) ++ [(l, st)] })

/-- The path of this device's packets to a role crosses a link. -/
def State.crosses (s : State) (l : FarLink) (r : Nat) : Bool :=
  (pathTo s.hops (s.nodeOf r) 32 s.myNode).any (fun e => (FarLink.hops l).any (fun d => decide (e.src = d.src) && decide (e.port = d.port)))

/-- LINK_DOWN: a port of this device, or a link further on (R405, R413). -/
def execLinkDown (link : LinkRef) (s : State) : Result :=
  .next (match link with
    | .own port => if (s.port port.val).st = .down then s else portDown port.val s
    | .far l =>
      linkLost [l.serialA, l.serialB] ((cutReceivers none (fun d => s.crosses l d) s).setLink l .down))

/-! ## Training (R402, R403) -/

/-- CASCADE_PORT_RETRY: a DOWN port tries again (R402). -/
def execCascadePortRetry (port : Fin 4) (s : State) : Result :=
  .next (if (s.port port.val).st = .down ∧ s.portLive port.val then s.trainPort port.val else s)

/-- This device as its own training record at a port (R403). -/
def State.selfRec (s : State) (port : Nat) : TrainRec :=
  { id := s.pwr.straps.id, rank := s.pwr.straps.rank, head := s.pwr.straps.head, stby := s.pwr.straps.stby
    port := BitVec.ofNat 2 port, role := s.casc.role, roleV := s.casc.roleV
    epoch := (s.roleOf s.me).epoch, serial := s.ident.identity }

/-- The training records that this device has received, each with its port: of its peers, and forwarded (R400). -/
def State.records (s : State) : List (Nat × TrainRec) :=
  s.upPorts.filterMap (fun k => (s.port k).peer.map (fun r => (k, r))) ++ s.casc.heard

/-- While the cascade forms, each training record received goes on to the other UP ports, once (R400). -/
def State.forwardRecords (s : State) : State :=
  if s.boot.st ≠ .booting ∨ s.boot.step ≠ 8 then s
  else
    s.records.foldl (fun t x => t.upPorts.foldl (fun u k =>
      if k = x.1 ∨ u.casc.told.contains (x.2.serial, x.2.port, k) then u
      else (u.modCasc (fun c => { c with told := c.told ++ [(x.2.serial, x.2.port, k)] })).emit (.training k x.2)) t) s

/-- A training record that a peer forwards (R400). Its sender's port and the device and port that received it make a link of the
topology (R405, log 41), unless one of them is this device. -/
def hearRecord (k : Nat) (r : TrainRec) (at_ : Word) (atPort : BitVec 2) (delay : BitVec 8) (s : State) : State :=
  if (s.port k).st ≠ .up then s
  else
    let l : FarLink := { serialA := lowId r.serial, portA := r.port, serialB := at_, portB := atPort, delay := delay }
    let t := if r.serial = s.ident.identity ∨ at_ = s.myNode then s else s.setLink l .up
    let u := if r.serial = s.ident.identity ∨ t.records.any (fun x => decide (x.2.serial = r.serial) && decide (x.2.port = r.port))
      then t else t.modCasc (fun c => { c with heard := c.heard ++ [(k, r)] })
    u.forwardRecords

/-- One step of R402. A step that fails is repeated on the next lane set or at the lower rate; after the last the port
is DOWN. At T5 the training record arrives and LINK_DELAY is fixed. -/
def trainStep (k : Nat) (step : TrainStep) (s : State) : State :=
  let p := s.port k
  if p.st ≠ .training then s
    else match step with
      | .pass =>
        if p.step < 5 then
          let t := s.modPort k (fun q => { q with step := q.step + 1 })
          if p.step = 4 then t.emit (.training k (s.selfRec k)) else t
        else s
      | .record r d =>
        if p.step = 5 then s.modPort k (fun q => { q with step := 6, peer := some r, delay := d }) else s
      | .fail =>
        if p.step = 6 then s
        else if p.attempt < 5 then s.modPort k (fun q => { q with attempt := q.attempt + 1 })
        else portDown k s
      | .forwarded _ _ _ _ => s

/-- LINK_TRAINING: a step of a port that trains, or a record that a peer forwards. -/
def execLinkTraining (port : Fin 4) (step : TrainStep) (s : State) : Result :=
  .next (match step with
    | .forwarded r n p d => hearRecord port.val r n p d s
    | x => trainStep port.val x s)

/-- The epoch of a training record differs from the map (R403). -/
def State.staleRecord (s : State) (r : TrainRec) : Bool :=
  r.roleV && decide (r.epoch ≠ (s.roleOf r.role.toNat).epoch)

/-- The chain head sends RECHECK START to a shade (R429). -/
def recheckStart (r : BitVec 5) (s : State) : State := if s.casc.isHead then s.send ptRecheck r 0 0 0 else s

/-- Flits of the replay buffer are sent again, in order (R412). -/
def resend (k : Nat) (s : State) : State :=
  (s.port k).replay.foldl (fun t f => t.sendFlit k 1 f.seq 0 false f.units) s

/-- The ports show the roles that the map gives to the devices at their other ends (R433). -/
def State.fixPeers (s : State) : State :=
  portNums.foldl (fun t k => match (t.port k).peer with
    | some r => (match t.rolesAt (lowId r.serial) with
      | v :: _ => t.modPort k (fun q => { q with peerRole := BitVec.ofNat 5 v })
      | [] => t)
    | none => t) s

/-- This device reports a port in QUARANTINE to the chain head; the head itself sends RECHECK START (R428, R429, log 74). -/
def reportShade (k : Nat) (r : BitVec 5) (s : State) : State :=
  if s.casc.isHead then recheckStart r s else s.emit (.shadeReport k r)

/-- T6 of a port (R402, R405). Unacknowledged flits are sent again (R412), the routes are computed again, and a stale
record puts the port in QUARANTINE. -/
def portUp (k : Nat) (s : State) : State :=
  let p := s.port k
  match p.peer with
  | none => s
  | some r =>
    if p.st ≠ .training ∨ p.step ≠ 6 then s
    else
      let bad := s.staleRecord r
      let none' := s.upPorts = []
      let t := s.modPort k (fun q => { q with
        st := if bad then .quarantine else .up
        lanes := if q.attempt % 3 = 0 then 8 else 4
        slow := decide (3 ≤ q.attempt)
        peerRole := if r.roleV then r.role else r.id
        peerPort := r.port
        ctrl := 128, req := 4096, rsp := 4096, rxLeft := none, held := noUnits, back := noUnits, nakOwed := false,
        replays := 0 })
      let u := resend k t
      if bad then reportShade k r.role (u.addClass clsCorrected)
      else
        let role := (u.port k).peerRole.toNat
        let v := u.modCasc (fun c => { c with
          suspended := c.suspended.filter (fun x => x != role), silent := tset zeroNat c.silent role 0 })
        let w := unholdRemotes k v.reroute
        rebind (if none' then w.restartWatch else w).forwardRecords

/-- A link to some roles is UP again: the suspension of their liveness test ends (R523), and they are cut off no more (R426). -/
def endSuspension (roles : List Nat) (s : State) : State :=
  s.modCasc (fun c => { c with
    silent := (c.suspended.filter roles.contains).foldl (fun l r => tset zeroNat l r 0) c.silent
    suspended := c.suspended.filter (fun r => !roles.contains r) })

/-- LINK_UP: a port of this device, or a link further on (R405, R413). -/
def execLinkUp (link : LinkRef) (s : State) : Result :=
  .next (match link with
    | .own port => portUp port.val s
    | .far l => rebind (endSuspension (s.rolesAt l.serialA ++ s.rolesAt l.serialB) (s.setLink l .up).reroute))

/-- RETRAIN: four replays without acknowledgement, or 1 us without a valid flit (R413). -/
def retrainPort (k : Nat) (s : State) : State :=
  let p := s.port k
  if p.st = .up ∨ p.st = .quarantine then
    (holdRemotes k ((s.trainPort k).modPort k (fun q => { q with
      retrains := if q.retrains = 255 then 255 else q.retrains + 1 }))).count 0x600B 2 clsRecovered
  else s

def execRetrain (port : Fin 4) (s : State) : Result := .next (retrainPort port.val s)

/-! ## Flits (R407, R411, R412) -/

/-- The replay buffer after an acknowledgement. -/
def dropAcked (ack : Nat) (l : List SentFlit) : List SentFlit :=
  if l.any (fun f => decide (f.seq = ack)) then (l.dropWhile (fun f => decide (f.seq ≠ ack))).drop 1 else l

/-- ACK_SEQ covers flits of the replay buffer: the records of this device among them have been received (R315). -/
def takeAck (k : Nat) (ackV : Bool) (ack : BitVec 12) (s : State) : State :=
  let l := (s.port k).replay
  let r := dropAcked ack.toNat l
  if !ackV ∨ r.length = l.length then s
  else
    let t := (l.take (l.length - r.length)).foldl (fun u f => match f.ring with
      | some p => received p.1 p.2 u
      | none => u) (s.modPort k (fun q => { q with replay := r, replays := 0 }))
    if r = [] then unholdRemotes k t else t

/-- CREDITS of a received flit (R411). -/
def takeCredits (k : Nat) (c : BitVec 8) (req rsp : BitVec 12) (s : State) : State :=
  (s.modPort k (fun q => { q with
    ctrl := min 128 (q.ctrl + c.toNat), req := min 4096 (q.req + req.toNat),
    rsp := min 4096 (q.rsp + rsp.toNat) })).flushSends

/-- NAK is set in the next flit: once for all flits discarded until one is accepted (R412, log 120). -/
def sendNak (k : Nat) (s : State) : State :=
  if (s.port k).nakOwed then s else (s.modPort k (fun q => { q with nakOwed := true })).sendIdle k 0 true

/-- Every flit from ACK_SEQ + 1 is sent again, in order; a flit replayed four times without acknowledgement retrains
the link (R412, R413). -/
def replayPort (k : Nat) (s : State) : State :=
  let p := s.port k
  if p.replay = [] then s
  else if 4 ≤ p.replays then retrainPort k s
  else (resend k (holdRemotes k (s.modPort k (fun q => { q with replays := q.replays + 1 })))).count 0x600B 1 clsRecovered

/-- One unit of a DATA flit enters its receive buffer: padding between packets, a packet's header, or a data unit of the
packet under way (R407, R408, R411). -/
def Port.takeUnit (p : Port) (u : BitVec 128) : Port :=
  let keep := fun (c : Nat) (q : Port) => { q with held := q.held.set c (q.held.get c + 1) }
  let left := fun (c n : Nat) => if n = 0 then none else some (c, n)
  match p.rxLeft with
  | some (c, n) => keep c { p with rxLeft := left c (n - 1) }
  | none =>
    let t : BitVec 4 := u.truncate 4
    if t = 0 then p else keep (chanOf t) { p with rxLeft := left (chanOf t) (bits u.toNat 32 5) }

/-- The seven units of a flit. -/
def flitUnits (w : BitVec 1024) : List (BitVec 128) := (List.range 7).map (fun i => w.extractLsb' (64 + 128 * i) 128)

/-- The CRC of a flit passes (R407). -/
def flitOk (w : BitVec 1024) : Bool := decide (crc32 (leBytes 124 w.toNat) = w.extractLsb' 992 32)

/-- What every flit brings besides its units: acknowledgement, credits and NAK (R407, R411, R412). -/
def takeLink (k : Nat) (w : BitVec 1024) (s : State) : State :=
  let t := takeCredits k (w.extractLsb' 960 8) (w.extractLsb' 968 12) (w.extractLsb' 980 12)
    (takeAck k (w.getLsbD 26) (w.extractLsb' 14 12) s)
  if w.getLsbD 27 then replayPort k t else t

/-- A flit arrives: one whose CRC fails is discarded with every later one; a DATA flit is accepted when its SEQ follows the last
one accepted, and is acknowledged in the next flit (R412, log 120). The LOCKSTEP field comes as the word's own command (log 41). -/
def recvFlit (k : Nat) (w : BitVec 1024) (s : State) : State :=
  let next : Nat := match (s.port k).rxSeq with | some q => (q + 1) % 4096 | none => 0
  let ftype := bits w.toNat 0 2
  if !s.linked k then s
  else if !flitOk w then sendNak k s
  else if ftype = 0 then takeLink k w s
  else if ftype = 1 then
    if bits w.toNat 2 12 = next then
      (takeLink k w (s.modPort k (fun q => { (flitUnits w).foldl Port.takeUnit q with
        rxSeq := some next, nakOwed := false }))).sendIdle k 0 false
    else sendNak k s
  else if ftype = 2 then retrainPort k s
  else s

/-- DATA_FLIT (R407, R412). -/
def execDataFlit (port : Fin 4) (flit : BitVec 1024) (s : State) : Result := .next (recvFlit port.val flit s)

/-- IDLE_FLIT: acknowledgement and credits. -/
def execIdleFlit (port : Fin 4) (flit : BitVec 1024) (s : State) : Result := .next (recvFlit port.val flit s)

def execNak (port : Fin 4) (ack : BitVec 12) (s : State) : Result :=
  let k := port.val
  .next (if s.linked k then replayPort k (takeAck k true ack s) else s)

def execReplayTimeout (port : Fin 4) (s : State) : Result :=
  .next (if s.linked port.val then replayPort port.val s else s)

/-! ## Packets received (R408, R409, R428) -/

/-- SRC_EPOCH differs from the epoch of SRC in the copy of the map (R428). -/
def State.stalePkt (s : State) (p : Pkt) : Bool := decide (p.srcEpoch ≠ (s.roleOf p.src.toNat).epoch)

/-- A stale packet is discarded and counted, and the port that received it enters QUARANTINE (R428). -/
def quarantine (k : Nat) (p : Pkt) (s : State) : State :=
  let t := s.count 0x600B 4 clsCorrected
  if (t.port k).st = .up then
    reportShade k p.src (t.modPort k (fun q => { q with st := .quarantine, peerRole := p.src })).reroute
  else t

/-- Another device reports a port in QUARANTINE: its link takes no packets but a RECHECK, and the chain head sends START
(R428, R429). -/
def farShade (n : Word) (k : BitVec 2) (r : BitVec 5) (s : State) : State :=
  if !s.casc.isHead then s
  else
    let here := fun (l : FarLink) => (decide (l.serialA = n) && decide (l.portA = k)) || (decide (l.serialB = n) && decide (l.portB = k))
    recheckStart r (s.modCasc (fun c => { c with
      links := c.links.map (fun l => if here l.1 then (l.1, .quarantine) else l) })).reroute

/-- STALE_EPOCH_PACKET (R428). -/
def execStaleEpochPacket (at_ : PortAt) (p : Pkt) (s : State) : Result :=
  .next (match at_ with
    | .own port => if s.stalePkt p then quarantine port.val p (s.freeUnits port.val (chanOf p.ptype) (1 + p.units.toNat)) else s
    | .far n k => farShade n k p.src s)

/-- A type or length that R408 and R409 refuse. -/
def Pkt.refused (p : Pkt) : Bool := decide (p.ptype = 14) || decide (p.ptype = 15) || decide (16 < p.units.toNat)

/-- A packet of type `t` arrives over a port: padding, refused, stale, stopped by QUARANTINE, forwarded with one more hop, or
handled here (R408, R409, R428). Its units leave the receive buffer as it is consumed, or as it is passed on (R411). -/
def recvPkt (k : Nat) (t : BitVec 4) (p : Pkt) (data : List Byte) (handle : State → State) (s : State) : State :=
  let u := s.freeUnits k (chanOf p.ptype) (1 + p.units.toNat)
  if p.ptype = 0 then s
  else if Pkt.refused p then discardPkt u
  else if p.ptype ≠ t then s
  else if s.stalePkt p then quarantine k p u
  else if (s.port k).st = .quarantine then u
  else if p.dst = s.casc.role then handle u
  else if !s.rolePresent p.dst.toNat ∨ p.hops = 15 then discardPkt u
  else s.sendPkt { pkt := { p with hops := p.hops + 1 }, data := data, via := some k }

/-! ## Remote accesses (R410) -/

/-- An answer from this device to the packet's source. -/
def State.reply (s : State) (t : BitVec 4) (p : Pkt) (arg : Nat) (data : List Byte := []) : State :=
  s.send t p.src 0 p.rtag.toNat arg data

/-- A WRITE for this device: the bytes are written and then acknowledged, or PATH_FAIL. An access that waits for its tier is
accepted when the tier is free (log 30): `s0` is the state with its packet still in the receive buffer. -/
def writeHere (p : Pkt) (data : List Byte) (s0 s : State) : State :=
  match s.pathWrite (.peer p.arg) p.addr.toNat (data.take (16 * p.units.toNat)) none true with
  | .done t _ => t.reply ptWriteAck p 0
  | .waits => s0
  | .held t => t
  | .fails | .gated => s.reply ptWriteAck p 1

/-- A READ for this device: `ARG` units are read; a READ of 0 units from the chain head is its liveness READ, which restarts
the watch (R427). -/
def readHere (p : Pkt) (s0 s : State) : State :=
  let t := if (s.roleOf p.src.toNat).head ∧ p.arg = 0 then s.restartWatch else s
  if 16 < p.arg.toNat then discardPkt t
  else match t.pathRead (.peer p.arg) p.addr.toNat (16 * p.arg.toNat) with
    | .done u d => u.reply ptReadRsp p 0 d
    | .waits | .held _ => s0
    | .fails | .gated => t.reply ptReadRsp p 1

/-- A packet whose address is another one (R504). -/
def movedPkt (s : State) (p : Pkt) : Pkt := { p with addr := BitVec.ofNat 48 s.freeAddr }

/-- The clock ratios that a packet for this device crosses (R504). -/
def State.pktRatios (s : State) (p : Pkt) : BitVec 3 := if p.dst = s.casc.role then s.ratioAt p.addr.toNat else 0

/-- CASCADE_WRITE (R410). -/
def execCascadeWrite (port : Fin 4) (p : Pkt) (data : List Byte) (s : State) : Result :=
  crossing (s.pktRatios p) s (fun t => recvPkt port.val ptWrite p data (writeHere p data t) t)
    (fun t => recvPkt port.val ptWrite p data (writeHere (movedPkt t p) (t.freeBytes data.length) t) (t.takeFrees (1 + data.length)))

/-- CASCADE_READ (R410). -/
def execCascadeRead (port : Fin 4) (p : Pkt) (s : State) : Result :=
  crossing (s.pktRatios p) s (fun t => recvPkt port.val ptRead p [] (readHere p t) t)
    (fun t => recvPkt port.val ptRead p [] (readHere (movedPkt t p) t) t.takeFree)

/-- The remote access that a response names. -/
def State.remoteOf (s : State) (p : Pkt) (write : Bool) : Option Remote :=
  s.casc.remote.find? (fun r => decide (r.tag = p.rtag) && decide (r.role = p.src) && decide (r.write = write))

/-- A remote access ends: answered to its master, or, for a liveness READ, noted (R426). -/
def endRemote (r : Remote) (ok : Bool) (data : List Byte) (s : State) : State :=
  let t := (s.noteHold r.hold).modCasc (fun c => { c with remote := c.remote.filter (fun x => decide (x.tag ≠ r.tag)) })
  match r.who with
  | .liveness => if ok then t.modCasc (fun c => { c with silent := tset zeroNat c.silent r.role.toNat 0 }) else t
  | .dma => answerDma r.tag r.write ok data t
  | .master m =>
    if r.write then (if ok then t.emit (.pathOk m) else pathFails m t)
    else if ok then t.emit (.readData m (data.take r.want)) else readFails m r.want t

def execReadRsp (port : Fin 4) (p : Pkt) (data : List Byte) (s : State) : Result :=
  .next (recvPkt port.val ptReadRsp p data (fun t => match t.remoteOf p false with
    | some r => endRemote r (decide (bits p.arg.toNat 0 8 = 0)) data t
    | none => t) s)

def execWriteAck (port : Fin 4) (p : Pkt) (s : State) : Result :=
  .next (recvPkt port.val ptWriteAck p [] (fun t => match t.remoteOf p true with
    | some r => endRemote r (decide (bits p.arg.toNat 0 8 = 0)) [] t
    | none => t) s)

/-- REMOTE_TIMEOUT ends an access without an answer as failed (R410). -/
def execRemoteTimeout (tag : BitVec 16) (s : State) : Result :=
  .next (match s.casc.remote.find? (fun r => decide (r.tag = tag)) with
    | some r => endRemote r false [] (s.toTick (r.sent + usTicks (s.ent? 0x7000 7)))
    | none => s)

/-- Start a remote access of `want` bytes or of `data` (R410, R474). -/
def startRemote (role : BitVec 5) (write : Bool) (who : Requester) (addr want : Nat) (data : List Byte) (s : State) :
    State :=
  let tag := BitVec.ofNat 16 s.nextId
  let t := s.takeId.modCasc (fun c => { c with
    remote := c.remote ++ [{ tag := tag, role := role, write := write, who := who, want := want, sent := s.clk.ticks,
                             hold := none }] })
  t.send (if write then ptWrite else ptRead) role addr tag.toNat (if write then 0 else ceilDiv want 16) data

/-! ## Signals, rings and probes -/

/-- CASCADE_SIGNAL adds its amount (R422). -/
def execCascadeSignal (port : Fin 4) (p : Pkt) (s : State) : Result :=
  .next (recvPkt port.val ptSignal p [] (fun t => t.signalBy (fld p.addr.toNat 0 14) (p.arg.zeroExtend 32)) s)

/-- The fields of the ring packets: the receiving stream, the sending stream and the receiver entry (R409). -/
def ringTo (p : Pkt) : Nat := bits p.addr.toNat 0 4
def ringFrom (p : Pkt) : Nat := bits p.rtag.toNat 0 4
def ringEntry (p : Pkt) : Nat := bits p.rtag.toNat 4 2

/-- The binding that a ring packet speaks of. -/
def bindOf (p : Pkt) : Bind := { stream := ringTo p, role := p.src, sender := ringFrom p, entry := ringEntry p }

/-- The free slots of an inbound ring. -/
def State.freeSlots (s : State) (n : Nat) : Nat := (s.stream n).inb.slots - (s.stream n).inb.fill

/-- RING_REC: a record for a bound ring enters it (R423). -/
def execRingRec (port : Fin 4) (p : Pkt) (data : List Byte) (s : State) : Result :=
  .next (recvPkt port.val ptRingRec p data (fun t =>
    if t.casc.rbinds.contains (bindOf p) ∧ t.freeSlots (ringTo p) ≠ 0 then enqueue (ringTo p) 2 (leBytes 64 (leNat data)) t
    else discardPkt t) s)

/-- An answer to a waiting enable or to a new bind, or slots that the receiver frees (R413, R424). -/
def ringCredit (p : Pkt) (t : State) : State :=
  let n := ringFrom p
  let e := ringEntry p
  let r := (t.stream n).recv e
  if r.kind ≠ 2 ∨ r.device ≠ p.src.toNat ∨ r.stream ≠ ringTo p then t
  else
    let grant := fun (u : State) => u.modFar n e (fun x => { x with free := x.free + p.arg.toNat })
    let bound := fun (u : State) => u.modFar n e (fun _ => { free := p.arg.toNat, slots := p.arg.toNat, cut := false })
    let again := fun (u : State) => u.modFar n e (fun x => { x with
      free := p.arg.toNat, slots := max x.slots p.arg.toNat, cut := false })
    let later := fun (u : State) => if p.arg = 0xFFFF then u else if (u.farRing n e).cut then again u else grant u
    match t.str.enable with
    | some w =>
      if w.waits.contains (n, e) then
        if p.arg = 0xFFFF then refuseEnable w t
        else
          let u := bound t
          let w' : EnableWait := { w with waits := w.waits.filter (fun x => x != (n, e)) }
          if w'.waits = [] then
            (applyEnable w.value { u with str := { u.str with enable := none } }).answerLate w.master tU16 0
          else { u with str := { u.str with enable := some w' } }
      else later t
    | none => later t

/-- RING_BIND: binds the ring and answers with its free slots, or refuses a second producer; 1 unbinds (R424). -/
def execRingBind (port : Fin 4) (p : Pkt) (s : State) : Result :=
  .next (recvPkt port.val ptRingBind p [] (fun t =>
    if p.arg = 1 then t.modCasc (fun c => { c with rbinds := c.rbinds.filter (fun b => b != (bindOf p)) })
    else if p.arg ≠ 0 then t
    else
      let answer := fun (u : State) (v : Nat) => u.send ptRingCredit p.src (ringTo p) p.rtag.toNat v
      if t.casc.rbinds.contains (bindOf p) then answer t (t.freeSlots (ringTo p))
      else if t.localProducer (ringTo p) ∨ t.remoteProducer (ringTo p) then answer t 0xFFFF
      else answer (t.modCasc (fun c => { c with rbinds := c.rbinds ++ [(bindOf p)] })) (t.freeSlots (ringTo p))) s)

/-- PROBE (R312): one that returns to its initiator while the stall continues breaks the cycle when the highest identity
it carries is this one's; otherwise it goes along every edge to another device while the sequencer is stalled. A member hands
it to its rank master, which answers for the rank. -/
def execProbe (port : Fin 4) (p : Pkt) (s : State) : Result :=
  .next (recvPkt port.val ptProbe p [] (fun t =>
    let id := bits p.addr.toNat 0 9
    let high := bits p.arg.toNat 0 9
    if !t.isRankMaster then t.sendProbe t.casc.role.toNat id high
    else
      match t.seq.stall with
      | none => t
      | some x =>
        if t.seq.st ≠ .stalled ∨ x.held then t
        else if id = t.probeId then (if x.probed ∧ high = t.probeId then endWait 1 t else t)
        else t.remoteEdges.foldl (fun u e => u.sendProbe e.2.1 id (max high t.probeId)) t) s)

/-! ## Fencing (R426 to R430) -/

/-- The LOCKSTEP record of the present bundle, for the cycle in which the sequencer halts on it (R173, R180). -/
def State.lockRec (s : State) (detail cycle : Nat) : ExcRec :=
  { s.slotRec s.bundleCtx causeLockstep detail with halted := true, cycle := cycle }

/-- The rank's lockstep fails: HALT tells the rank, and LOCKSTEP is recorded in the cycle in which it halts (R180, R420,
R421, log 39). -/
def lockFail (detail : Nat) (s : State) : State :=
  if s.inRank then s.rankHaltAll (.lockstep (s.lockRec detail (s.clk.cycle + 49)))
  else s.applyDue (.lockstep (s.lockRec detail s.clk.cycle))

/-- What every device does for a role declared dead, with the entry it had: receivers on it are OFF, rings with it are unbound,
and its rank's master halts the rank, if it was a member of one (R426 steps 3 and 4). -/
def fenceRole (r : Nat) (was : MapRole) (s : State) : State :=
  let t := streamNums.foldl (fun a n => recvNums.foldl (fun b e =>
    let q := (b.stream n).recv e
    if q.kind = 2 ∧ q.device = r then
      let late := if q.rst = .attached then 0 else b.onTheWay portNums n e
      (((fenceRecv n e (b.modStream n (fun x => x.modRecv e (fun y => y.miss late)))).addCnt 0x6008 5 late).dropRecords n e).modFar
        n e (fun _ => farRing0 0)
    else b) a) s
  let u := t.modCasc (fun c => { c with rbinds := c.rbinds.filter (fun b => decide (b.role.toNat ≠ r)) })
  if was.st = .active ∧ u.casc.roleV ∧ (u.roleOf u.me).st = .active ∧ was.rank = (u.roleOf u.me).rank ∧ u.isRankMaster then
    u.rankHaltAll (.lockstep (u.lockRec r (u.clk.cycle + 49)))
  else u

/-- RSTATE codes of R401. -/
def RoleState.code : RoleState → Nat
  | .vacant => 0
  | .active => 1
  | .standby => 2
  | .dead => 3

def roleStateOf (n : Nat) : RoleState :=
  if n = 0 then .vacant else if n = 1 then .active else if n = 2 then .standby else .dead

/-- The chain head tells the other roles of a role's new epoch and state (R426 step 2). -/
def tellEpoch (r : Nat) (dest : List Nat) (s : State) : State :=
  let e := s.roleOf r
  dest.foldl (fun t d => t.send ptEpoch (BitVec.ofNat 5 d) (r + 2 ^ 5 * e.st.code) 0 e.epoch.toNat) s

/-- The bar of a part: the role it held and its identity bits (R430, R433). -/
def barOf (r : Nat) (serial : Word) : BitVec 64 := BitVec.ofNat 64 (r + 2 ^ 5 + serial.toNat * 2 ^ 32)

/-- The chain head declares a role dead (R426). -/
def declareDead (r : Nat) (s : State) : State :=
  let e := s.roleOf r
  let dest := s.others.filter (fun d => d != r)
  let t := (s.setRole r { e with epoch := e.epoch + 1, st := .dead }).modCasc (fun c => { c with
    shades := c.shades ++ [barOf r e.serial], silent := tset zeroNat c.silent r 0 })
  abortRole r ((fenceRole r e (tellEpoch r dest t.fixMasters)).count 0x600B 5 clsFailed)

/-- LIVENESS_READ_PERIOD: the chain head reads from every other role whose test is not suspended (R426, R523). -/
def execLivenessReadPeriod (s : State) : Result :=
  .next (if s.casc.isHead then
    (s.others.filter (fun r => !s.casc.suspended.contains r)).foldl (fun t r =>
      noteSilent r (startRemote (BitVec.ofNat 5 r) false .liveness 0 0 [] t)) s
  else s)

/-- DEAD_TIME in ticks. -/
def State.deadTicks (s : State) : Nat := s.ent? 0x7000 6 * 25000

/-- DEAD_TIME_EXPIRY: a role that has been silent for DEAD_TIME is declared dead by the chain head (R426). -/
def execDeadTimeExpiry (role : BitVec 5) (s : State) : Result :=
  let r := role.toNat
  let since := tget zeroNat s.casc.silent r
  .next (if s.casc.isHead ∧ r ≠ s.me ∧ s.rolePresent r ∧ since ≠ 0 ∧ !s.casc.suspended.contains r then
    declareDead r (s.toTick (since - 1 + s.deadTicks))
  else s)

/-- A write of DECLARE_DEAD: on the chain head, for another role that is present (R426, R433). -/
def wDeclareDead (v : Nat) (s : State) : WriteRes :=
  if 31 < v then (abRange, s)
  else if !s.casc.isHead ∨ v = s.me ∨ !s.rolePresent v then (abBusy, s)
  else (0, declareDead v s)

def execDeclareDead (m : Master) (role : BitVec 8) (s : State) : Result :=
  entryWrite m 0x7000 11 1 role.toNat (wDeclareDead role.toNat) s

/-- CHAIN_HEAD_LOST: the watch reaches DEAD_TIME, and the device stops as for a fatal event (R427). -/
def execChainHeadLost (s : State) : Result :=
  .next (match s.casc.watch with
    | some w =>
      if s.casc.isHead ∨ s.casc.shade ≠ .none ∨ s.upPorts = [] ∨ s.pwr.mode = 4 ∨ s.boot.stopped then s
      else ((s.toTick (w + s.deadTicks)).modCasc (fun c => { c with watch := none })).goFatal 4 0
    | none => s)

/-- The identity bits of the shade that becomes a standby, as a copy can tell: EPOCH names none (R409, log 42). Of several shades
it is any one. -/
def State.shadeId (s : State) : Word :=
  match s.casc.shades with
  | [b] => BitVec.ofNat 32 (b.toNat / 2 ^ 32)
  | _ => BitVec.ofNat 32 (Config.freeNat s.freeIx)

/-- The shade named leaves the list of those declared dead. -/
def State.dropShade (s : State) (id : Word) : State :=
  s.modCasc (fun c => { c with shades := c.shades.filter (fun b => decide (BitVec.ofNat 32 (b.toNat / 2 ^ 32) ≠ id)) })

/-- The copy of the map takes an EPOCH packet (R426 step 2). A role made ACTIVE and then one made VACANT are the two halves of a
role assignment: the identity moves with the role, and the device that held the second holds the first (R431). A role made
STANDBY is that of a shade that passed, which is this device if it holds none (R429, log 42). -/
def takeEpoch (r : Nat) (st : RoleState) (epoch : BitVec 16) (s : State) : State :=
  let e := { s.roleOf r with epoch := epoch, st := st }
  match st with
  | .active => (s.setRole r e).modCasc (fun c => { c with given := some (BitVec.ofNat 5 r) })
  | .vacant =>
    let t := match s.casc.given with
      | some n => s.setRole n.toNat { s.roleOf n.toNat with serial := e.serial }
      | none => s
    (t.setRole r { e with serial := 0 }).modCasc (fun c =>
      if c.roleV ∧ r = c.role.toNat then { c with role := c.given.getD c.role, roleV := c.given.isSome, given := none }
      else { c with given := none })
  | .standby =>
    if !s.casc.roleV ∧ s.casc.shade = .none then
      (s.setRole r { e with serial := s.myNode }).modCasc (fun c => { c with role := BitVec.ofNat 5 r, roleV := true })
    else ((s.setRole r { e with serial := s.shadeId }).dropShade s.shadeId).takeFree
  | .dead => (s.setRole r e).modCasc (fun c => { c with shades := c.shades ++ [barOf r e.serial] })

/-- After a change of the map: rank masters, the roles that ports show, and routes follow (R399, R405, R433). -/
def afterMap (s : State) : State := s.fixMasters.fixPeers.reroute

/-- EPOCH: the copy of the map is updated (R426 step 2). -/
def execEpoch (port : Fin 4) (p : Pkt) (s : State) : Result :=
  .next (recvPkt port.val ptEpoch p [] (fun t =>
    if !(t.roleOf p.src.toNat).head then t
    else
      let r := bits p.addr.toNat 0 5
      let st := roleStateOf (bits p.addr.toNat 5 2)
      let u := afterMap (takeEpoch r st p.arg t)
      if st = .dead then fenceRole r (t.roleOf r) u else u) s)

/-- A bar is added; with 32 held the oldest is replaced (R430). -/
def addBar (b : BitVec 64) (s : State) : State :=
  if s.casc.bars.length < 32 then s.modCasc (fun c => { c with bars := c.bars ++ [b] })
  else (s.modCasc (fun c => { c with bars := c.bars.drop 1 ++ [b] })).addCnt 0x600B 8 1

/-- The shade's side of RECHECK START (R429): its tests begin, a replanning pass among them. -/
def startRecheck (s : State) : State :=
  let t := (applyEnable 0 (s.haltSeq .halted)).modCasc (fun c => { c with
    rbinds := [], shade := .testing, watch := none })
  State.startPass { t with sync := [] } false

/-- The links of a shade leave QUARANTINE (R429). -/
def State.clearQuarantine (s : State) (r : Nat) : State :=
  let n := s.nodeOf r
  let t := portNums.foldl (fun u k =>
    if (u.port k).st = .quarantine ∧ (u.port k).peerRole.toNat = r then u.modPort k (fun q => { q with st := .up }) else u) s
  t.modCasc (fun c => { c with links := c.links.map (fun l =>
    if l.2 = .quarantine ∧ (l.1.serialA = n ∨ l.1.serialB = n) then (l.1, .up) else l) })

/-- The lowest VACANT role that a part is not barred from (R429, R430). -/
def State.freeRole (s : State) (serial : Word) : Option Nat :=
  roleNums.find? (fun v => decide ((s.roleOf v).st = .vacant) && !s.casc.bars.contains (barOf v serial))

/-- The identity bits of a shade at a port of this device, from its training record. -/
def State.shadePeer (s : State) (r : Nat) : Word :=
  ((portNums.find? (fun k => decide ((s.port k).st = .quarantine) && decide ((s.port k).peerRole.toNat = r))).bind
    (fun k => (s.port k).peer)).elim (s.roleOf r).serial (fun x => lowId x.serial)

/-- The chain head's side of PASS: the shade gets the lowest VACANT role that it is not barred from as a standby, and a bar (R429,
R430). -/
def recheckPass (r : Nat) (s : State) : State :=
  let bar := s.casc.shades.find? (fun b => decide (bits b.toNat 0 5 = r))
  let id : Word := match bar with | some b => BitVec.ofNat 32 (b.toNat / 2 ^ 32) | none => s.shadePeer r
  let t := (s.addCnt 0x600B 6 1).clearQuarantine r
  let u := (match bar with | some b => addBar b t | none => t).dropShade id
  match u.freeRole id with
  | none => u.reroute
  | some v =>
    let e := u.roleOf v
    let w := afterMap (u.setRole v { e with st := .standby, epoch := e.epoch + 1, serial := id })
    tellEpoch v ((w.others.filter (fun d => d != v)) ++ [r]) w

/-- A shade's PASS on its way to the chain head: the port to the shade leaves QUARANTINE (R429, log 113). -/
def passThrough (p : Pkt) (s : State) : State :=
  if bits p.addr.toNat 0 4 ≠ 1 then s else (s.clearQuarantine p.src.toNat).reroute

/-- RECHECK: START at a shade, PASS and FAIL at the chain head (R429). It passes quarantined ports and needs no epoch
(R428). -/
def execRecheck (port : Fin 4) (p : Pkt) (s : State) : Result :=
  let u := s.freeUnits port.val (chanOf p.ptype) (1 + p.units.toNat)
  .next (if p.ptype ≠ ptRecheck then s
    else if 16 < p.units.toNat then discardPkt u
    else if p.dst ≠ s.casc.role then
      (if p.hops = 15 then discardPkt u
       else (passThrough p s).sendPkt { pkt := { p with hops := p.hops + 1 }, data := [], via := some port.val })
    else
      let code := bits p.addr.toNat 0 4
      if !u.casc.isHead then
        let t := u.restartWatch
        if code = 0 ∧ (u.roleOf p.src.toNat).head ∧ u.casc.shade = .none then startRecheck t else t
      else if code = 1 then recheckPass p.src.toNat u
      else if code = 2 then u.count 0x600B 7 clsFailed
      else u)

/-- RECHECK_END: the shade answers (R429), and one that passed watches the chain head again (R427). -/
def execRecheckEnd (pass : Bool) (test : BitVec 16) (s : State) : Result :=
  .next (if s.casc.shade ≠ .testing then s
    else
      let t := match s.headRole with
        | some h => s.send ptRecheck (BitVec.ofNat 5 h) (if pass then 1 else 2) 0 (if pass then 0 else test.toNat)
        | none => s
      (t.modCasc (fun c => { c with
        shade := if pass then .none else .failed, roleV := if pass then false else c.roleV })).restartWatch)

/-- A rank has its four members (R14, R17). -/
def State.rankTaken (s : State) (rank : BitVec 3) : Bool :=
  decide (4 ≤ (roleNums.filter (fun r => decide ((s.roleOf r).st = .active) && decide ((s.roleOf r).rank = rank))).length)

/-- A write of ROLE_ASSIGN (R430, R431). The map's RANK of role n stands, which for a VACANT role is 0; a fifth member of a rank is
refused with the busy abort code, since a rank has at most four (R14, R17, log 96). -/
def wRoleAssign (v : Nat) (s : State) : WriteRes :=
  let n := bits v 0 5
  let m := bits v 5 5
  let e := s.roleOf n
  let f := s.roleOf m
  if !s.casc.isHead ∨ (e.st ≠ .dead ∧ e.st ≠ .vacant) ∨ f.st ≠ .standby ∨ s.rankTaken e.rank then (abBusy, s)
  else if s.casc.bars.any (fun b => decide (b = barOf n f.serial)) then (abRange, s)
  else
    let dest := s.others
    let t := afterMap ((s.setRole n { e with st := .active, serial := f.serial }).setRole m { f with
      st := .vacant, serial := 0 })
    (0, tellEpoch m dest (tellEpoch n dest t))

def execRoleAssign (m : Master) (value : BitVec 16) (s : State) : Result :=
  entryWrite m 0x7000 10 2 value.toNat (wRoleAssign value.toNat) s

end Sys2Proof.Machine
end

