-- ==== Sys2Proof/Machine/Lockstep.lean ====
section
/-!
DEFINITION. Lockstep inside a rank (R178 to R181, R415 to R422): START, the words HOLD, READY, RELEASE, BRANCH, PULSE and
HALT as they arrive, and signals between members. A word's VALUE names a cycle by RANK_CYCLE bits [23:0].
-/
namespace Sys2Proof.Machine

def State.modLock (s : State) (f : Lockstep → Lockstep) : State := s.modCasc (fun c => { c with lock := f c.lock })

/-- A role is a member of this device's rank of two or more. -/
def State.isMember (s : State) (r : BitVec 5) : Bool := s.inRank && s.rankMembers.contains r.toNat

/-- Whether a role is the rank's master. -/
def State.isMaster (s : State) (r : BitVec 5) : Bool := s.isMember r && (s.roleOf r.toNat).master

/-- Add a role to a list once. -/
def addOnce (r : BitVec 5) (l : List (BitVec 5)) : List (BitVec 5) := if l.contains r then l else l ++ [r]

/-- The rank master, holding READY from every member that held, sends RELEASE naming h + 48 (R418 step 5): from the planned
cycle on, by which the HOLD of every member has come (step 3). -/
def State.tryRelease (s : State) : State :=
  let k := s.casc.lock
  if s.isRankMaster ∧ k.holds ≠ [] ∧ k.holds.all (fun r => k.readies.contains r) ∧ k.releaseAt = none
      ∧ s.seq.planned ≤ s.clk.cycle then
    (s.sendLock 4 (bits (k.latest + 48) 0 24)).modLock (fun l => { l with releaseAt := some (l.latest + 48) })
  else s

/-- Members are ready in RANK_CYCLE `h`; READY carries the latest cycle (R417, R418 step 4). -/
def State.noteReady (s : State) (rs : List (BitVec 5)) (h : Nat) : State :=
  (s.modLock (fun l => { l with
    readies := rs.foldr addOnce l.readies, latest := if l.readies = [] then h else max l.latest h })).tryRelease

/-- The members that hold whose words leave over a port, this device among them. -/
def State.holdersAt (s : State) (k : Nat) : List (BitVec 5) :=
  s.casc.lock.holds.filter (fun r => decide (r = s.casc.role) || (s.wordPorts r.toNat).contains k)

/-- READY goes on over some ports: over one behind which another member still holds, HOLD of that member goes instead; READY names
the latest cycle (R417). -/
def State.passReady (s : State) (ports : List Nat) (origin : BitVec 5) : State :=
  ports.foldl (fun t k => match (s.holdersAt k).find? (fun r => !s.casc.lock.readies.contains r) with
    | some r => t.putLock [k] 2 r (bits s.rankCycle 0 24)
    | none => t.putLock [k] 3 origin (bits s.casc.lock.latest 0 24)) s

/-- The last hop of a member's words to this device. -/
def State.lastHop (s : State) (r : BitVec 5) : Option Hop := (s.lockPath r.toNat s.casc.role.toNat).getLast?

/-- RANK_CYCLE of a word's VALUE: the value nearest to now. -/
def State.rankOf (s : State) (v : BitVec 24) : Nat := ((s.cycleOfRank v.toNat : Int) + s.casc.lock.offset).toNat

/-- The planned cycle of the bundle that a HOLD speaks of: 24 cycles after the check in which its member sent it (R418). -/
def State.heldCycle (s : State) (origin : BitVec 5) : Nat := s.clk.cycle + 24 - s.pathDelay origin.toNat

/-- HOLD: the bundle is held back on every member (R418 step 3). While the bundle before is still to issue, it is of the later
one. -/
def execHold (origin : BitVec 5) (s : State) : Result :=
  let q := s.heldCycle origin
  .next (if s.isMember origin then
    (s.modLock (fun l =>
      if s.seq.st = .running ∧ s.seq.planned < q then { l with later := l.later ++ [(origin, q)] }
      else { l with holds := addOnce origin l.holds })).forwardLock origin 2 (bits s.rankCycle 0 24)
  else s)

/-- READY from a member (R418): it speaks for every member behind it on its way, and goes on with the latest cycle (R417). -/
def execReady (origin : BitVec 5) (value : BitVec 24) (s : State) : Result :=
  .next (if s.isMember origin then
    let from' := s.casc.lock.holds.filter (fun r => decide (r ≠ s.casc.role) && decide (s.lastHop r = s.lastHop origin))
    (s.noteReady (addOnce origin from') (s.rankOf value)).passReady (s.wordPorts origin.toNat) origin
  else s)

/-- RELEASE from the rank master names the issue cycle (R418 step 5). -/
def execRelease (origin : BitVec 5) (value : BitVec 24) (s : State) : Result :=
  .next (if s.isMaster origin then
    (s.modLock (fun l => { l with releaseAt := some (s.rankOf value) })).forwardLock origin 4 value.toNat else s)

/-- The rank master compares the first branch word of each member once every member's is held; a difference is a mismatch
(R180, R421). -/
def State.compareBranches (s : State) : State :=
  if !s.isRankMaster then s
  else
  let ms := s.rankMembers.map (fun r => BitVec.ofNat 5 r)
  let first := fun (r : BitVec 5) => s.casc.lock.words.find? (fun w => decide (w.1 = r))
  if ms.all (fun r => (first r).isSome) then
    let vs : List (BitVec 24) := ms.map (fun r => match first r with | some w => w.2 | none => 0)
    let dropped := ms.foldl (fun l r => l.eraseP (fun w => decide (w.1 = r))) s.casc.lock.words
    let t := s.modLock (fun l => { l with words := dropped })
    if vs.all (fun v => decide (v = vs.headD 0)) then t else lockFail 0 t
  else s

/-- BRANCH: the outcome of a taken branch of a member (R421). -/
def execBranch (origin : BitVec 5) (value : BitVec 24) (s : State) : Result :=
  .next (if s.isMember origin then
    ((s.modLock (fun l => { l with words := l.words ++ [(origin, value)] })).compareBranches).forwardLock origin 5 value.toNat
  else s)

/-- START from the rank master: RANK_CYCLE reads the value named in the cycle named, and issue starts there (R419). The
master names a cycle 64 ahead of its sending; the word has spent the LINK_DELAY of its path on its way (R404, log 43). -/
def execStart (origin : BitVec 5) (value : BitVec 24) (s : State) : Result :=
  .next (if s.isMaster origin ∧ !s.seqActive ∧ !s.boot.stopped then
    let at' := s.clk.cycle + (64 - s.pathDelay origin.toNat)
    (startIssue at' (s.modCasc (fun c => { c with
      lock := { lockReset with started := true, offset := (value.toNat : Int) - (at' : Int) } }))).forwardLock origin 6 value.toNat
  else s)

/-- HALT: bundles issue up to the cycle that the rank master names, and then the member halts (R421). On a mismatch it records
LOCKSTEP in the cycle in which every member does (R180, log 39). A member's HALT asks the master for it: the master sends its own,
and the others hand it on (log 112). -/
def execRankHalt (origin : BitVec 5) (value : BitVec 24) (cause : HaltCause) (s : State) : Result :=
  let k := s.cycleOfRank value.toNat + 1
  let d : Due := match cause with
    | .control => .halt false
    | .fault => .halt true
    | .lockstep d => .lockstep (s.lockRec d.toNat k)
  .next (if !s.isMember origin then s
    else if s.isRankMaster then (if origin = s.casc.role then s else (s.schedule k d).sendLock 7 value.toNat)
    else (if s.isMaster origin then s.schedule k d else s).forwardLock origin 7 value.toNat)

/-- PULSE_PERIOD_EXPIRY: the rank master sends its RANK_CYCLE every PULSE_PERIOD (R420). -/
def execPulsePeriodExpiry (s : State) : Result :=
  .next (if s.inRank ∧ s.isRankMaster then
    let p := max 1 (s.ent? 0x7000 5)
    let t := s.passCycles (p - s.rankCycle % p)
    t.sendLock 1 (bits t.rankCycle 0 24)
  else s)

/-- PULSE: the value plus the LINK_DELAY of its path is compared with RANK_CYCLE (R420). -/
def execPulse (origin : BitVec 5) (value : BitVec 24) (s : State) : Result :=
  .next (if s.isMaster origin ∧ origin ≠ s.casc.role then
    (if (value.toNat + s.pathDelay origin.toNat) % 2 ^ 24 = s.rankCycle % 2 ^ 24 then s else lockFail 0 s).forwardLock origin 1 value.toNat
  else s)

/-- RANK_PEER_SIGNAL: a SIGNAL_PEER of a member of the rank takes effect at the end of cycle t + 24 (R422). -/
def execRankPeerSignal (origin : BitVec 5) (obj : BitVec 14) (issued : BitVec 24) (s : State) : Result :=
  .next (if s.isMember origin then (s.schedule (s.cycleOfRank issued.toNat + 25) (.signal obj 1)).passCycles 0
    else s)

end Sys2Proof.Machine
end

