-- ==== Sys2Proof/Machine/Dma.lean ====
section
/-!
DEFINITION. The DMA engine (R482 to R497): channels and their settings, the reading and acceptance of descriptors, the
taking of channels, COPY, FILL and MARKER, native and GK8-compatible completions, and the disabling of channels.
-/
namespace Sys2Proof.Machine

/-! ## Acceptance (R484, R485, R488) -/

/-- One side of a transfer is refused: space 3, an address above the device's range, or a role that is absent. -/
def State.sideBad (s : State) (space role addr : Nat) : Bool :=
  decide (space = 3) || (decide (space ≠ 1) && decide (2 ^ 48 ≤ addr)) || (decide (space = 2) && !s.rolePresent role)

/-- A device range of `n` bytes touches [lo, hi). -/
def hits (space addr n lo hi : Nat) : Bool :=
  decide (space ≠ 1) && decide (n ≠ 0) && decide (addr < hi) && decide (lo < addr + n)

/-- The checks of R488; fields that the OP does not use are not checked. -/
def State.descBad (s : State) (d : Desc) : Bool :=
  if d.op = 2 then false
  else if 2 < d.op then true
  else
    let c := decide (d.op = 0)
    let ctl := (c && hits d.srcSpace d.src d.len ibufBase (2 * ibufBase)) || hits d.dstSpace d.dst d.len ibufBase (2 * ibufBase)
    decide (2 ^ 24 < d.len) || (c && s.sideBad d.srcSpace d.srcRole d.src) || s.sideBad d.dstSpace d.dstRole d.dst
      || (ctl && ((c && decide (d.src % 64 ≠ 0)) || decide (d.dst % 64 ≠ 0) || decide (d.len % 64 ≠ 0)))
      || (c && hits d.srcSpace d.src d.len syncBase (syncBase + 0x20000))
      || hits d.dstSpace d.dst d.len syncBase (syncBase + 0x20000)

/-- A descriptor is accepted by a channel (R483, R484): one that is refused has its status at once. -/
def acceptDesc (k addr : Nat) (inHost : Bool) (data : BitVec 512) (ctx : Option SlotCtx) (job : Option JobRef) (s : State) :
    State :=
  let d : Desc := { id := s.nextId, inHost := inHost, addr := addr, data := data, ctx := ctx, job := job,
                    taken := s.clk.cycle, status := 0, done := 0, moved := false
                    lone := s.dma.run.isNone && chanNums.all (fun j => decide (j = k) || decide ((s.chan j).acc = [])) }
  let st := if ctx.isNone && !data.getLsbD 511 then 8 else if s.descBad d then 1 else 0
  (s.takeId).modChan k (fun c => { c with
    acc := c.acc ++ [{ d with status := st, moved := decide (st ≠ 0) }]
    waits := if c.waits.isSome ∨ (s.dma.run.map (fun r => r.chan)) = some k then c.waits else some s.clk.ticks })

/-- Read descriptors in ring order, up to 8 beyond the last completed one (R484). -/
def readDescs (k : Nat) : Nat → State → State
  | 0, s => s
  | n + 1, s =>
    let c := s.chan k
    let r := s.chRing k
    if 8 ≤ c.acc.length ∨ c.read = c.tail then s
    else
      let a := r.slot c.read
      let host := s.chHostRing k
      readDescs k n ((acceptDesc k a host (recordAt (if host then s.host else s.mem) a) none none s).modChan k
        (fun x => { x with read := r.next x.read }))

/-- DESCRIPTOR_READ: an enabled ring channel reads what its ring holds (R484). -/
def execDescriptorRead (chan : BitVec 4) (s : State) : Result :=
  let k := chan.toNat
  .next (if (s.chan k).st = .enabled ∧ !s.chBundle k ∧ s.acceptsWork ∧ !s.gated blkDma ∧ (!s.chHostRing k ∨ s.hostReach)
      then readDescs k 8 s else s)

/-- SUBMIT (R162, R482, R485): the descriptor at X[REG] is copied to a bundle channel. -/
def opSubmit (c : SlotCtx) (chan : BitVec 4) (reg : BitVec 5) (pre s : State) : State :=
  let k := chan.toNat
  let a := (pre.x reg).toNat
  if pre.gated blkDma then s.slotFault c causeBus 0
  else if !pre.chBundle k ∨ (pre.chan k).st ≠ .enabled then s.slotFault c causeRange 0x102
  else if a % 64 ≠ 0 ∨ !inBuffer a 64 then s.raiseExc { s.slotRec c causeDesc 0 with addr := a }
  else acceptDesc k a false (recordAt pre.mem a) (some c) (s.jobOf c) s

/-- A channel holds 8 requests from the bundle stream (R162). -/
def submitFull (chan : BitVec 4) (s : State) : Bool :=
  s.chBundle chan.toNat && decide (8 ≤ (s.chan chan.toNat).acc.length)

def execSubmit (c : SlotCtx) (chan : BitVec 4) (reg : BitVec 5) (s : State) : Result :=
  if submitFull chan s then .next (beginStall s) else slotCmd (opSubmit c chan reg) s

/-! ## Taking a channel (R483) -/

/-- Free slots of the GK8-compatible queue (R494). -/
def State.cqFree (s : State) : Nat :=
  let n := s.ent? 0x5100 6
  n - 1 - (s.dma.cqTail + n - s.dma.cqHead) % n

/-- How many descriptors of a channel a batch takes now. -/
def State.batch (s : State) (k : Nat) : Nat :=
  let n := (s.chan k).acc.length
  if s.chGk8 k then min n s.cqFree else n

/-- The rank of a channel, least first: starved channels, then by the run-dry time of the first descriptor's stream, then
streams without one in arrival order, then least recently taken (R304, R483). -/
def State.chanRank (s : State) (k : Nat) : List Nat :=
  let c := s.chan k
  let starved := match c.waits with | some t => decide (t + usTicks (s.ent? 0x4400 5) ≤ s.clk.ticks) | none => false
  if starved then [0, c.waits.getD 0, k]
  else
    match c.acc.head?.bind (fun d => d.stream) with
    | some n =>
      match s.runDry n with
      | some d => [1, ((d - s.tick32).toInt + 2 ^ 31).toNat, n, k]
      | none => [2, (c.acc.head?.map (fun d => d.id)).getD 0, k]
    | none => [3, c.lastRun, k]

/-- The channel taken next. -/
def State.nextChan (s : State) : Option Nat :=
  (chanNums.filter (fun k => decide (s.batch k ≠ 0))).foldl (fun best k => match best with
    | none => some k
    | some j => if lexLt (s.chanRank k) (s.chanRank j) then some k else some j) none

/-- CHANNEL_TAKE: the idle engine takes a channel and its batch; a SUBMIT that met an idle engine and no descriptor of another
channel starts at t + 16 (R483). -/
def execChannelTake (s : State) : Result :=
  .next (if s.dma.run.isSome ∨ s.gated blkDma then s
    else match s.nextChan with
      | none => s
      | some k =>
        let t := match (s.chan k).acc.head? with
          | some d => if d.ctx.isSome ∧ d.lone then s.toCycle (d.taken + 16) else s
          | none => s
        (t.modDma (fun d => { d with
          run := some { chan := k, left := s.batch k, hold := none, tag := none, data := none }
          takes := d.takes + 1 })).modChan k (fun c => { c with waits := none, lastRun := s.dma.takes + 1 }))

/-! ## Transfers (R488, R489, R492) -/

/-- One side of a block: its bytes or their arrival, a failure, a wait in a hold, a wait for a tile's commit, or a
remote access sent. -/
inductive BlockRes where
  | got (s : State) (data : List Byte)
  | failed (code : Nat)
  | held
  | later
  | kept (s : State)
  | sent (s : State)
deriving DecidableEq, Repr

/-- A role of SRC_SPACE or DST_SPACE 2 other than this device's (R487). -/
def State.farRole (s : State) (space role : Nat) : Bool := decide (space = 2) && decide (role ≠ s.me)

/-- A remote access of the descriptor in transfer. -/
def dmaRemote (role addr n : Nat) (write : Bool) (data : List Byte) (s : State) : State :=
  let tag := BitVec.ofNat 16 s.nextId
  (startRemote (BitVec.ofNat 5 role) write .dma addr n data s).modRun (fun r => { r with
    tag := some tag, data := none })

/-- What the transfer of a descriptor meets on its way: the byte of the source whose host completion fails, and the one whose deep-tier
read is retried (R489, R492). -/
structure CopyEvents where
  hostError : Option Nat
  deepRetry : Option Nat
deriving DecidableEq, Repr

/-- An event falls into the block of `n` bytes that a descriptor moves next. -/
def eventIn (e : Option Nat) (d : Desc) (n : Nat) : Bool :=
  match e with | some x => decide (d.done ≤ x) && decide (x < d.done + n) | none => false

/-- Read the next source block; a deep-tier read that is retried holds the descriptor until a later command moves it on (R492). -/
def sourceBlock (ev : CopyEvents) (r : DmaRun) (d : Desc) (s : State) : BlockRes :=
  let n := d.block
  let a := d.src + d.done
  if d.op = 1 then .got s (d.fillBytes d.done n)
  else match r.data with
    | some bs => .got s (bs.take n)
    | none =>
      if d.srcSpace = 1 then
        if !s.hostReach then .failed 7
        else if eventIn ev.hostError d n then .failed 2
        else .got s (Memory.gets s.host a n)
      else if s.farRole d.srcSpace d.srcRole then .sent (dmaRemote d.srcRole a n false [] s)
      else if eventIn ev.deepRetry d n ∧ s.inDeep a n then .held
      else
        match s.pathRead .host a n (s.farRole d.dstSpace d.dstRole) d.stream with
        | .done t bs => .got t bs
        | .waits => if s.bulkPaused then .later else .held
        | .held _ => .later
        | .gated | .fails => .failed 2

/-- Write the next destination block. -/
def destBlock (d : Desc) (bs : List Byte) (s : State) : BlockRes :=
  let a := d.dst + d.done
  if d.dstSpace = 1 then (if s.hostReach then .got (s.putHost a bs) [] else .failed 7)
  else if s.farRole d.dstSpace d.dstRole then .sent (dmaRemote d.dstRole a bs.length true bs s)
  else
    match s.pathWrite .host a bs d.stream true with
    | .done t _ => .got t []
    | .waits => if s.bulkPaused then .later else .held
    | .held t => .kept t
    | .gated | .fails => .failed 3

/-- Move one block; the flag says whether the transfer goes on at once. -/
def moveBlock (ev : CopyEvents) (s : State) : State × Bool :=
  match s.dmaFront with
  | none => (s, false)
  | some (r, d) =>
    if d.moved ∨ r.tag.isSome then (s, false)
    else if d.len ≤ d.done then (s.modFront (fun x => { x with moved := true }), false)
    else
      match sourceBlock ev r d s with
      | .failed c => (dmaFail c (dmaUnhold s), false)
      | .held => (dmaHold s, false)
      | .later => (s, false)
      | .kept t | .sent t => (t, false)
      | .got t bs =>
        match destBlock d bs t with
        | .failed c => (dmaFail c (dmaUnhold t), false)
        | .held => (dmaHold s, false)
        | .later => (s, false)
        | .kept u => (u.modRun (fun x => { x with data := some bs }), false)
        | .sent u => (u, false)
        | .got u _ => (dmaAdvance bs.length ((dmaUnhold u).modRun (fun x => { x with data := none })), true)

/-- Move up to `n` blocks. -/
def moveBlocks (ev : CopyEvents) : Nat → State → State
  | 0, s => s
  | n + 1, s => let r := moveBlock ev s; if r.2 then moveBlocks ev n r.1 else r.1

/-- The front descriptor moves its bytes when its OP is `op`, as far as it can now; a block that waits is taken up again
by the next such command (R572). -/
def transfer (op : Nat) (ev : CopyEvents) (s : State) : State :=
  match s.dmaFront with
  | none => s
  | some (_, d) => if d.op = op ∧ !d.moved then moveBlocks ev (ceilDiv d.len 64 + 2) s else s

/-- A descriptor with SRC_ADDR and DST_ADDR of free value. -/
def Desc.elsewhere (ix : Nat) (d : Desc) : Desc :=
  { d with data := BitVec.ofNat 512 (d.f 0 64 + Config.freeNat ix % 2 ^ 128 * 2 ^ 64 + d.f 192 320 * 2 ^ 192) }

/-- A transfer that reads and writes at other addresses (R504). -/
def alteredTransfer (op : Nat) (ev : CopyEvents) (s : State) : State :=
  match s.dmaFront with
  | none => s
  | some (_, d) =>
    (transfer op ev (s.takeFree.modFront (Desc.elsewhere s.freeIx))).modFront (fun x => { x with data := d.data })

/-- The clock ratios that the descriptor in transfer crosses at its two ends (R504). -/
def State.dmaRatios (s : State) : BitVec 3 :=
  match s.dmaFront with
  | none => 0
  | some (_, d) =>
    (if d.op = 1 ∨ d.srcSpace = 1 ∨ s.farRole d.srcSpace d.srcRole then 0 else s.ratioAt d.src)
      ||| (if d.dstSpace = 1 ∨ s.farRole d.dstSpace d.dstRole then 0 else s.ratioAt d.dst)

def noEvents : CopyEvents := { hostError := none, deepRetry := none }

/-- COPY (R488). -/
def execCopy (hostErrorAt deepRetryAt : Option Nat) (s : State) : Result :=
  let ev : CopyEvents := { hostError := hostErrorAt, deepRetry := deepRetryAt }
  crossing s.dmaRatios s (transfer 0 ev) (alteredTransfer 0 ev)

/-- FILL (R488). -/
def execFill (s : State) : Result := crossing s.dmaRatios s (transfer 1 noEvents) (alteredTransfer 1 noEvents)

/-- MARKER moves nothing (R488). -/
def execMarker (s : State) : Result :=
  .next (match s.dmaFront with
    | none => s
    | some (_, d) => if d.op = 2 ∧ !d.moved then s.modFront (fun x => { x with moved := true }) else s)

/-- HOST_COMPLETION_TIMEOUT: a read of host memory is not answered; the blocks before it stay written (R489). -/
def execHostCompletionTimeout (bytesDone : Nat) (s : State) : Result :=
  .next (match s.dmaFront with
    | none => s
    | some (_, d) =>
      if d.op = 0 ∧ !d.moved ∧ d.srcSpace = 1 ∧ d.done < d.len then
        let t := moveBlocks noEvents (d.blocksTo (min bytesDone (d.len - 1))) s
        match t.dmaFront with
        | some (_, x) => if x.moved then t else dmaFail 4 (dmaUnhold t)
        | none => t
      else s)

/-! ## Completion (R490, R491, R494) -/

/-- Bytes 56 to 63 of a native completion (R487): 56 to 62 in one write, and then 63. -/
def nativeBytes (d : Desc) : List Byte := leBytes 8 (d.status + b2n (decide (d.status ≠ 0)) * 2 ^ 8 + d.done * 2 ^ 16)

/-- The GK8 record (R494). -/
def gk8Bytes (k : Nat) (phase : Bool) (ticks : Word) (d : Desc) : List Byte :=
  leBytes 16 (d.f 48 16 + k * 2 ^ 16 + d.status * 2 ^ 20 + b2n (decide (d.status ≠ 0)) * 2 ^ 28 + b2n phase * 2 ^ 63
    + d.done * 2 ^ 64 + ticks.toNat * 2 ^ 96)

/-- DONE_SYNC of a descriptor. -/
def doneSync (d : Desc) (s : State) : State := if bit d.data.toNat 23 then s.signal (BitVec.ofNat 14 (d.f 24 14)) else s

/-- The record in the queue, CQ_TAIL, DONE_SYNC, and the message (R494). -/
def completeGk8 (k : Nat) (d : Desc) (s : State) : State :=
  let tail := (s.dma.cqTail + 1) % s.ent? 0x5100 6
  let t := (s.putHost (s.ent? 0x5100 5 + 16 * s.dma.cqTail) (gk8Bytes k s.dma.cqPhase s.tick32 d)).modDma (fun x => { x with
    cqTail := tail, cqPhase := if tail = 0 then !x.cqPhase else x.cqPhase })
  let u := doneSync d t
  if bit (s.ent? 0x5100 10) 7 then u.sendMsix (bits (s.ent? 0x5100 10) 0 6) else u

/-- The status in the descriptor itself, DONE_SYNC, and the message (R490). -/
def completeNative (d : Desc) (s : State) : State :=
  let t := if d.inHost then s.putHost (d.addr + 56) (nativeBytes d) else s.putMem (d.addr + 56) (nativeBytes d)
  let u := doneSync d t
  if bit d.data.toNat 38 then u.sendMsix (d.f 39 6) else u

/-- A failed descriptor is counted, and one of the bundle stream is recorded against its job first (R489, R569). -/
def noteFailed (d : Desc) (s : State) : State :=
  if d.status = 0 then s
  else match d.ctx with
    | some c => ((s.addCnt 0x600D 4 1).opFailed c d.job 0 (if d.status = 6 then 1 else 0)).settleHalt
    | none => s.count 0x600D 4 clsFailed

/-- Bytes of a destination that a failed completion does not report: 64-byte block `k` of them is undefined where this device
or the host holds it (R571, log 119). -/
def spoilBlock (d : Desc) (k : Nat) (s : State) : State :=
  let a := d.dst + d.done + 64 * k
  let bs := s.freeBytes (min 64 (d.len - d.done - 64 * k))
  let t := s.takeFrees 64
  if d.dstSpace = 1 then (if s.hostReach then t.putHost a bs else s)
  else if s.farRole d.dstSpace d.dstRole then s
  else match s.region a, t.pathWrite .host a bs d.stream with
    | .phys _, .done u _ => u
    | _, _ => s

/-- The undefined bytes of a descriptor that failed in its transfer; one that was refused, not owned or cancelled moves no
byte, and none was written where BYTES_DONE is 0 (R496). -/
def spoil (d : Desc) (s : State) : State :=
  if 2 ≤ d.status ∧ d.status ≤ 7 ∧ d.done ≠ 0 then
    (List.range (ceilDiv (d.len - d.done) 64)).foldl (fun t k => spoilBlock d k t) s
  else s

/-- A STOPPING channel without accepted descriptors is DISABLED (R486). -/
def settleChan (k : Nat) (s : State) : State :=
  s.modChan k (fun c => if c.st = .stopping ∧ c.acc = [] then { c with st := .disabled, read := c.head, waits := none }
    else c)

/-- DESCRIPTOR_COMPLETE: the front descriptor has ended; HEAD passes it, and the batch goes on (R483, R484, R490). -/
def execDescriptorComplete (s : State) : Result :=
  .next (match s.dmaFront with
    | none => s
    | some (r, d) =>
      if !d.moved then s
      else
        let k := r.chan
        let t := noteFailed d (spoil d (dmaUnhold s))
        let u := if s.chGk8 k then completeGk8 k d t else completeNative d t
        let v := u.modChan k (fun c => { c with
          acc := c.acc.drop 1, head := if s.chBundle k then c.head else (s.chRing k).next c.head })
        let more := decide (1 < r.left) && decide ((v.chan k).acc ≠ [])
        let w := if more then v.modRun (fun x => { x with left := x.left - 1, tag := none, data := none })
          else (v.modDma (fun x => { x with run := none })).modChan k (fun c => { c with
            waits := if c.acc = [] then none else some s.clk.ticks })
        settleChan k w)

/-! ## Entries (R482, R484, R486, R497) -/

/-- A ring in the buffer tier lies in it whole. -/
def State.chRingOk (s : State) (k : Nat) : Bool :=
  s.chBundle k || s.chHostRing k || inBuffer (s.chSet k 4) (64 * s.chSet k 6)

/-- Accepted descriptors that are not in transfer become CANCELLED (R486). -/
def cancelChan (k : Nat) (s : State) : State :=
  let keep := decide (s.dma.run.map (fun r => r.chan) = some k)
  let cut := fun (d : Desc) => if d.moved then d else { d with status := 9, moved := true }
  settleChan k (s.modChan k (fun c => { c with
    st := .stopping
    acc := match c.acc with | [] => [] | d :: l => (if keep then d else cut d) :: l.map cut }))

/-- A write of CH_ENABLE (R482, R486, log 44). -/
def wChEnable (k v : Nat) (s : State) : WriteRes :=
  let c := s.chan k
  if 1 < v then (abRange, s)
  else if v = 0 then (0, if c.st = .enabled then cancelChan k s else s)
  else if c.st = .enabled then (0, s)
  else if !s.chRingOk k then (abRange, s)
  else if c.st = .stopping ∨ (s.chGk8 k ∧ !s.dma.cqOn) ∨ ((s.chGk8 k ∨ s.chHostRing k) ∧ !s.hostReach) ∨ !s.acceptsWork then
    (abBusy, s)
  else (0, s.modChan k (fun x => { x with st := .enabled, read := x.head }))

/-- A write of a channel's setting: only while DISABLED. -/
def wChSetting (k j v : Nat) (s : State) : WriteRes :=
  let bad := if j = 4 then decide (v % 64 ≠ 0) else if j = 6 then decide (v < 4) || decide (1024 < v) else decide (1 < v)
  if bad then (abRange, s)
  else if (s.chan k).st ≠ .disabled then (abBusy, s)
  else (0, s.setEnt (0x5110 + k) j v)

/-- A TAIL write of a ring channel: accepted while enabled, when the ring does not shrink or overflow (R484). -/
def chTailWrite (k v : Nat) (s : State) : Option State :=
  let r := s.chRing k
  let nf := ({ r with tail := v } : Ring).fill
  if (s.chan k).st = .enabled ∧ !s.chBundle k ∧ v < 2 * r.slots ∧ r.fill ≤ nf ∧ nf ≤ r.slots then
    some (s.modChan k (fun c => { c with tail := v }))
  else none

def wChTail (k v : Nat) (s : State) : WriteRes :=
  match chTailWrite k v s with
  | some t => (0, t)
  | none => (if (s.chan k).st = .enabled then abRange else abBusy, s)

/-- A write of CQ_HEAD: it does not pass CQ_TAIL (R497). -/
def cqHeadWrite (v : Nat) (s : State) : Option State :=
  let n := s.ent? 0x5100 6
  let d := s.dma
  if v < n ∧ (v + n - d.cqHead) % n ≤ (d.cqTail + n - d.cqHead) % n then some (s.modDma (fun x => { x with cqHead := v }))
  else none

def wCqHead (v : Nat) (s : State) : WriteRes := match cqHeadWrite v s with | some t => (0, t) | none => (abRange, s)

/-- A write of CQ_BASE, CQ_SLOTS or CQ_VEC: only while CQ_ENABLE is 0. -/
def wCqSetting (j v : Nat) (s : State) : WriteRes :=
  if (j = 6 ∧ (v < 16 ∨ 4096 < v)) then (abRange, s)
  else if s.dma.cqOn then (abBusy, s)
  else (0, s.setEnt 0x5100 j v)

/-- A write of CQ_ENABLE (R497). -/
def wCqEnable (v : Nat) (s : State) : WriteRes :=
  let base := s.ent? 0x5100 5
  if 1 < v then (abRange, s)
  else if v = 1 then
    if base = 0 ∨ base % 16 ≠ 0 then (abRange, s)
    else (0, s.modDma (fun d => { d with cqOn := true, cqTail := 0, cqPhase := true }))
  else if chanNums.any (fun k => s.chGk8 k && decide ((s.chan k).st = .enabled)) then (abBusy, s)
  else (0, s.modDma (fun d => { d with cqOn := false }))

def execChEnableSet (m : Master) (chan : BitVec 4) (s : State) : Result :=
  entryWrite m (0x5110 + chan.toNat) 1 1 1 (wChEnable chan.toNat 1) s

def execChEnableClear (m : Master) (chan : BitVec 4) (s : State) : Result :=
  entryWrite m (0x5110 + chan.toNat) 1 1 0 (wChEnable chan.toNat 0) s

def execCqEnable (m : Master) (value : BitVec 8) (s : State) : Result :=
  entryWrite m 0x5100 9 1 value.toNat (wCqEnable value.toNat) s

/-- CH_STATE (R497): RUNNING while the engine runs the channel's batch, WAITING while it holds accepted descriptors. -/
def State.chState (s : State) (k : Nat) : Nat :=
  let c := s.chan k
  match c.st with
  | .disabled => 0
  | .stopping => 4
  | .enabled => if s.dma.run.map (fun r => r.chan) = some k then 3 else if c.acc ≠ [] then 2 else 1

/-! ## Loss of the link (R493) -/

/-- A channel is disabled and its accepted descriptors are dropped without completion; the job of one from the bundle
stream is failed (log 45). -/
def dropChan (k : Nat) (s : State) : State :=
  let c := s.chan k
  if c.st = .disabled then s
  else
    let mine := decide (s.dma.run.map (fun r => r.chan) = some k)
    let t := if mine then (dmaUnhold s).modDma (fun d => { d with run := none }) else s
    let u := (t.modChan k (fun x => { x with st := .disabled, acc := [], read := x.head, waits := none }))
    c.acc.foldl (fun v d => match d.ctx with
      | some x => ((v.addCnt 0x600D 3 1).opFailed x d.job 0 0).settleHalt
      | none => v.count 0x600D 3 clsFailed) u

/-- Ring channels in host memory and every GK8 channel are disabled (R493). -/
def dropHostChans (s : State) : State :=
  chanNums.foldl (fun t k => if t.chHostRing k || t.chGk8 k then dropChan k t else t) s

/-- Mailboxes `lo` to `hi - 1` go IDLE, and their requests are dropped wherever they wait (R493). -/
def dropMailboxes (lo hi : Nat) (s : State) : State :=
  let mine := fun (k : Nat) => decide (lo ≤ k) && decide (k < hi)
  let box := fun (m : Master) => match m with | .mailbox n => mine n.toNat | _ => false
  (((s.dropAwaits box).modNet (fun n => { n with
    mbWait := n.mbWait.filter (fun w => !mine w.1), fwd := n.fwd.filter (fun f => !box f.master) }))).modPcie (fun p => { p with
      mb := (p.mb.map (fun e => (e.1, if mine e.1 then { e.2 with st := 0 } else e.2))).filter (fun e =>
        decide (e.2 ≠ mailboxDefault e.1)) })

/-- Apertures lose VALID (R493). -/
def dropApertures (s : State) : State :=
  (List.range 16).foldl (fun u k => u.setEnt 0x5101 (k + 1) (u.ent? 0x5101 (k + 1) % 2 ^ 31)) s

/-- The link stops being usable (R493): the channels that need the host are disabled, mailboxes go IDLE and their
requests are dropped, and apertures lose VALID. -/
def pcieLost (s : State) : State :=
  dropApertures (dropMailboxes 0 8 (dropHostChans s))

/-- The indexes of the channels that need the host, and the GK8-compatible queue, are reset (R470). -/
def resetQueues (s : State) : State :=
  (chanNums.foldl (fun t k =>
    if t.chHostRing k || t.chGk8 k then t.modChan k (fun c => { c with head := 0, tail := 0, read := 0 }) else t) s).modDma (fun d =>
      { d with cqOn := false, cqTail := 0, cqHead := 0, cqPhase := true })

/-- The reset of R470: what R493 gives for it, CQ_ENABLE 0 (R497), and the registers of the channels, the queue, the functions and the
mailboxes (log 44). -/
def resetPort (s : State) : State :=
  (resetQueues (pcieLost s)).modPcie (fun p => { Pcie.reset with trained := p.trained })

/-- The link goes down, which resets the port (R470, R493). -/
def pcieDown (s : State) : State :=
  if s.pcie.up then (resetPort s).count 0x600D 6 clsDegraded else s

end Sys2Proof.Machine
end

