-- ==== Sys2Proof/Machine/Clocks.lean ====
section
/-!
DEFINITION. Clocks (R498 to R516): the crystal and the PLLs, switches of the four domain clocks, the clock monitor's
faults and relocks, the clock output, block enables and cascade port power.
-/
namespace Sys2Proof.Machine

/-! ## The T1 link as clocks see it (R436, R510) -/

/-- The T1 link goes down: frames in flight are lost, and nothing else changes. -/
def t1Down (s : State) : State := s.modNet (fun n => { n with link := false, sqi := 0 })

/-! ## Domain clocks (R502, R505, R508) -/

def State.modDom (s : State) (k : Nat) (f : DomClk → DomClk) : State :=
  s.modClk (fun c => { c with doms := tmod domClkDefault c.doms k f })

def State.modPll (s : State) (k : Nat) (f : Pll → Pll) : State :=
  s.modClk (fun c => { c with plls := tmod pllDefault c.plls k f })

/-- SRC and DIV as written. -/
def DomClk.wantSrc (d : DomClk) : BitVec 2 := BitVec.ofNat 2 d.written.toNat
def DomClk.wantDiv (d : DomClk) : Nat := bits d.written.toNat 2 3

/-- The clock is where its entry says. -/
def DomClk.settled (d : DomClk) : Bool := decide (d.src = d.wantSrc) && decide (d.code = d.wantDiv)

/-- A domain clock whose source is missing starts from the crystal at a ratio of 64 (R508); a clock that does not run from
its PLL is not switched. -/
def forceClk (k : Nat) (s : State) : State :=
  if (s.domClk k).src = 0 then
    (s.modDom k (fun d => { d with src := 1, code := 6, sw := .forced, down := false })).addCnt 0x600E 3 1
  else s

/-- A clock that runs from the crystal starts from the lantern oscillator at a ratio of 64 when the crystal is missing (R508,
log 118). -/
def lanternClk (k : Nat) (s : State) : State :=
  if (s.domClk k).src = 1 then
    (s.modDom k (fun d => { d with src := 2, code := 6, sw := .forced, down := false })).addCnt 0x600E 3 1
  else s

/-- A clock is divided by 64 with the others, whatever its source, so that the ratios hold (R510). -/
def slowClk (k : Nat) (s : State) : State := s.modDom k (fun d => { d with code := 6, sw := .forced, down := false })

/-- A clock that a PLL feeds ramps as the PLL returns to the crystal (R510). -/
def pllClk (k : Nat) (s : State) : State :=
  if (s.domClk k).src = 0 ∧ (s.domClk k).sw = .steady then s.modDom k (fun d => { d with sw := .ramping }) else s

/-- A clock ramps back to its entry (R510). -/
def returnClk (k : Nat) (s : State) : State :=
  s.modDom k (fun d => if d.settled then { d with sw := .steady, down := false } else { d with sw := .ramping })

/-- A clock that was written to the crystal and left it with a crystal fault ramps back (R510, log 118). -/
def crystalClk (k : Nat) (s : State) : State :=
  if (s.domClk k).src = 2 ∧ (s.domClk k).wantSrc = 1 then returnClk k s else s

/-- A clock of the SYS_PLL group waits for the relock (R510). -/
def State.clkWaits (s : State) (k : Nat) : Bool := (s.pll 1).lost && (decide (k = 0) || decide (k = 3))

/-- One step of 1 us of a switch (R505, R508). -/
def DomClk.rampStep (d : DomClk) : DomClk :=
  let e : DomClk :=
    if d.sw = .forced then { d with code := if d.wantDiv < d.code then d.code - 1 else d.code }
    else if d.src ≠ d.wantSrc then (if d.code < 6 then { d with code := d.code + 1, down := true }
      else { d with src := d.wantSrc, down := false })
    else if d.code < d.wantDiv then { d with code := d.code + 1, down := true }
    else { d with code := if d.wantDiv < d.code then d.code - 1 else d.code, down := false }
  if e.settled ∨ (e.sw = .forced ∧ e.code = e.wantDiv) then { e with sw := .steady, down := false } else e

/-- A phase of an operation or a maintenance phase is under way: a switch of SEQ_CLK waits for it (R506). -/
def State.phasesRun (s : State) : Bool :=
  s.disp.ops.any (fun o => decide (o.stage = .phase) || decide (o.stage = .testing) || decide (o.stage = .repeating))
    || decide (s.maintArrays ≠ [])

/-- The end of the discarded phases whose wave still runs its time: a switch of SEQ_CLK waits for it too (R506). -/
def State.heldUntil (s : State) : Nat :=
  s.disp.ops.foldl (fun m o =>
    if o.stage = .held ∧ o.start ≤ s.clk.cycle then max m (o.start + o.lenOf o.present) else m) 0

/-- A wave or a maintenance phase is under way. -/
def State.wavesRun (s : State) : Bool := s.phasesRun || decide (s.clk.cycle < s.heldUntil)

/-- The waiting write of SEQ_CLK_SRC is answered when its ramp begins (R506). -/
def beginSeqRamp (s : State) : State :=
  match s.clk.srcWait with
  | none => s
  | some m =>
    (((s.modClk (fun c => { c with srcWait := none })).modDom 0 (fun d => { d with down := true })).answerLate m tU8 0)

/-- One step of a clock's ramp (R505, R506). -/
def clkRampStep (k : Nat) (s : State) : State :=
  if (s.domClk k).sw = .steady ∨ s.clkWaits k ∨ (k = 0 ∧ s.clk.srcWait.isSome ∧ s.phasesRun) then s
  else
    let t := if k = 0 then beginSeqRamp (if s.clk.srcWait.isSome then s.toCycle s.heldUntil else s) else s
    let u := (t.toTick (t.clk.ticks + 25)).modDom k DomClk.rampStep
    if k = 0 then u.restartPhases else u

/-! ## Source writes (R502, R504, R507) -/

/-- The frequency of a written source in units of 1/192 MHz. -/
def clkRate (k : Nat) (v : BitVec 8) : Nat :=
  let base : Nat := match bits v.toNat 0 2 with
    | 0 => (if k = 0 then 6600 else if k = 1 then 3200 else if k = 2 then 4800 else 3600)
    | 1 => 75
    | _ => 48
  base * (64 / 2 ^ bits v.toNat 2 3)

/-- The ratios of R504 that the written sources break: bit 0 of FABRIC_CLK to SEQ_CLK, bit 1 to MGMT_CLK, bit 2 to
NAND_CLK. -/
def State.ratiosBroken (s : State) : BitVec 3 :=
  let r := fun k => clkRate k (s.domClk k).written
  BitVec.ofNat 3 (b2n (decide (4 * r 1 < r 0)) + 2 * b2n (decide (2 * r 1 < r 2)) + 4 * b2n (decide (2 * r 1 < r 3)))

/-- The fault bit of the source that a write names. -/
def srcFault (k src : Nat) : Nat :=
  if src = 1 then 0 else if src = 2 then 1 else if k = 0 then 2 else if k = 3 then 5 else 3

/-- A write of a source entry (R502, R505 to R507). -/
def wClkSrc (m : Master) (k v : Nat) (s : State) : WriteRes :=
  let src := bits v 0 2
  if src = 3 ∨ 6 < bits v 2 3 then (abRange, s)
  else if (s.domClk k).sw ≠ .steady ∨ s.pwr.mode = 2 ∨ s.clk.faultNow.getLsbD (srcFault k src) then (abBusy, s)
  else
    let t := s.modDom k (fun d => { d with written := BitVec.ofNat 8 (bits v 0 5) })
    let u := t.modClk (fun c => { c with ratioLost := c.ratioLost ||| t.ratiosBroken })
    if (u.domClk k).settled then (0, u)
    else
      let w := u.modDom k (fun d => { d with sw := .ramping })
      if k = 0 then
        if w.wavesRun then (abLater, w.modClk (fun c => { c with srcWait := some (some m) }))
        else (0, w.modDom 0 (fun d => { d with down := true }))
      else (0, w)

def execClkSrcWrite (m : Master) (clk : Fin 4) (value : BitVec 8) (s : State) : Result :=
  entryWrite m 0x2000 (6 + clk.val) 1 value.toNat (wClkSrc m clk.val value.toNat) s

/-- CLK_SWITCH_STATE: two bits per clock (R528). -/
def State.switchState (s : State) : Nat :=
  (List.range 4).foldl (fun v k =>
    v + (match (s.domClk k).sw with | .steady => 0 | .ramping => 1 | .forced => 2) * 4 ^ k) 0

/-! ## The crystal (R499, R500, R510) -/

/-- A measurement of the lantern oscillator: within 15.52 to 16.48 MHz (R498, log 3). -/
def State.measureLantern (s : State) : State :=
  (s.modClk (fun c => { c with lanternHz := BitVec.ofNat 32 (15520000 + Config.freeNat s.freeIx % 960001) })).takeFree

/-- CRYSTAL_STABLE: 16 good windows. After a crystal fault the PLLs and the clocks that ran from the crystal return to it,
and the links train again. -/
def execCrystalStable (s : State) : Result :=
  .next (if s.clk.crystal then s
    else
      let back := s.clk.onLantern
      let t := (s.modClk (fun c => { c with
        crystal := true, onLantern := false, faultNow := c.faultNow &&& ~~~1#12 })).measureLantern
      if back then
        let u := (List.range 4).foldl (fun u k => pllClk k (crystalClk k u)) t
        (portNums.foldl (fun u k => if u.portLive k ∧ (u.port k).st = .down then u.trainPort k else u) u).restartPhases
      else t)

/-- CRYSTAL_TIMEOUT: not stable 20 ms after power-on (R499). -/
def execCrystalTimeout (s : State) : Result :=
  .next (if s.clk.crystal ∨ s.clk.crystalLate ∨ s.boot.st ≠ .booting then s
    else (s.toTick (max s.clk.ticks 500000)).modClk (fun c => { c with crystalLate := true }))

/-! ## Clock faults (R506, R509, R510) -/

/-- Admitted operations run no further phase: their lines complete missing and their jobs fail (R510). -/
def State.abortPhases (s : State) : State :=
  (s.disp.ops.filter (fun o => o.inService)).foldl (fun t o =>
    let u := (abortOp o true t).setIdle o.allArrays
    u.modDisp (fun d => { d with lastEnd := o.allArrays.foldl (fun l n => tset zeroNat l n t.clk.cycle) d.lastEnd })) s

/-- A PLL loses its lock. -/
def losePll (k : Nat) (s : State) : State := s.modPll k (fun _ => { locked := false, tries := 0, lost := true })

/-- The action at once of each row of R510. -/
def clockFaultAct (bit : Nat) (s : State) : State :=
  match bit with
  | 0 =>
    let t := ((s.discardPhases false).modClk (fun c => { c with
      crystal := false, onLantern := true, lanternHz := 0 })).addClass clsDegraded
    t1Down (portNums.foldl (fun u k => portDown k u) ((List.range 4).foldl (fun u k => lanternClk k u) t))
  | 1 => s
  | 2 =>
    let t := forceClk 0 (losePll 0 s)
    let u := if t.seqActive then t.haltSeq .halted else t
    u.abortPhases.discardMaintenance
  | 3 =>
    let t := slowClk 3 (slowClk 0 (forceClk 2 (forceClk 1 (losePll 1 s))))
    t.discardPhases false
  | 4 => (losePll 2 s).modMedia (fun m => { m with bulkHold := true })
  | 5 => (forceClk 3 (losePll 3 s)).modMedia (fun m => { m with deepHold := true })
  | 10 => t1Down (losePll 8 s)
  | 11 => pcieDown s
  | n => portDown (n - 6) (losePll (n - 2) s)

/-- The clock that a fault bit's clock is checked against is itself good (R509). -/
def State.faultChecked (s : State) (b : Nat) : Bool := if b = 0 then !s.clk.faultNow.getLsbD 1 else !s.clk.faultNow.getLsbD 0

/-- The clock of a fault bit runs, so that its loss is a fault: a PLL that is locked, the crystal once stable. -/
def State.clockRuns (s : State) (b : Nat) : Bool :=
  if b = 0 then s.clk.crystal else if b = 1 ∨ b = 11 then true else (s.pll (b - 2)).locked

/-- The management cores that run: core 0 sleeps in Umbra mode (R514, R521). -/
def State.runningCores (s : State) : List Nat :=
  (List.range 4).filter (fun k => decide (s.dom (135 + k) = .on) && decide (k ≠ 0 ∨ s.pwr.mode ≠ 4))

/-- CLOCK_FAULT, with the clock-fault event at every running management core: the monitor finds a fault, or finds that a fault of the lantern oscillator or of PCIE_REFCLK has ended;
the others end with CRYSTAL_STABLE and a relock (R509, R510). -/
def execClockFault (bit : Fin 12) (ends : Bool) (s : State) : Result :=
  let b := bit.val
  .next (if ends then
      (if s.faultChecked b ∧ (b = 1 ∨ b = 11) then
        s.modClk (fun c => { c with faultNow := c.faultNow &&& ~~~(1#12 <<< b) }) else s)
    else if !s.faultChecked b ∨ s.clk.faultNow.getLsbD b ∨ !s.clockRuns b then s
    else
      let m : BitVec 12 := 1#12 <<< b
      clockFaultAct b (s.runningCores.foldl (fun t k => t.emit (.clockFault k b)) ((s.modClk (fun c => { c with
        faults := c.faults ||| m, faultNow := c.faultNow ||| m })).addCnt 0x600E 1 1)))

/-- A relock succeeds (R510). -/
def relocked (b : Nat) (s : State) : State :=
  let t := ((s.modPll (b - 2) (fun p => { p with locked := true, lost := false })).modClk (fun c => { c with
    faultNow := c.faultNow &&& ~~~(1#12 <<< b) })).count 0x600E 2 clsRecovered
  match b with
  | 2 => returnClk 0 t
  | 3 => returnClk 3 (returnClk 2 (returnClk 1 (returnClk 0 t)))
  | 4 => t.modMedia (fun m => { m with bulkHold := false })
  | 5 => (returnClk 3 t).modMedia (fun m => { m with deepHold := false })
  | 10 => t
  | n => if t.portLive (n - 6) ∧ (t.port (n - 6)).st = .down then t.trainPort (n - 6) else t

/-- All three relocks have failed (R510). -/
def relockFailed (b : Nat) (s : State) : State :=
  match b with
  | 2 => s.goFatal 1 0
  | 3 => s.goFatal 2 0
  | 4 => (s.modMedia (fun m => { m with bulkHold := false, bulkLost := true })).addClass clsDegraded
  | 5 => (s.modMedia (fun m => { m with deepHold := false, deepLost := true })).addClass clsDegraded
  | _ => s.addClass clsDegraded

/-- RELOCK_ATTEMPT: up to three, 1 ms apart. The PLL is named by its fault bit. -/
def execRelockAttempt (pll : Fin 12) (locked : Bool) (s : State) : Result :=
  let b := pll.val
  let p := s.pll (b - 2)
  .next (if b < 2 ∨ b = 11 ∨ !p.lost ∨ 3 ≤ p.tries then s
    else
      let t := (if p.tries = 0 then s else s.toTick (s.clk.ticks + 25000)).modPll (b - 2) (fun q => { q with tries := q.tries + 1 })
      if locked then relocked b t else if p.tries = 2 then relockFailed b t else t)

/-- A write of CLOCK_FAULT: 1 clears a bit whose fault does not persist (R509). -/
def wClockFault (v : Nat) (s : State) : WriteRes :=
  (0, s.modClk (fun c => { c with faults := c.faults &&& ~~~(BitVec.ofNat 12 v &&& ~~~c.faultNow) }))

def execClockFaultClear (m : Master) (value : BitVec 16) (s : State) : Result :=
  entryWrite m 0x2000 12 2 value.toNat (wClockFault value.toNat) s

/-! ## Clock output, enables and port power (R511 to R516) -/

/-- A write of CLK_OUT_SEL; bits above the two fields are ignored (R5). -/
def wClkOut (v : Nat) (s : State) : WriteRes :=
  if 5 < bits v 0 3 then (abRange, s) else (0, s.modClk (fun c => { c with outSel := BitVec.ofNat 8 (v % 64) }))

def execClkOutSel (m : Master) (value : BitVec 8) (s : State) : Result :=
  entryWrite m 0x2000 11 1 value.toNat (wClkOut value.toNat) s

/-- A write of CLOCK_ENABLE: a block whose bit is set runs; one whose bit is cleared runs until BLOCK_GATED (R513). -/
def wClockEnable (v : Nat) (s : State) : WriteRes :=
  if 2 ^ 11 ≤ v then (abRange, s)
  else (0, s.modClk (fun c => { c with enable := BitVec.ofNat 11 v, running := c.running ||| BitVec.ofNat 11 v }))

def execClockEnable (m : Master) (value : BitVec 16) (s : State) : Result :=
  entryWrite m 0x2000 4 2 value.toNat (wClockEnable value.toNat) s

/-- A block has issued work that has not ended, or an access in flight (R513). -/
def State.blockBusy (s : State) (b : Nat) : Bool :=
  let copies := s.mig.recs.any (fun r => r.tiles.any (fun t => match t.2 with | .copying _ _ => true | _ => false))
  if b = 0 then s.seqActive || decide (s.running ≠ [])
  else if b = 1 then s.disp.ops.any (fun o => o.inService) || decide (s.maintArrays ≠ [])
  else if b = 2 then decide (s.running ≠ []) || s.dma.run.isSome || copies
  else if b = 3 then streamNums.any (fun n => (s.stream n).cur.isSome || decide ((s.stream n).closing ≠ [])
    || decide ((s.stream n).pushq ≠ []))
  else if b = 4 then s.eng.mrun.any (fun t => decide (t.op = .matmulX) || decide (t.op = .matmulXAcc))
  else if b = 5 then decide (s.mig.recs ≠ []) || decide (s.awr.ws ≠ [])
  else if b = 6 then s.dma.run.isSome || chanNums.any (fun k => decide ((s.chan k).acc ≠ []))
  else if b = 7 then (List.range 8).any (fun n => decide ((s.mb n).st = 1))
  else if b = 8 then decide (s.bulkQ.reqs ≠ []) || copies
  else if b = 9 then decide (s.deepQ.reqs ≠ []) || copies
  else decide (s.casc.sendWait ≠ []) || decide (s.casc.remote ≠ [])

/-- BLOCK_GATED: a block whose enable bit is clear is gated once its work has ended. -/
def execBlockGated (block : Fin 11) (s : State) : Result :=
  let b := block.val
  .next (if s.clk.running.getLsbD b ∧ !s.clk.enable.getLsbD b ∧ !s.blockBusy b then
    s.modClk (fun c => { c with running := c.running &&& ~~~(1#11 <<< b) })
  else s)

/-- A write of CASC_PORT_POWER (R516): a cleared bit takes the link DOWN and its domain OFF, a set one wakes it. -/
def wCascPower (v : Nat) (s : State) : WriteRes :=
  if 16 ≤ v then (abRange, s)
  else
    (0, portNums.foldl (fun t k =>
      if bit v k then (if t.dom (141 + k) = .off ∧ t.pwr.mode ≠ 4 then t.setDom (141 + k) .waking else t)
      else (portDown k t).setDom (141 + k) .off) (s.setEnt 0x2000 20 v))

def execCascPortPower (m : Master) (value : BitVec 8) (s : State) : Result :=
  entryWrite m 0x2000 20 1 value.toNat (wCascPower value.toNat) s

end Sys2Proof.Machine
end

