-- ==== Sys2Proof/Machine/Power.lean ====
section
/-!
DEFINITION. Modes and supplies (R517 to R527): writes of MODE, changes between serving modes, the entry into Umbra mode
and the way out of it, wake events, and supply warnings.
-/
namespace Sys2Proof.Machine

/-! ## Wake events (R522) -/

/-- A wake starts: WAKE_CAUSE records its first event. -/
def startWake (l : List (Nat × Option Nat)) (s : State) : State :=
  s.modPwr (fun p => { p with
    waking := true, wakeLatch := l, wakeCause := match l with | [] => p.wakeCause | e :: _ => 1#8 <<< e.1 })

/-- A wake event: latched during an entry, else it starts the way out of Umbra mode; one that is not enabled is none. -/
def wakeEvent (bit : Nat) (mode : Option Nat) (s : State) : State :=
  if bit ≠ 2 ∧ !Nat.testBit (s.ent? 0x2000 21) bit then s
  else if s.pwr.entering then s.modPwr (fun p => { p with wakeLatch := p.wakeLatch ++ [(bit, mode)] })
  else if s.pwr.mode = 4 ∧ !s.pwr.waking then startWake [(bit, mode)] s
  else s

/-- WAKE_N: low for 1 us. -/
def execWakeN (lowNs : Nat) (s : State) : Result := .next (if 1000 ≤ lowNs then wakeEvent 0 none s else s)

/-- T1_LINK_ENERGY: after the link was down. -/
def execT1LinkEnergy (s : State) : Result := .next (if s.net.link then s else wakeEvent 1 none s)

/-! ## MODE (R520) -/

/-- The bulk tier runs with the conservative settings of B5's alternate, at one rate in every serving mode (R529, R539). -/
def State.bulkSlow (s : State) : Bool := s.boot.present.altUsed.getLsbD 5

/-- A change between serving modes: the limits change at once, and the answer waits until it is applied. The bulk tier
pauses when its rate changes, which is between Penumbra and another mode (R517). -/
def changeMode (m : Master) (v : Nat) (s : State) : State :=
  let rate := decide ((v = 3) ≠ (s.pwr.mode = 3)) && !s.bulkSlow
  ((s.modPwr (fun p => { p with mode := v, changing := true, modeWait := some m, bulkPause := rate })).applyUnits.recomputeCeiling).addCnt
    0x600E 14 1

/-- Entry into Umbra mode is refused (R520). -/
def State.umbraBusy (s : State) : Bool :=
  s.seqActive || decide (s.awr.ws ≠ []) || decide (s.boot.fw ≠ .idle)

/-- A write of MODE: the first row of R520 that applies. -/
def wMode (m : Master) (v : Nat) (s : State) : WriteRes :=
  if s.boot.stopped ∨ s.pwr.changing then (abBusy, s)
  else if v = s.pwr.mode then (0, s)
  else if 4 < v then (abRange, s)
  else if v = 4 then
    if s.umbraBusy then (abBusy, s)
    else (0, (s.modPwr (fun p => { p with entering := true, noNew := true, wakeLatch := [] })).addCnt 0x600E 14 1)
  else if s.pwr.mode = 4 then (0, (wakeEvent 2 (some v) s).addCnt 0x600E 14 1)
  else (abLater, changeMode m v s)

def execModeWrite (m : Master) (value : BitVec 8) (s : State) : Result :=
  entryWrite m 0x2000 1 1 value.toNat (wMode m value.toNat) s

/-- UMBRA_ENTRY: the write of Umbra to MODE (R521). -/
def execUmbraEntry (m : Master) (s : State) : Result := entryWrite m 0x2000 1 1 4 (wMode m 4) s

/-- A change between serving modes has been applied: its write is answered (R520). -/
def modeApplied (s : State) : State :=
  if s.pwr.changing then
    let t := s.modPwr (fun p => { p with changing := false, bulkPause := false, modeWait := none })
    t.answerLate s.pwr.modeWait tU8 0
  else s

/-! ## Entry into Umbra mode (R521, R353, R514) -/

/-- The buffer tiles that are parked: those of objects with VOLATILE = 0, each with its tile map entry and its home. -/
def State.tilesToPark (s : State) : List (Nat × Nat) :=
  s.objects.flatMap (fun p => if p.2.hints.getLsbD 3 then []
    else p.2.entries.filterMap (fun i => let e := s.tileEnt i; if e.tier = 1 then some (i, e.home) else none))

/-- One tile is parked in the bulk pool; the flag says that it lacks room (R353). -/
def parkTile (a : State × Bool) (p : Nat × Nat) : State × Bool :=
  let s := a.1
  match (if s.media.bulkLost then none else s.freeLocs 2 1) with
  | some (l :: _) =>
    (((s.putMem (bulkBase + l * tileSize) (Memory.gets s.mem (p.2 * tileSize) tileSize)).modMig (fun m => { m with
      parked := m.parked ++ [{ entry := p.1, bufLoc := p.2, bulk := l }] })).addCnt 0x6009 7 1, a.2)
  | _ => (s, true)

def State.park (s : State) : State :=
  let r := s.tilesToPark.foldl parkTile (s, false)
  if r.2 then r.1.count 0x6009 11 clsDegraded else r.1

/-- Refreshes and rebuilds stop, maintenance stops, and the passes with it (R521 step 2). -/
def State.stopUpkeep (s : State) : State :=
  let t := s.refreshes.foldl (fun t h => t.abandon h) s
  (t.arr.rebuilds.foldl (fun u r => u.releaseRebuild r.addr) t).discardMaintenance.modArr (fun a => { a with
    pass := { running := false, first := false, left := [], queued := false, banks := [], early := [] } })

/-- What domain 134 loses: sync objects, the sequencer, the stream unit and every control region it holds (R139, R163,
R172, R183, R514). -/
def State.loseSequencer (s : State) : State :=
  { s with
    sync := []
    seq := Seq.reset
    str := { blk := [], missHead := 0, enable := none }
    mem := Memory.clear s.mem ibufBase (2 * ibufBase)
    clk := { s.clk with due := [] }
    casc := { s.casc with rbinds := [], credits := [], lock := lockReset } }

/-- What domain 139 loses: the channels (R514). -/
def State.loseChannels (s : State) : State :=
  { s with
    dma := Dma.reset
    ent := s.ent.filter (fun p => decide (p.1 < ekey 0x5110 0 ∨ ekey 0x5120 0 ≤ p.1)) }

/-- Every domain that Umbra mode turns OFF; 135 and 147 are never OFF. -/
def State.domainsOff (s : State) : State := s.modPwr (fun p => { p with dom := [] })

/-- Step 6 of R521: ports go down and the domains go OFF. -/
def State.switchOff (s : State) : State :=
  let t := (portNums.foldl (fun u k => portDown k u) (pcieDown s)).loseSequencer.loseChannels
  { (t.modCasc (fun c => { c with ports := [] })).domainsOff with eng := Engines.reset, bulkQ := emptyTierQ, deepQ := emptyTierQ }

/-- Accepted DMA descriptors and issued operations have run to their end (R521 step 1). -/
def State.quiet (s : State) : Bool :=
  decide (s.running = []) && s.dma.run.isNone && chanNums.all (fun k => decide ((s.chan k).acc = []))

/-- Steps 2 to 7 of R521. -/
def State.enterUmbra (s : State) : State :=
  let t := s.stopUpkeep.abandonMoves.clearHolds.park.writeBacking.switchOff
  (t.modPwr (fun p => { p with mode := 4, entering := false })).recomputeCeiling

/-! ## The way out (R522, R123, R384) -/

/-- The address that the committed map serves on an array. -/
def servedOn (m : Table MapEntry) (n : Nat) : Option Nat :=
  (List.range 256).find? (fun i =>
    let e := tget mapDefault m (n / 264 * 256 + i)
    decide (e.st ≠ .unavailable) && decide (e.phys = n))

/-- Every array that a map names in place of the identity, with the one it replaces. -/
def mapArrays (m : Table MapEntry) : List Nat := m.flatMap (fun p => [p.2.phys, (mapDefault p.1).phys])

/-- An array may serve an address of its bank: it is neither fenced nor retired, and not barred from it (R68, R78). -/
def PhysArray.mayServe (p : PhysArray) (slot : Nat) : Bool :=
  decide (p.st ≠ .quarantined) && decide (p.st ≠ .retired) && !p.barred slot

/-- An array as the committed map leaves it: one that serves an address owes no erase, one that has lost its address
does (R384, R393). -/
def PhysArray.remap (p : PhysArray) (slot : Option Nat) : PhysArray :=
  if p.st = .quarantined ∨ p.st = .retired then p
  else match slot.filter p.mayServe with
    | some i => { p with mapped := true, addrSlot := BitVec.ofNat 8 i, eraseOpen := false, epoch := p.redEpoch }
    | none => { p with mapped := false, addrSlot := 0, eraseOpen := p.eraseOpen || p.mapped, epoch := p.redEpoch }

/-- A committed map entry as it is loaded: an address whose array may serve it no more is UNAVAILABLE (R66, R78). -/
def State.loadEntry (s : State) (a : Nat) (e : MapEntry) : MapEntry :=
  if e.st = .unavailable ∨ (s.array e.phys).mayServe (a % 256) then e else { phys := 0, st := .unavailable }

/-- The addresses that no committed entry names, of arrays that may serve them no more (R66, R68). -/
def State.lostDefaults (s : State) : List Nat :=
  s.arr.phys.filterMap (fun p =>
    let a := p.1 / 264 * 256 + p.1 % 264
    if p.1 % 264 < 256 ∧ s.media.map.all (fun q => decide (q.1 ≠ a)) ∧ !p.2.mayServe (a % 256) then some a else none)

/-- The address maps are loaded from the MEDIA partition (R384). -/
def State.loadMaps (s : State) : State :=
  let ns := (s.arr.phys.map (fun p => p.1) ++ mapArrays s.arr.map ++ mapArrays s.media.map).eraseDups
  ns.foldl (fun t n => t.modArray n (fun p => p.remap (servedOn s.media.map n)))
    (s.modArr (fun a => { a with
      map := s.lostDefaults.foldl (fun t k => tset mapDefault t k { phys := 0, st := .unavailable })
        (s.media.map.map (fun p => (p.1, s.loadEntry p.1 p.2)))
      shown := [], rebuilds := [] }))

/-- An array's ageing record as the backing copy holds it (R95, R123). -/
def PhysArray.loadAge (p : PhysArray) (v : Nat) : PhysArray :=
  { p with gen := false, prevValid := false, ageRet := BitVec.ofNat 8 (bits v 0 8), refreshes := BitVec.ofNat 6 (bits v 24 6),
           lastMeas := BitVec.ofNat 32 (bits v 32 32) }

/-- AGE_PERI of each bank as its ageing records hold it; nothing resets it, so it never falls (R94, R123). -/
def State.loadPeri (s : State) : State :=
  s.modArr (fun a => { a with
    peri := a.backingAge.foldl (fun t p =>
      tmod zeroByte t (p.1 / 264) (fun v => BitVec.ofNat 8 (max v.toNat (bits p.2.toNat 8 8)))) a.peri })

/-- The margin SRAM is loaded from the backing copy: SET0 from it, SET1 zero (R123); a set that cannot be read is
invalid. -/
def State.loadMargins (s : State) : State :=
  let ns := (s.arr.phys.map (fun p => p.1) ++ s.arr.backingAge.map (fun p => p.1)).eraseDups
  let t := s.modArr (fun a => { a with margin := a.backing.map (fun p => (2 * p.1, p.2)), dirty := [] })
  let u := s.media.marginLost.foldl (fun v n => groups.foldl (fun w g => w.setMset n g 0 0) v) t
  (ns.foldl (fun v n => v.modArray n (fun p => p.loadAge (tget zero64 s.arr.backingAge n).toNat)) u).loadPeri

/-- Temperature samples from before a start or a wake count for no slew (R90 item 4). -/
def State.clearSlew (s : State) : State := s.modArr (fun a => { a with tempHist := [], slewEnd := [] })

/-- Parked tiles return to the buffer locations they left (R353, R354). -/
def State.unpark (s : State) : State :=
  let t : State := { s with mem := Memory.clear s.mem 0 bufferSize }
  (s.mig.parked.foldl (fun u p =>
    u.putMem (p.bufLoc * tileSize) (Memory.gets s.mem (bulkBase + p.bulk * tileSize) tileSize)) t).modMig (fun m => { m with
      parked := [] })

/-- UMBRA_WAKE: WAKE_N is driven low, and the first of the domains starts to wake. -/
def execUmbraWake (s : State) : Result :=
  .next (if s.pwr.waking ∧ s.dom 145 = .off then (s.emit .wakeLow).wakeNext else s)

/-- The mode after a wake: the one a latched MODE write names, else MODE_START. -/
def State.wakeMode (s : State) : Nat := (s.pwr.wakeLatch.findSome? (fun e => e.2)).getD (s.ent? 0x2000 2)

/-- The end of the way out: every domain is ON, what they lost is loaded, the mode is entered, and the first replanning pass
starts (R123, R353, R384). -/
def State.leaveUmbra (s : State) : State :=
  let v := s.wakeMode
  let w := s.wakeGroups.flatten.foldl (fun u d => if u.dom d = .on then u else domainOn d u) s
  let t := w.loadMaps.loadMargins.clearSlew.unpark
  ((t.modPwr (fun p => { p with mode := v, waking := false, wakeLatch := [], noNew := false })).applyUnits.recomputeCeiling).startPass
    true

/-! ## Temperature (R524) -/

/-- Every switched domain goes OFF, with what R514 says it loses, and the device waits for reset (R524). -/
def State.thermalTrip (s : State) : State :=
  let t := (t1Down (s.goFatal 3 0)).switchOff
  ({ t with mem := Memory.clear t.mem 0 bufferSize }).modArr (fun a => { a with margin := [] })
    |>.modPwr (fun p => { p with tripped := true, dom := [(135, .off), (147, .off)] })

/-- Compare the hottest sensor with the grade's limits (R524). -/
def State.thermalCheck (s : State) : State :=
  let t := s.tAll
  if s.pwr.tripped then s
  else if s.junctionMax + 60 < t then s.thermalTrip
  else if s.junctionMax < t ∧ !s.pwr.hold then
    (((s.modPwr (fun p => { p with hold := true })).count 0x600E 13 clsDegraded).applyUnits).recomputeCeiling
  else if t ≤ s.junctionMax - 12 ∧ s.pwr.hold then
    ((s.modPwr (fun p => { p with hold := false })).applyUnits).recomputeCeiling
  else s

/-- LOGIC_TEMP_SAMPLE (R524). -/
def execLogicTempSample (sensor : Fin 16) (quarters : Int) (s : State) : Result :=
  .next (s.modPwr (fun p => { p with logicT := tset tempDefault p.logicT sensor.val quarters })).thermalCheck

/-- BANK_TEMP_SAMPLE (R90, R93, R106, R121, R524). -/
def execBankTempSample (bank : BitVec 6) (quarters : Int) (s : State) : Result :=
  let b := bank.toNat
  let now := s.clk.ticks
  let h := pruneHist now (tget (fun _ => []) s.arr.tempHist b)
  let trig := s.tempTriggered b quarters
  let t := s.modArr (fun a => { a with
    temp := tset tempDefault a.temp b quarters
    tempHist := tset (fun _ => []) a.tempHist b (h ++ [(now, quarters)])
    slewEnd := if slewHigh now quarters h then tset zeroNat a.slewEnd b (now + 25000000) else a.slewEnd })
  .next ((if trig then (t.noteBank b).startEarly b else t.noteBank b).ktempCheck.thermalCheck)

/-! ## Supplies (R525 to R527) -/

/-- The actions that a first warning starts (R57, R394, R348). -/
def State.warningActions (s : State) : State :=
  ((s.discardPhases true).warnPrograms.warnCopies).modMedia (fun m => { m with
    suspendAll := true, pageRuns := m.writing.isSome })

/-- SUPPLY_WARNING. -/
def execSupplyWarning (rail : Fin 8) (s : State) : Result :=
  let m : BitVec 8 := 1#8 <<< rail.val
  .next (if s.pwr.warn.getLsbD rail.val then s
    else
      let first := decide (s.pwr.acts = 0)
      let t := (if first then s.warningActions else s).modPwr (fun p => { p with
        warn := p.warn ||| m, latched := p.latched ||| m, acts := p.acts ||| m })
      t.count 0x600E (5 + rail.val) clsRecovered)

/-- Arrays of operations that hold-back expiry ended during the warning leave the converting state (R575). -/
def State.releaseAborted (s : State) : State :=
  s.arr.phys.foldl (fun t p =>
    if p.2.st = .converting ∧ !s.arrayBusy p.1 then t.setIdle [p.1] else t) s

/-- SUPPLY_WARNING_CLEAR: the actions end with the last rail out of warning, and held work goes on. -/
def execSupplyWarningClear (rail : Fin 8) (s : State) : Result :=
  .next (if !s.pwr.warn.getLsbD rail.val then s
    else
      let t := s.modPwr (fun p => { p with warn := p.warn &&& ~~~(1#8 <<< rail.val) })
      if t.pwr.warn = 0 then
        let u := (t.modPwr (fun p => { p with acts := 0 })).modMedia (fun m => { m with suspendAll := false, pageRuns := false })
        u.releaseAborted.restartPhases.restartCopies.flushHeld.vacateBad.grantHv
      else t)

/-- A write of SUPPLY_LATCHED: 1 clears a bit. -/
def wSupplyLatched (v : Nat) (s : State) : WriteRes :=
  (0, s.modPwr (fun p => { p with latched := p.latched &&& ~~~(BitVec.ofNat 8 v) }))

def execSupplyLatchedClear (m : Master) (value : BitVec 8) (s : State) : Result :=
  entryWrite m 0x2000 17 1 value.toNat (wSupplyLatched value.toNat) s

end Sys2Proof.Machine
end

