-- ==== Sys2Proof/Machine/Boot.lean ====
section
/-!
DEFINITION. Start-up (R529 to R550, R590 to R592): what a reset keeps and clears, the boot steps and their alternates,
the boot ledger, self-restarts and RECOVERY, the system map that step B8 builds (R400), and supply resets.
-/
namespace Sys2Proof.Machine

/-! ## What a reset keeps (R384, R536, R591) -/

/-- The persistent state of an array: what the MEDIA partition last committed of it, and what the array itself holds
(R384). -/
def PhysArray.keep (n : Nat) (r : ArrRec) (p : PhysArray) : PhysArray :=
  { physDefault n with
    st := r.st
    mapped := p.mapped && decide (r.st = .idle), addrSlot := if r.st = .idle then p.addrSlot else 0, qreason := r.qreason
    fence := r.fence, barred0 := r.barred0, barred1 := r.barred1, barred2 := r.barred2, epoch := p.epoch, redEpoch := r.epoch
    erases := r.erases, eraseOpen := r.eraseOpen, progOpen := r.progOpen, rowsOpen := p.rowsOpen, rowsDone := p.rowsDone
    baseline := p.baseline, baseTemp := p.baseTemp }

/-- The arrays after a reset: cells, committed array records, backing copy, and AGE_PERI, which nothing resets (R94); the map
is loaded at B4. -/
def Arrays.keep (arrs : Table ArrRec) (a : Arrays) : Arrays :=
  { Arrays.reset with
    cells := a.cells
    refs := a.refs
    peri := a.peri
    map := a.map
    phys := (a.phys.map (fun p => (p.1, p.2.keep p.1 (tget arrRecDefault arrs p.1)))).filter (fun p =>
      decide (p.2 ≠ physDefault p.1))
    backing := a.backing
    backingAge := a.backingAge }

/-- A store plane block after a reset: its erase is left open (R383, R393), and the next transaction starts on a word line
that has not been programmed; a page whose program the reset cut short counts as programmed (R380). -/
def StoreBlk.keep (n : Nat) (cut marked : Bool) (b : StoreBlk) : StoreBlk :=
  { b with eraseOpen := marked, erasing := false, suspended := false, suspends := 0
           wp := nextStart (decide (b.part n = some .library)) (b.wp + b2n cut) }

/-- An extent after a reset: a relocation that had not switched the map is undone (R387, R388). -/
def Extent.keep (x : Extent) : Extent :=
  if x.st = .relocating then
    { x with st := if x.log = [] ∧ x.merging = [] then .mapped else .logged
             log := x.log.filter (fun y => !x.merging.any (fun z => decide (z.1 = y.1))) ++ x.merging, merging := [], next := none }
  else x

/-- A committed transaction that still holds something: a library tile that the index names, or any other (R371). -/
def Media.holds (m : Media) (t : Transact) : Bool :=
  match t.tile? with | some k => m.index.any (fun q => decide (q.2 = some k)) | none => true

/-- The media after a reset: what was committed. A library tile whose array write did not commit is freed (R371). -/
def Media.keep (m : Media) : Media :=
  { m with
    lib := m.lib.filter (fun p => m.index.any (fun q => decide (q.2 = some p.1)))
    trans := m.trans.filter (fun t => m.holds t)
    libReserved := 0
    blk := (m.blk.map (fun p => (p.1, p.2.keep p.1 (m.writing.any (fun w => decide (w.blocks.getLast? = some p.1)))
      (m.openBlks.contains p.1)))).filter (fun p => decide (p.2 ≠ storeBlkDefault p.1))
    waiting := []
    writing := none
    suspendAll := false
    pageRuns := false
    lastScrub := 0
    ext := m.ext.map (fun p => (p.1, p.2.keep))
    targets := 0, nandIf := 0, nandRate := 0, cellType := 0, nandBlocks := 0
    deepLost := false, deepHold := false, bulkHold := false, bulkLost := false }

/-- The clocks after a reset: the halo domain keeps its oscillators and POWERED_SECONDS; after a power-on they start
again, and POWERED_SECONDS resumes from the saved value plus BACKING_INTERVAL (R467, R515). -/
def Clock.keep (c : Clock) (halo : Bool) (saved : Nat) : Clock :=
  if halo then
    { Clock.reset with
      crystal := c.crystal, lanternHz := c.lanternHz, faultNow := c.faultNow &&& 3#12, powered := c.powered
      secTicks := c.secTicks }
  else { Clock.reset with powered := saved }

/-- Everything but the boot record after a reset; the bulk tier's contents are undefined and read as bytes that nothing
has written (R355, log 4). -/
def State.kept (s : State) (halo : Bool) : State :=
  { State.reset with
    pending := s.pending, host := s.host, out := s.out, freeIx := s.freeIx, nextId := s.nextId, ident := s.ident
    tap := if halo then s.tap else Tap.reset
    mem := s.mem.filter (fun p => decide (deepBase ≤ p.1 ∧ p.1 < deepBase + 2 ^ 40))
    clk := s.clk.keep halo (s.media.savedSecs + s.media.savedEvery)
    arr := s.arr.keep s.media.arrs
    media := s.media.keep
    casc := { Cascade.reset with bars := s.casc.bars, shade := if s.casc.shade = .failed then .failed else .none }
    pwr := { Power.reset with straps := s.pwr.straps, warn := s.pwr.warn } }

/-! ## The ledger (R532 to R536) -/

/-- The steps that failed in a record. -/
def Ledger.failed (r : Ledger) : List Nat :=
  (r.results.zipIdx.filter (fun p => decide (p.1 = 4#3) || decide (p.1 = 5#3))).map (fun p => p.2)

/-- At the end of a start every step that failed joins ALT_IN_FORCE (R532). -/
def Boot.noteAlt (b : Boot) : Boot :=
  { b with alt := b.present.failed.foldl (fun m k => m ||| (1#12 <<< k)) b.alt }

/-- The record of a new start (R534). -/
def newRecord (old : Option Ledger) (cause : Nat) (rail : Option (Fin 8)) (unconf recLoad : Bool) (secs : Nat) : Ledger :=
  { emptyLedger with
    startNum := match old with | some r => r.startNum + 1 | none => 1
    cause := BitVec.ofNat 8 cause
    rail := match rail with | some k => BitVec.ofNat 3 k.val | none => 0
    streak := match old with | some r => (if cause = 4 ∧ r.streak ≠ 15 then r.streak + 1 else r.streak) | none => 0
    unconf := unconf, recLoad := recLoad, seconds := BitVec.ofNat 32 secs }

/-- A reset (R591): every block but the halo domain stops; with `halo` false the halo domain's records are lost too, and
the newest committed record stands for them (R536). -/
def deviceReset (cause : Nat) (rail : Option (Fin 8)) (halo recLoad : Bool) (s : State) : State :=
  let t := s.kept halo
  let b := if s.boot.st = .booting then s.boot.noteAlt else s.boot
  let old := if halo then some b.present else b.ring.getLast?
  let c := if s.pwr.tripped ∧ halo then 3 else cause
  let un := decide (b.fw ≠ .idle) && decide (c ≠ 6) && !recLoad
  { t with boot := { Boot.reset with
      present := newRecord old c rail un recLoad t.clk.powered
      ring := b.ring, ringLost := b.ringLost, ringAlt := b.ringAlt
      alt := if halo then b.alt else if b.ring = [] ∨ b.ringLost then 0 else b.ringAlt
      imageLost := b.imageLost, committed := b.committed, floor := b.floor
      fwResult := if un then 8 else 0
      fatal := if halo then b.fatal else 0
      prev := old, pcieTop := b.pcieTop } }

/-- B0 begins: the straps are sampled (R435, R511, R530, R592). -/
def startB0 (p : Straps) (s : State) : State :=
  let t := s.modPwr (fun q => { q with straps := p, inReset := false, warn := 0 })
  { t with
    casc := { t.casc with role := p.id }
    net := { t.net with strapMs := p.t1ms, master := p.t1ms }
    clk := { t.clk with outSel := if p.clkOutEn then 1 else 0 }
    boot := { t.boot with present := { t.boot.present with seconds := BitVec.ofNat 32 t.clk.powered } } }

/-- B0 begins at once unless a rail is below its warning level (R590). -/
def resetB0 (p : Straps) (s : State) : State := if s.pwr.warn = 0 then startB0 p s else s

/-- The straps as a start that no ball gives samples them: their balls may have changed since the last one, and nothing here
says how (R530, R592, log 5). -/
def State.sampledStraps (s : State) : Straps :=
  let n := Config.freeNat s.freeIx
  { id := BitVec.ofNat 5 n, rank := BitVec.ofNat 3 (n / 2 ^ 5), head := n.testBit 8, stby := n.testBit 9, t1ms := n.testBit 10
    clkOutEn := n.testBit 11, recovery := n.testBit 12 }

/-- The device starts again from B0, which samples the straps (R530). -/
def restartB0 (s : State) : State := (resetB0 s.sampledStraps s).takeFree

/-- POWER_ON: every rail has been in range for 1 ms and RESET_N is high (R590). -/
def execPowerOn (straps : Straps) (outOfOrder : Option (Fin 8)) (s : State) : Result :=
  .next (if !s.pwr.inReset then s
    else
      let t := match outOfOrder with
        | some k =>
          if s.boot.present.cause = 0 then
            s.modBoot (fun b => { b with present := { b.present with cause := 2, rail := BitVec.ofNat 3 k.val } })
          else s
        | none => s
      startB0 straps t)

/-- RESET_N: 1.1 us resets the device, below 0.9 us is ignored, and between the two either happens (R591). -/
def execResetN (lowNs : Nat) (straps : Straps) (s : State) : Result :=
  let go := resetB0 straps (deviceReset 1 none true false s)
  .next (if 1100 ≤ lowNs then go
    else if lowNs < 900 then s
    else if Config.freeBool s.freeIx then go.takeFree else s.takeFree)

/-- SUPPLY_RESET: a VDD_HALO reset is a power-on reset (R527, R591). -/
def execSupplyReset (rail : Fin 8) (s : State) : Result :=
  .next (if rail.val = 7 then deviceReset 0 none false false s else deviceReset 2 (some rail) true false s)

/-! ## Failures (R529, R533) -/

/-- A step's result is recorded when the step ends (R535). -/
def Ledger.setStep (r : Ledger) (k : Nat) (v : BitVec 3) (alt : Bool) : Ledger :=
  { r with results := setAt r.results k v, altUsed := if alt then r.altUsed ||| (1#12 <<< k) else r.altUsed }

/-- The first failure of a start, with its code. -/
def Ledger.noteFail (r : Ledger) (k : Fin 12) (detail : Word) : Ledger :=
  match r.first with
  | none => { r with first := some k, detail := detail }
  | some _ => r

def State.modRecord (s : State) (f : Ledger → Ledger) : State := s.modBoot (fun b => { b with present := f b.present })

/-- RECOVERY (R550): the boot ROM runs on core 0, the buffer tier and, on a device that is its own chain head, the PCI
Express port are up, and the Stored entries are not used. -/
def enterRecovery (s : State) : State :=
  let t := s.modBoot (fun b => { b with st := .recovery, fw := .idle, fwCores := 0 })
  let ds := (List.range 48).map (· + 64) ++ (if t.casc.isHead ∨ t.upPorts = [] then [140] else [])
  let u := ds.foldl (fun v d => v.setDom d .on) t
  { u with
    ent := []
    net := { u.net with master := u.net.strapMs }
    clk := { u.clk with running := u.clk.running ||| 0x84#11, enable := u.clk.enable ||| 0x84#11 } }

/-- A mandatory step fails: a restart 100 ms later, or, with FAIL_STREAK at 3, a fatal event and RECOVERY once B2 has
passed (R533). -/
def failMandatory (k : Nat) (s : State) : State :=
  let t := s.modBoot (fun b => b.noteAlt)
  if t.boot.present.streak.toNat < 3 then
    t.queueLedger.modBoot (fun b => { b with restartAt := some (s.clk.ticks + 2500000) })
  else
    let u := (t.goFatal 5 k).queueLedger
    if 2 < k then enterRecovery u else u.modBoot (fun b => { b with waitReset := true })

/-- SELF_RESTART: 100 ms after the failure, its record committed, the device starts again from B0 (R533, R536). -/
def execSelfRestart (s : State) : Result :=
  .next (match s.boot.restartAt with
    | none => s
    | some t => restartB0 (deviceReset 4 none true false (s.toTick t).flushStore))

/-! ## The system map (R398 to R401) -/

/-- A device of the chain as its training record shows it, with what it becomes. -/
abbrev Seat := TrainRec × RoleState

/-- Every device reached, as the training records show it (R400): this one, and the others, each once. -/
def State.reached (s : State) : List TrainRec :=
  (s.records.map (fun x => x.2)).foldl (fun l r =>
    if l.any (fun x => decide (x.serial = r.serial)) then l else l ++ [r]) [s.selfRec 0]

/-- The record with the lowest ID. -/
def lowestId (l : List TrainRec) : Option TrainRec :=
  l.foldl (fun m r => match m with | none => some r | some x => if r.id < x.id then some r else some x) none

/-- Exactly one device has HEAD = 1, and its RANK is 0. -/
def properHead (l : List TrainRec) : Bool :=
  match l.filter (fun r => r.head) with | [h] => decide (h.rank = 0) | _ => false

/-- The chain head: the lowest ID among those with HEAD = 1, or among all (R400). -/
def chainHead (l : List TrainRec) (me : TrainRec) : TrainRec :=
  ((lowestId (l.filter (fun r => r.head))).orElse (fun _ => lowestId l)).getD me

/-- Devices in the order in which they are reached from those listed: by hops, and at each device by port. -/
def reachOrder (h : List Hop) : Nat → List Word → List Word
  | 0, l => l
  | n + 1, l => reachOrder h n (l.foldl (fun a x => portNums.foldl (fun b k =>
      match h.find? (fun e => decide (e.src = x) && decide (e.port = k)) with
      | some e => if b.contains e.dst then b else b ++ [e.dst]
      | none => b) a) l)

/-- The devices reached, in the order in which the chain head reaches them. -/
def State.headOrder (s : State) (h : TrainRec) : List TrainRec :=
  let o := (reachOrder s.hops 32 [lowId h.serial]).filterMap (fun n => s.reached.find? (fun r => decide (lowId r.serial = n)))
  o ++ s.reached.filter (fun r => !o.contains r)

/-- The first device of each ID. -/
def firstOfId (l : List TrainRec) : List TrainRec :=
  l.foldl (fun a r => if a.any (fun x => decide (x.id = r.id)) then a else a ++ [r]) []

/-- Members beyond the four lowest IDs of their rank leave it. -/
def rankFull (l : List TrainRec) (r : TrainRec) : Bool :=
  decide (4 ≤ (l.filter (fun x => decide (x.rank = r.rank) && decide (x.id < r.id))).length)

/-- A rank below this one has no member. -/
def beyondGap (l : List TrainRec) (r : TrainRec) : Bool :=
  (List.range r.rank.toNat).any (fun k => !l.any (fun x => decide (x.rank.toNat = k)))

/-- The members of a rank that stay: while two are not within 2 hops of each other, over links between members of LINK_DELAY 12 or
less, the one with the highest ID that breaks it leaves (R400). -/
def closeRank (h : List Hop) : Nat → List TrainRec → List TrainRec
  | 0, l => l
  | n + 1, l =>
    let ids := l.map (fun r => lowId r.serial)
    let g := h.filter (fun e => decide (e.delay ≤ 12) && ids.contains e.src && ids.contains e.dst)
    let far := l.filter (fun r => l.any (fun x => !(ball g (lowId x.serial) 2).contains (lowId r.serial)))
    match far.foldl (fun (m : Option TrainRec) r => match m with
      | none => some r
      | some x => if x.id < r.id then some r else some x) none with
    | none => l
    | some r => closeRank h n (l.filter (fun x => x != r))

/-- The part's identity shows a bar for a role (R430). -/
def State.barredFrom (s : State) (r : TrainRec) (v : Nat) : Bool := s.casc.bars.contains (barOf v (lowId r.serial))

/-- Each device that takes the role of its ID, ACTIVE or made a standby (R400). A part barred from that role does not take it
(R430). -/
def State.seats (s : State) : List Seat :=
  let l := s.reached
  let h := chainHead l (s.selfRec 0)
  let u := (firstOfId (s.headOrder h)).filter (fun r => decide (r = h) || !s.barredFrom r r.id.toNat)
  if !properHead l then u.map (fun r => (r, if r = h then .active else .standby))
  else
    let a := u.filter (fun r => !r.stby)
    let b := a.filter (fun r => !rankFull a r)
    let c := b.filter (fun r => !beyondGap b r)
    let d := (List.range 8).flatMap (fun k => closeRank s.hops 4 (c.filter (fun r => decide (r.rank.toNat = k))))
    u.map (fun r => (r, if d.contains r then .active else .standby))

/-- The devices whose ID another one has, or that are barred from its role: standbys, each in the lowest role that nobody's ID
names and that it is not barred from (log 67). -/
def State.extraSeats (s : State) (l : List Seat) : List (Nat × TrainRec) :=
  let free := roleNums.filter (fun v => !s.reached.any (fun x => decide (x.id.toNat = v)))
  (s.reached.filter (fun r => !l.any (fun x => decide (x.1.serial = r.serial)))).foldl (fun a r =>
    match free.find? (fun v => !a.any (fun y => decide (y.1 = v)) && !s.barredFrom r v) with
    | some v => a ++ [(v, r)]
    | none => a) []

def mapEntry (r : TrainRec) (st : RoleState) (rank : BitVec 3) (head : Bool) : MapRole :=
  { st := st, rank := if st = .active then rank else 0, master := false, head := head, epoch := 0,
    serial := BitVec.ofNat 32 r.serial.toNat }

/-- The map, and which role each device has. -/
def State.buildMap (s : State) : List (Nat × TrainRec × MapRole) :=
  if s.upPorts = [] then [(s.pwr.straps.id.toNat, s.selfRec 0, mapEntry (s.selfRec 0) .active 0 true)]
  else
    let l := s.seats
    let h := chainHead s.reached (s.selfRec 0)
    let ok := properHead s.reached
    l.map (fun x => (x.1.id.toNat, x.1, mapEntry x.1 x.2 (if ok then x.1.rank else 0) (decide (x.1 = h))))
      ++ (s.extraSeats l).map (fun x => (x.1, x.2, mapEntry x.2 .standby 0 false))

/-- Devices that a rule made a standby, which is degraded: all of them at the chain head, this one elsewhere. -/
def State.madeStandby (s : State) (l : List (Nat × TrainRec × MapRole)) (head : Bool) : Nat :=
  (l.filter (fun x => decide (x.2.2.st = .standby) && !x.2.1.stby
    && (head || decide (x.2.1.serial = s.ident.identity)))).length

/-- The end of B8: the system map (R400); a device with no port UP is a chain of its own. A shade whose recheck failed is
rechecked before it takes a role (R429). -/
def formChain (s : State) : State :=
  let l := s.buildMap
  let mine := l.find? (fun x => decide (x.2.1.serial = s.ident.identity))
  let isHead := match mine with | some x => x.2.2.head | none => false
  let t := s.modCasc (fun c => { c with
    map := l.foldl (fun m x => tset mapRoleDefault m x.1 x.2.2) []
    role := match mine with | some x => BitVec.ofNat 5 x.1 | none => c.role
    roleV := mine.isSome, isHead := isHead })
  let w := (fun (v : State) => if v.casc.shade = .failed then startRecheck (v.modCasc (fun c => { c with roleV := false })) else v)
    (afterMap t).restartWatch
  let n := s.madeStandby l isHead
  (w.addCnt 0x600B 10 n).addCnt 0x6001 clsDegraded n

/-! ## What each step provides (R529) -/

def lockPlls (ks : List Nat) (s : State) : State :=
  ks.foldl (fun t k => t.modPll k (fun _ => { locked := true, tries := 0, lost := false })) s

def enableBlocks (m : BitVec 11) (s : State) : State :=
  s.modClk (fun c => { c with enable := c.enable ||| m, running := c.running ||| m })

def domsOn (ds : List Nat) (s : State) : State := ds.foldl (fun t d => t.setDom d .on) s

/-- The Stored entries are loaded (R456). -/
def loadStored (s : State) : State :=
  let t := s.media.stored.foldl (fun (u : State) p => { u with ent := tset entDefault u.ent p.1 p.2 }) s
  t.modNet (fun n => { n with master := if t.ent? 0x1100 1 = 0 then n.strapMs else decide (t.ent? 0x1100 1 = 1) })

/-- An array whose program was cut short, or that holds a tile, and that holds no address is to be erased (R393); the recheck of
every shade is due again (R77). -/
def State.startOutcomes (s : State) : State :=
  s.arr.phys.foldl (fun t p =>
    let u := t.modArray p.1 (fun q =>
      if q.st = .idle ∧ !q.mapped ∧ (q.progOpen ∨ !s.isErased p.1) then { q with progOpen := false, eraseOpen := true }
      else if q.st = .quarantined then { q with eraseOpen := true }
      else q)
    if p.2.st = .quarantined then (u.modArr (fun a => { a with rechecks := a.rechecks ++ [(p.1, u.nextId)] })).takeId else u) s

/-- The records of the starts that led to this one: those after the last that reached B11, and the present one. -/
def Boot.chain (b : Boot) : List Ledger :=
  ((b.ring.reverse.takeWhile (fun r => decide (r.results.getD 11 0 = 0#3))).reverse) ++ [b.present]

/-- The optional steps of R529. -/
def isOptional (k : Nat) : Bool := decide (k = 5) || decide (k = 7) || decide (k = 8) || decide (k = 9) || decide (k = 11)

/-- The events that the ledger holds for the resets that led to this start (R561). -/
def countLedger (s : State) : State :=
  let l := s.boot.chain
  let t := (l.zip (l.drop 1)).foldl (fun u p =>
    if p.2.cause = 4 then
      ((u.count 0x600F 2 clsFailed).addCnt 0x600F 1 p.1.failed.length).addCnt 0x6001 clsDegraded (p.1.failed.filter isOptional).length
    else u) s
  let t1 := if s.boot.present.unconf then t.count 0x600F 12 clsFailed else t
  if s.boot.present.cause = 6 then t1.count 0x600F 10 clsFailed else t1

/-- B4: the maps, the array states, the Stored entries (R384, R393, R456, R561). -/
def provideMaps (s : State) : State :=
  (countLedger (loadStored s.loadMaps.startOutcomes)).modBoot (fun b => { b with b4Done := true })

/-- B5: a bulk tier of `gib` GiB, whose top 16 MiB hold the tile map (R323, R537). -/
def provideBulk (gib : Nat) (s : State) : State :=
  let n := gib * 2 ^ 30
  (((lockPlls [2] (domsOn [145] s)).modMig (fun m => { m with bulkSize := n, tileMapOn := decide (gib ≠ 0) })) |> enableBlocks
    (1#11 <<< blkBulk)).setEnt 0x4500 11 (n - 16 * 1024 * 1024)

/-- A stored set of the array is unreadable or invalid (R101). -/
def State.badSets (s : State) (n : Nat) : Bool := groups.any (fun g => !setValid (s.mset n g 0))

/-- Arrays that the backing copy names. -/
def State.backed (s : State) : List Nat := (s.arr.backing.map (fun (p : Nat × BitVec 64) => p.1 / 32) ++ s.media.marginLost).eraseDups

/-- An address whose array has no valid set waits, UNAVAILABLE and served by no array, for the first pass (R66, R529). -/
def awaitPass (n : Nat) (s : State) : State :=
  let p := s.array n
  if p.mapped then
    ((s.setMap (p.address n) { phys := 0, st := .unavailable }).modArray n (fun q => { q with
      mapped := false, addrSlot := 0 })).modArr (fun a => { a with
        rebuilds := a.rebuilds ++ [{ addr := p.address n, array := n, tile := none, ready := false }] })
  else s

/-- B6: the margin sets are loaded, and arrays without valid ones are measured and rebuilt, or, under the alternate, left
for the first pass. -/
def provideMargins (alt : Bool) (s : State) : State :=
  let t := s.loadMargins
  (t.backed.filter (fun n => t.badSets n)).foldl (fun u n => if alt then awaitPass n u else u.rebuildFree n) t

/-- The parts that were found are supported (R385): 1 to 8 targets on each of 4 channels, NV-DDR3 at up to 1,200 MT/s or
NV-LPDDR4 at up to 2,400 MT/s, SLC, TLC or QLC cells, and no part that needs two passes for a word line. -/
def deepSupported (found : Nat) : Bool :=
  let r := bits found 10 12
  decide (1 ≤ bits found 0 8) && decide (bits found 0 8 ≤ 32) && decide (200 ≤ r) && decide (bits found 22 2 ≤ 2) && !bit found 24
    && ((decide (bits found 8 2 = 1) && decide (r ≤ 1200)) || (decide (bits found 8 2 = 2) && decide (r ≤ 2400)))

/-- The factory bad-block marks are read at the first start (R391). -/
def readMarks (blocks found : Nat) (s : State) : State :=
  if s.media.marksRead then s
  else
    (((List.range blocks).filter (fun b => bit found (64 + b))).foldl
      (fun t b => t.setNandBlk b { t.nandBlk b with bad := true }) s).modMedia (fun m => { m with marksRead := true })

/-- B7: the deep tier. `found` gives NAND_CONFIG in [23:0] for the targets of one part identity, at the highest rate that the
part reports and training passes; [24] says that the part needs two passes, [25] that targets of another identity were
found and not used; the 4 MiB blocks of the targets in use stand in [63:32], and [64 + b] is the factory bad-block mark of
block b, read at the first start (R391). The rate is at most NAND_RATE_MAX, and the
alternate's is 200 MT/s of NV-DDR3. DEEP_SIZE is 93 % of the blocks, at most 1 TiB (R385, R386, R529). On parts that are
not supported the tier does not come up, which is degraded. -/
def provideDeep (alt : Bool) (found : Nat) (s : State) : State :=
  if !deepSupported found then s.addClass clsDegraded
  else
    let blocks := bits found 32 32
    let n := min (blocks * 93 / 100) 262144 * 2 ^ 22
    let s := readMarks blocks found s
    let t := if bit found 25 then s.addClass clsDegraded else s
    ((((lockPlls [3] (domsOn [146] t)).modMedia (fun m => { m with
      targets := bits found 0 8, nandIf := if alt then 1 else bits found 8 2
      nandRate := if alt then 200 else min (bits found 10 12) (s.ent? 0x4600 4), cellType := bits found 22 2
      nandBlocks := blocks })).modMig (fun m => { m with deepSize := n })) |> enableBlocks (1#11 <<< blkDeep)).setEnt 0x4500 13 n
      |> State.checkSpares

/-- B8 begins: the powered ports train, under the alternate at 16 Gb/s only (R402, R529). -/
def beginPorts (s : State) : State :=
  let t := enableBlocks (1#11 <<< blkCascade) (lockPlls [4, 5, 6, 7] s)
  t.portDomains.foldl (fun u d => (u.setDom d .on).trainPort (d - 141)) t

/-- B9: the PCI Express port is enabled; under the alternate its top generation is that of `Boot.pcieTop` (R529, R532). -/
def providePcie (s : State) : State := enableBlocks (1#11 <<< blkPcie) (domsOn [140] s)

/-- The top generation after B9 has failed: one below the last one tried, down to Gen 1 (R529, R532). -/
def State.lowerTop (s : State) (alt : Bool) : Nat :=
  let m := s.ent? 0x5100 2
  max 1 ((if alt then min m s.boot.pcieTop else m) - 1)

/-- B10: every block runs, the domains are ON, and the device enters MODE_START. -/
def provideService (s : State) : State :=
  let t := domsOn (List.range 112 ++ [134, 136, 137, 138, 139]) (enableBlocks 0x7FF#11 s)
  let u := (t.modPwr (fun p => { p with mode := s.ent? 0x2000 2 })).applyUnits
  ((List.range 20).foldl (fun v i => if v.dom (112 + i) = .waking then domainOn (112 + i) v else v) u).recomputeCeiling

/-- What a step that ended well provides. -/
def provide (k : Nat) (alt : Bool) (found : Nat) (s : State) : State :=
  match k with
  | 1 => if alt then s.modClk (fun c => { c with crystal := false, onLantern := true }) else s
  | 2 => lockPlls [0, 1, 8] s
  | 3 => s.modBoot (fun b => { b with running := b.committed, present := { b.present with version := b.committed.version } })
  | 4 => provideMaps s
  | 5 => provideBulk found s
  | 6 => provideMargins alt s
  | 7 => provideDeep alt found s
  | 9 => providePcie s
  | 10 => provideService s
  | _ => s

/-! ## The course of a start (R529, R532) -/

/-- A step that has an alternate method; that of B3 is RECOVERY, in the same start. -/
def hasAlternate (k : Nat) : Bool := decide (k = 1) || (decide (5 ≤ k) && decide (k ≤ 9))

/-- The last result of a step: that of the newest earlier start that reached it. -/
def Boot.before (b : Boot) (k : Nat) : BitVec 3 :=
  (((b.prev.toList ++ b.ring.reverse).map (fun r => r.results.getD k 0)).find? (fun v => decide (v ≠ 0))).getD 0

/-- A step is skipped: B9 off the chain head, and an optional step in force that has no alternate, or whose alternate
has failed too; B9 lowers its generation instead (R529, R532). -/
def State.skipsStep (s : State) (k : Nat) : Bool :=
  if k = 9 then !s.casc.isHead
  else isOptional k && s.boot.alt.getLsbD k
    && (!hasAlternate k || decide (s.boot.before k = 5#3) || decide (s.boot.before k = 3#3))

/-- The end of B11: the start record is committed, service starts, and with it the first replanning pass (R123, R529,
R533). -/
def startService (s : State) : State :=
  State.queueLedger <| (s.startPass true).modBoot (fun b =>
    let c := { b with st := .serving, present := { b.present with streak := 0, bootMs := BitVec.ofNat 32 (s.clk.ticks / 25000) } }
    c.noteAlt)

/-- The next step begins. -/
def nextStep (k : Nat) (s : State) : State :=
  let t := s.modBoot (fun b => { b with step := k + 1 })
  if k = 7 ∧ !t.skipsStep 8 then beginPorts t
  else if k = 8 then formChain t
  else if k = 11 then startService t
  else t

/-- A step has ended with a result. -/
def endStep (k : Nat) (v : BitVec 3) (alt : Bool) (s : State) : State :=
  let t := s.modRecord (fun r => r.setStep k v alt)
  if alt then t.count 0x600F 3 clsDegraded else t

/-- A step fails (R529, R532, R533). -/
def failStep (k : Fin 12) (alt : Bool) (detail : Word) (s : State) : State :=
  let t := (endStep k.val (if alt then 5 else 4) alt s).modRecord (fun r => r.noteFail k detail)
  if isOptional k.val then
    nextStep k.val ((t.count 0x600F 1 clsDegraded).modBoot (fun b => { b with
      attState := if k.val = 11 then 3 else b.attState
      pcieTop := if k.val = 9 then s.lowerTop alt else b.pcieTop }))
  else failMandatory k.val (t.addCnt 0x600F 1 1)

/-- B3: an image that can be read, whose checks pass and whose SECURITY_VERSION is not below the floor (R541, R542,
R549); with FW_RECOVERY high none is read. -/
def State.imageGood (s : State) : Bool :=
  let i := s.boot.committed
  !s.pwr.straps.recovery && !s.boot.imageLost && i.formatOk && i.keyOk && i.sigOk && decide (s.boot.floor ≤ i.security)

/-- Why B3 does not start the image: the update result that its checks give, or 7 for a partition that cannot be read. -/
def State.imageFault (s : State) : Word :=
  let i := s.boot.committed
  if s.boot.imageLost then 7 else if !i.keyOk then 2 else if !i.formatOk then 1 else if !i.sigOk then 3 else 4

/-- B3 ends in RECOVERY, in the same start; with FW_RECOVERY high it has not failed (R529, R530, R550). -/
def endInRecovery (detail : Word) (s : State) : State :=
  let t := endStep 3 6 false s
  enterRecovery (if s.pwr.straps.recovery then t else (t.modRecord (fun r => r.noteFail 3 detail)).addCnt 0x600F 1 1)

/-- The bulk tier of a supported configuration: 1 or 2 ranks of 4, 6, 8, 12 or 16 Gb on each channel (R537). -/
def bulkSupported (gib : Nat) : Bool := [8, 12, 16, 24, 32].contains gib

/-- B1 ends as the crystal does: it is stable, or it was not at 20 ms. -/
def State.crystalEnds (s : State) (how : StepEnd) : Bool :=
  match how with | .ok => s.clk.crystal | .failed _ => s.clk.crystalLate && !s.clk.crystal

/-- BOOT_STEP_END: the present step ends. B0 has no failure, and B3 ends in RECOVERY where it does not start an image. -/
def execBootStepEnd (how : StepEnd) (found : Nat) (s : State) : Result :=
  let k := s.boot.step
  .next (if s.pwr.inReset ∨ s.boot.st ≠ .booting ∨ s.boot.waitReset ∨ s.boot.restartAt.isSome then s
    else if h : k < 12 then
      if s.skipsStep k then
        nextStep k ((endStep k 3 false s).modBoot (fun b => { b with attState := if k = 11 then 3 else b.attState }))
      else
        let alt := hasAlternate k && s.boot.alt.getLsbD k
        if k = 1 ∧ !alt ∧ !s.crystalEnds how then s
        else
          match how with
          | .failed d =>
            if k = 0 then nextStep k (endStep k 1 false s)
            else if k = 3 then endInRecovery d s
            else failStep ⟨k, h⟩ alt d s
          | .ok =>
            if k = 3 ∧ !s.imageGood then endInRecovery s.imageFault s
            else if k = 5 ∧ !bulkSupported found then failStep ⟨k, h⟩ alt 0 s
            else nextStep k (endStep k (if alt then 2 else 1) alt (provide k alt found s))
    else s)

/-- DDR_PERIODIC_TRAINING: write timing is adjusted, which changes nothing that a master sees (R538). -/
def execDdrPeriodicTraining (s : State) : Result := .next s

/-! ## Entries of the ledger and RESTART (R532, R535, R557) -/

/-- A write of ALT_CLEAR. -/
def wAltClear (v : Nat) (s : State) : WriteRes :=
  if 2 ^ 12 ≤ v then (abRange, s) else (0, s.modBoot (fun b => { b with alt := b.alt &&& ~~~(BitVec.ofNat 12 v) }))

def execAltClear (m : Master) (value : BitVec 16) (s : State) : Result :=
  entryWrite m 0x8000 6 2 value.toNat (wAltClear value.toNat) s

/-- The record of a START_NUM in the partition, the newest of its start. -/
def Boot.find (b : Boot) (n : Nat) : Option Ledger := b.ring.reverse.find? (fun r => decide (r.startNum.toNat = n))

/-- A write of LEDGER_INDEX. -/
def wLedgerIndex (v : Nat) (s : State) : WriteRes :=
  if (s.boot.find v).isSome then (0, s.setEnt 0x8000 3 v) else (abRange, s)

def execLedgerIndex (m : Master) (value : Word) (s : State) : Result :=
  entryWrite m 0x8000 3 4 value.toNat (wLedgerIndex value.toNat) s

/-- A write of RESTART: the answer leaves, and the device restarts with RESET_CAUSE 5. -/
def wRestart (m : Master) (v : Nat) (s : State) : WriteRes :=
  if v ≠ 1 then (abRange, s)
  else if s.boot.fw ≠ .idle then (abBusy, s)
  else (abLater, restartB0 (deviceReset 5 none true false (s.answer m 0 tU8 svcWrite [])))

def execRestart (m : Master) (value : BitVec 8) (s : State) : Result :=
  entryWrite m 0x8000 7 1 value.toNat (wRestart m value.toNat) s

end Sys2Proof.Machine
end

