-- ==== Sys2Proof/Machine/Image.lean ====
section
/-!
DEFINITION. The bytes of a firmware image (R540, R541): SHA-256, the check of an RSASSA-PSS signature of RSA-3072, and
what verification finds in a staged image.
-/
namespace Sys2Proof.Machine

/-! ## SHA-256 (FIPS 180-4) -/

def shaK0 : List Word :=
  [0x428a2f98#32, 0x71374491#32, 0xb5c0fbcf#32, 0xe9b5dba5#32, 0x3956c25b#32, 0x59f111f1#32, 0x923f82a4#32, 0xab1c5ed5#32,
   0xd807aa98#32, 0x12835b01#32, 0x243185be#32, 0x550c7dc3#32, 0x72be5d74#32, 0x80deb1fe#32, 0x9bdc06a7#32, 0xc19bf174#32]
def shaK1 : List Word :=
  [0xe49b69c1#32, 0xefbe4786#32, 0x0fc19dc6#32, 0x240ca1cc#32, 0x2de92c6f#32, 0x4a7484aa#32, 0x5cb0a9dc#32, 0x76f988da#32,
   0x983e5152#32, 0xa831c66d#32, 0xb00327c8#32, 0xbf597fc7#32, 0xc6e00bf3#32, 0xd5a79147#32, 0x06ca6351#32, 0x14292967#32]
def shaK2 : List Word :=
  [0x27b70a85#32, 0x2e1b2138#32, 0x4d2c6dfc#32, 0x53380d13#32, 0x650a7354#32, 0x766a0abb#32, 0x81c2c92e#32, 0x92722c85#32,
   0xa2bfe8a1#32, 0xa81a664b#32, 0xc24b8b70#32, 0xc76c51a3#32, 0xd192e819#32, 0xd6990624#32, 0xf40e3585#32, 0x106aa070#32]
def shaK3 : List Word :=
  [0x19a4c116#32, 0x1e376c08#32, 0x2748774c#32, 0x34b0bcb5#32, 0x391c0cb3#32, 0x4ed8aa4a#32, 0x5b9cca4f#32, 0x682e6ff3#32,
   0x748f82ee#32, 0x78a5636f#32, 0x84c87814#32, 0x8cc70208#32, 0x90befffa#32, 0xa4506ceb#32, 0xbef9a3f7#32, 0xc67178f2#32]

/-- The eight words of the hash. -/
structure ShaState where
  a : Word
  b : Word
  c : Word
  d : Word
  e : Word
  f : Word
  g : Word
  h : Word
deriving DecidableEq, Repr

def shaInit : ShaState :=
  { a := 0x6a09e667#32, b := 0xbb67ae85#32, c := 0x3c6ef372#32, d := 0xa54ff53a#32
    e := 0x510e527f#32, f := 0x9b05688c#32, g := 0x1f83d9ab#32, h := 0x5be0cd19#32 }

/-- The next word of the message schedule; the newest word stands first. -/
def shaNext (w : List Word) : Word :=
  let x := w.getD 1 0
  let y := w.getD 14 0
  (x.rotateRight 17 ^^^ x.rotateRight 19 ^^^ (x >>> 10)) + w.getD 6 0
    + (y.rotateRight 7 ^^^ y.rotateRight 18 ^^^ (y >>> 3)) + w.getD 15 0

/-- The 64 words of a block's schedule. -/
def shaSchedule (block : List Word) : List Word :=
  ((List.range 48).foldl (fun w _ => shaNext w :: w) block.reverse).reverse

/-- One round. -/
def shaRound (s : ShaState) (k w : Word) : ShaState :=
  let t := s.h + (s.e.rotateRight 6 ^^^ s.e.rotateRight 11 ^^^ s.e.rotateRight 25) + ((s.e &&& s.f) ^^^ (~~~s.e &&& s.g)) + k + w
  let u := (s.a.rotateRight 2 ^^^ s.a.rotateRight 13 ^^^ s.a.rotateRight 22)
    + ((s.a &&& s.b) ^^^ (s.a &&& s.c) ^^^ (s.b &&& s.c))
  { a := t + u, b := s.a, c := s.b, d := s.c, e := s.d + t, f := s.e, g := s.f, h := s.g }

/-- One block of 16 words. -/
def shaBlock (s : ShaState) (block : List Word) : ShaState :=
  let r := ((shaK0 ++ shaK1 ++ shaK2 ++ shaK3).zip (shaSchedule block)).foldl (fun x p => shaRound x p.1 p.2) s
  { a := s.a + r.a, b := s.b + r.b, c := s.c + r.c, d := s.d + r.d
    e := s.e + r.e, f := s.f + r.f, g := s.g + r.g, h := s.h + r.h }

/-- A message with its padding and length. -/
def shaPad (m : List Byte) : List Byte :=
  m ++ [0x80#8] ++ List.replicate ((119 - m.length % 64) % 64) 0#8 ++ beBytes 8 (8 * m.length)

/-- The words of block `k`. -/
def shaWords (bs : List Byte) (k : Nat) : List Word :=
  (List.range 16).map (fun i => BitVec.ofNat 32 (beNat ((bs.drop (64 * k + 4 * i)).take 4)))

/-- The 32 bytes of the digest. -/
def sha256 (m : List Byte) : List Byte :=
  let p := shaPad m
  let r := (List.range (p.length / 64)).foldl (fun s k => shaBlock s (shaWords p k)) shaInit
  [r.a, r.b, r.c, r.d, r.e, r.f, r.g, r.h].flatMap (fun w => beBytes 4 w.toNat)

/-! ## RSASSA-PSS (PKCS #1), with a 3,072-bit modulus and a salt of 32 bytes (R541) -/

/-- MGF1 over SHA-256: `n` bytes of mask. -/
def mgf1 (seed : List Byte) (n : Nat) : List Byte :=
  ((List.range (ceilDiv n 32)).flatMap (fun i => sha256 (seed ++ beBytes 4 i))).take n

/-- `x` to the power 65,537 modulo `n`: sixteen squarings and one multiplication. -/
def powF4 (x n : Nat) : Nat := ((List.range 16).foldl (fun y _ => y * y % n) (x % n)) * x % n

/-- The encoded message `em` of 384 bytes is that of a message with this digest: the trailer, the zero bits, the padding
and the hash. -/
def pssOk (digest em : List Byte) : Bool :=
  let masked := em.take 351
  let h := (em.drop 351).take 32
  let db := (List.zipWith (· ^^^ ·) masked (mgf1 h 351)).zipIdx.map (fun p => if p.2 = 0 then p.1 &&& 0x7F#8 else p.1)
  decide (em.getLast? = some 0xBC#8) && decide ((masked.getD 0 0).toNat < 128)
    && decide (db.take 318 = List.replicate 318 0#8) && decide (db.getD 318 0 = 1#8)
    && decide (sha256 (List.replicate 8 0#8 ++ digest ++ db.drop 319) = h)

/-- The signature of a message with this digest under the modulus `n`. -/
def signatureOk (n : Nat) (digest sig : List Byte) : Bool :=
  decide (beNat sig < n) && pssOk digest (beBytes 384 (powF4 (beNat sig) n))

/-! ## A staged image (R540, R541) -/

/-- BODY_SIZE of the header of an image at `a`. -/
def State.bodySize (s : State) (a : Nat) : Nat := numAt s.mem (a + 10) 4

/-- The bytes of a staged image: BODY_SIZE of its header and the fixed parts around it. -/
def State.imageSize (s : State) (a : Nat) : Nat := 1408 + s.bodySize a

/-- FORMAT, BODY_SIZE, the exponent and the range of steps. -/
def State.imageFormatOk (s : State) (a : Nat) : Bool :=
  let b := s.bodySize a
  let step := s.ident.silicon.toNat
  decide (numAt s.mem a 1 = 1) && decide (b % 64 = 0) && decide (64 ≤ b) && decide (b ≤ 31455872)
    && decide (numAt s.mem (a + 512 + b + 384) 4 = 65537)
    && decide (numAt s.mem (a + 8) 1 ≤ step) && decide (step ≤ numAt s.mem (a + 9) 1)

/-- What the device reads of a staged image as it hashes it (R541, R543, log 15). -/
def State.readImage (s : State) (a : Nat) : ImageInfo :=
  let key := a + 512 + s.bodySize a
  let digest := sha256 (Memory.gets s.mem a (1024 + s.bodySize a))
  { version := BitVec.ofNat 32 (numAt s.mem (a + 2) 4)
    security := BitVec.ofNat 16 (numAt s.mem (a + 6) 2)
    abi := BitVec.ofNat 16 (numAt s.mem (a + 14) 2)
    abiMin := BitVec.ofNat 16 (numAt s.mem (a + 16) 2)
    formatOk := s.imageFormatOk a
    keyOk := decide (sha256 (Memory.gets s.mem key 384) = leBytes 32 Config.vendorKey.toNat)
    sigOk := signatureOk (numAt s.mem key 384) digest (Memory.gets s.mem (key + 512) 384)
    digest := BitVec.ofNat 256 (leNat digest)
    size := s.imageSize a }

end Sys2Proof.Machine
end

