-- ==== Sys2Proof/Machine/Firmware.lean ====
section
/-!
DEFINITION. Firmware and attestation (R540 to R556): updates, their verification, handover, confirmation and commit,
RECOVERY's image, the bytes of a ledger record, and attestation reports.
-/
namespace Sys2Proof.Machine

/-! ## Updates (R543 to R549) -/

/-- An update ends with a result, which is counted and recorded (R536, R545). -/
def endUpdate (code : Nat) (s : State) : State :=
  ((s.count 0x600F (4 + code) (if code = 0 then clsNone else clsFailed)).modBoot (fun b => { b with
    fw := .idle, fwCores := 0, fwResult := BitVec.ofNat 8 code, staged := none })).queueLedger

/-- A write of FW_UPDATE: the image is read as it stands now (R543, log 15). -/
def wFwUpdate (a : Nat) (s : State) : WriteRes :=
  if a % 64 ≠ 0 ∨ !s.inBufBulk a 512 ∨ !s.inBufBulk a (s.imageSize a) then (abRange, s)
  else if s.boot.fw ≠ .idle ∨ s.transition ∨ s.boot.st = .booting then (abBusy, s)
  else (0, s.modBoot (fun b => { b with fw := .verifying, fwCores := 0, staged := some (s.readImage a) }))

def execFwUpdate (m : Master) (addr : DWord) (s : State) : Result :=
  entryWrite m 0x8000 16 8 addr.toNat (wFwUpdate addr.toNat) s

/-- What verification finds: 0, or the result of R545, in the order of the steps of R541. Handover formats matter only where
an image takes over (R544, R550). -/
def State.verdict (s : State) (i : ImageInfo) (handover : Bool) : Nat :=
  let r := s.boot.running
  if !i.keyOk then 2 else if !i.formatOk then 1 else if !i.sigOk then 3
  else if i.security < s.boot.floor then 4
  else if handover ∧ !(decide (i.abiMin ≤ r.abi) && decide (r.abiMin ≤ i.abi)) then 5
  else 0

/-- FW_VERIFY_END. -/
def execFwVerifyEnd (s : State) : Result :=
  .next (match s.boot.staged with
    | none => s
    | some img =>
      if s.boot.fw ≠ .verifying ∨ s.boot.st ≠ .serving then s
      else
        let c := s.verdict img true
        if c = 0 then s.modBoot (fun b => { b with fw := .handingOver, fwCores := 0 }) else endUpdate c s)

/-- A core runs the new image; with the fourth, every core does (R544). -/
def handCore (s : State) : State :=
  if s.boot.fw ≠ .handingOver then s
  else if s.boot.fwCores < 3 then s.modBoot (fun b => { b with fwCores := b.fwCores + 1 })
  else s.modBoot (fun b => { b with
    fw := .confirming, fwCores := 4, fwSince := s.clk.ticks, running := b.staged.getD b.running })

/-- The cores that run the new image reload the old one; when one of them fails too the device restarts with RESET_CAUSE 6
(R547). -/
def revertCores (revertFails : Bool) (s : State) : State :=
  if s.boot.fw ≠ .handingOver then s
  else if revertFails then restartB0 (deviceReset 6 none true false s)
  else endUpdate 6 s

/-- A write of FW_CONFIRM. -/
def wFwConfirm (v : Nat) (s : State) : WriteRes :=
  if v ≠ 1 then (abRange, s)
  else if s.boot.fw ≠ .confirming then (abBusy, s)
  else (0, s.modBoot (fun b => { b with fw := .committing }))

def execFwConfirm (m : Master) (value : BitVec 8) (s : State) : Result :=
  entryWrite m 0x8000 19 1 value.toNat (wFwConfirm value.toNat) s

/-- FW_CONFIRM_TIME_EXPIRY. -/
def execFwConfirmTimeExpiry (s : State) : Result :=
  .next (if s.boot.fw = .confirming then
      (s.toTick (s.boot.fwSince + s.ent? 0x8000 18 * 25000000)).modBoot (fun b => { b with fw := .committing })
    else s)

/-- The image is committed whole: it raises the floor, and clears IMAGE_LOST (R542, R549). -/
def Boot.commitImage (b : Boot) (i : ImageInfo) : Boot :=
  { b with committed := i, imageLost := false, floor := if b.floor < i.security then i.security else b.floor }

/-- An image is committed to the FIRMWARE partition in one transaction of its pages of 16 KiB (R380, R548). -/
def State.writeImage (s : State) (i : ImageInfo) : State :=
  (s.runTx { part := .firmware, item := s.nextId, blocks := [], twins := [], pages := 0, committed := false, data := .firmware }
    (ceilDiv i.size 16384)).modBoot (fun b => b.commitImage i)

/-- FW_COMMIT_END: after a failed commit the cores keep the new image, and the next start runs the old one (R548). No page is
programmed while a rail is in warning (R394). -/
def execFwCommitEnd (ok : Bool) (s : State) : Result :=
  .next (if s.boot.fw ≠ .committing ∨ s.mediaHeld then s
    else if ok then endUpdate 0 (s.writeImage (s.boot.staged.getD s.boot.committed))
    else endUpdate 7 s)

/-- RECOVERY: verification of the host's image ends; a valid one is committed and the device restarts with RESET_CAUSE 5
(R550). -/
def execRecovery (s : State) : Result :=
  .next (match s.boot.staged with
    | none => s
    | some img =>
      if s.boot.st ≠ .recovery ∨ s.boot.fw ≠ .verifying ∨ s.mediaHeld then s
      else
        let c := s.verdict img false
        if c = 0 then restartB0 (deviceReset 5 none true true (s.writeImage img).queueLedger.flushStore)
        else endUpdate c s)

/-- FW_STATE codes (R557). -/
def FwState.code : FwState → Nat
  | .idle => 0
  | .verifying => 1
  | .handingOver => 2
  | .confirming => 3
  | .committing => 4

/-- FW_STATE (R557). -/
def Boot.fwStateVal (b : Boot) : Nat :=
  b.fw.code + bits b.fwCores 0 3 * 2 ^ 3 + b.fwResult.toNat * 2 ^ 8 + b2n b.imageLost * 2 ^ 16

/-! ## Ledger records (R534) -/

/-- The 64 bytes of a record. -/
def Ledger.bytes (r : Ledger) : List Byte :=
  leBytes 64 (r.startNum.toNat + r.cause.toNat * 2 ^ 32 + r.rail.toNat * 2 ^ 40 + r.streak.toNat * 2 ^ 44
    + (r.results.zipIdx.foldl (fun v p => v + p.1.toNat * 8 ^ p.2) 0) * 2 ^ 48 + r.altUsed.toNat * 2 ^ 84
    + (match r.first with | some k => k.val * 2 ^ 96 + 2 ^ 100 | none => 0)
    + b2n r.unconf * 2 ^ 101 + b2n r.recLoad * 2 ^ 102 + r.detail.toNat * 2 ^ 128 + r.bootMs.toNat * 2 ^ 160
    + r.seconds.toNat * 2 ^ 192 + r.version.toNat * 2 ^ 224)

/-! ## Attestation (R551 to R556) -/

/-- CASC_STRAPS (R433). -/
def State.cascStraps (s : State) : Nat :=
  let p := s.pwr.straps
  p.id.toNat + p.rank.toNat * 2 ^ 5 + b2n p.head * 2 ^ 8 + b2n p.stby * 2 ^ 9

/-- MY_ROLE (R433). -/
def State.myRole (s : State) : Nat :=
  s.casc.role.toNat + b2n s.casc.roleV * 2 ^ 5 + (s.roleOf s.me).epoch.toNat * 2 ^ 16

/-- Bytes 0 to 223 of a report (R553). -/
def State.reportBody (s : State) : List Byte :=
  let b := s.boot
  leBytes 2 1 ++ leBytes 2 608 ++ leBytes 8 s.ident.identity.toNat ++ leBytes 4 b.running.version.toNat
    ++ leBytes 2 b.running.security.toNat ++ leBytes 2 b.floor.toNat ++ leBytes 1 s.ident.silicon.toNat
    ++ leBytes 1 (b2n s.ident.extended) ++ leBytes 2 s.cascStraps ++ leBytes 4 s.myRole ++ leBytes 4 s.clk.powered
    ++ leBytes 4 b.attCount.toNat ++ leBytes 4 b.fwStateVal ++ leBytes 24 0 ++ b.attNonce
    ++ leBytes 32 b.running.digest.toNat ++ b.present.bytes
    ++ leBytes 32 (if b.fw = .confirming then b.running.digest.toNat else 0)

/-- A write of ATT_REQUEST (R552). -/
def wAttRequest (v : Nat) (s : State) : WriteRes :=
  if v ≠ 1 then (abRange, s)
  else if s.boot.attState = 1 ∨ s.boot.attState = 3 then (abBusy, s)
  else (0, s.modBoot (fun b => { b with attState := 1 }))

def execAttRequest (m : Master) (value : BitVec 8) (s : State) : Result :=
  entryWrite m 0x8000 33 1 value.toNat (wAttRequest value.toNat) s

/-- ATT_REPORT_DONE: the report is built and signed; during a handover it waits (R553, R554). -/
def execAttReportDone (s : State) : Result :=
  .next (if s.boot.attState ≠ 1 ∨ s.boot.fw = .handingOver then s
    else
      let t := (s.modBoot (fun b => { b with attCount := b.attCount + 1 })).addCnt 0x600F 14 1
      let body := t.reportBody
      (t.modBoot (fun b => { b with
        attState := 2, attReport := body ++ (List.range 384).map (Config.signature s.freeIx body) })).takeFree)

end Sys2Proof.Machine
end

