-- ==== Sys2Proof/Machine/Errors.lean ====
section
/-!
DEFINITION. Fatal events, counters and hold-back (R558 to R578): the writes of the counters and of the hold-back entries,
and what the expiry of a hold's timer does to each kind of held operation.
-/
namespace Sys2Proof.Machine

/-! ## Fatal events (R560) -/

/-- FATAL_EVENT: causes 1 to 5; the others are not used. A device that a fatal event has stopped waits for reset. -/
def execFatalEvent (cause detail : BitVec 8) (s : State) : Result :=
  .next (if s.boot.stopped ∨ cause = 0 ∨ 5 < cause.toNat then s
    else s.goFatal cause.toNat (if cause = 5 then detail.toNat else 0))

/-! ## Counters (R561, R562) -/

/-- A write of a counter: 0 clears it and its hidden remainder. -/
def wCounter (i j v : Nat) (s : State) : WriteRes :=
  if v ≠ 0 then (abRange, s)
  else (0, { s with cnt := tset zeroNat s.cnt (ekey i j) 0, cntRem := tset zeroNat s.cntRem (ekey i j) 0 })

/-- An entry that is a counter. -/
def isCounter (i j : Nat) : Bool := decide (0x6001 ≤ i) && decide (i ≤ 0x6010) && (findRow i j).isSome

/-- A write of COUNTERS_CLEAR. -/
def wCountersClear (v : Nat) (s : State) : WriteRes :=
  if v = 1 then (0, { s with cnt := [], cntRem := [] }) else (abRange, s)

def execCountersClear (m : Master) (value : BitVec 8) (s : State) : Result :=
  entryWrite m 0x6000 2 1 value.toNat (wCountersClear value.toNat) s

/-! ## Hold-back entries (R574, R576) -/

/-- A write of HOLD_BACK_TIMEOUT: it applies to holds already running, whose expiry compares with it. -/
def wHoldBackTimeout (v : Nat) (s : State) : WriteRes :=
  if v < 100 ∨ 10000000 < v then (abRange, s) else (0, s.setEnt 0x6000 1 v)

def execHoldBackTimeoutWrite (m : Master) (value : Word) (s : State) : Result :=
  entryWrite m 0x6000 1 4 value.toNat (wHoldBackTimeout value.toNat) s

/-- A write of HOLD_LONGEST: 0 clears it. -/
def wHoldLongest (v : Nat) (s : State) : WriteRes := if v = 0 then (0, { s with holdMax := 0 }) else (abRange, s)

def execHoldLongestClear (m : Master) (value : Word) (s : State) : Result :=
  entryWrite m 0x6000 4 4 value.toNat (wHoldLongest value.toNat) s

/-! ## Expiry (R575) -/

/-- The moment at which a timer expires: HOLD_BACK_TIMEOUT after its start, or now. The timeout is counted; its class
is told by the record or failure that follows (R559). -/
def expire (start : Nat) (s : State) : State := (s.toTick (start + s.holdTicks)).addCnt 0x6010 2 1

/-- A phase operation: one that waits for an UNAVAILABLE address runs without the members that name one now, whatever
becomes of the address (R56); one that waits for a supply or a clock completes its lines missing. -/
def expirePhaseOp (o : PhaseOp) (s : State) : State :=
  let lost := s.lostMembers o
  let t := if o.stage = .waiting ∧ lost ≠ [] then
      ((s.noteHold o.hold).countLate o s.clk.cycle).modOp o.id (fun p => { p with
        leftOut := p.leftOut ++ lost, hold := none, late := none })
    else
      let u := abortOp (if o.stage = .waiting then s.formed o else o) false s
      (if s.warned then u else u.setIdle o.allArrays).settle
  (t.opFailed o.ctx o.job o.opTag 1).settleHalt

/-- The descriptor in transfer completes HELD_TIMEOUT (R492); an answer to its remote access no longer counts. -/
def expireDescriptor (s : State) : State :=
  match s.dma.run with
  | none => s
  | some r =>
    let t := match r.tag with
      | some g => s.modCasc (fun c => { c with remote := c.remote.filter (fun x => decide (x.tag ≠ g)) })
      | none => s
    dmaFail 6 ((dmaUnhold t).modRun (fun x => { x with tag := none, data := none }))

/-- The address of a scalar access. -/
def ScalarOp.addr : ScalarOp → Nat
  | .ld _ a | .st a _ => a
  | _ => 0

/-- A scalar LD or ST ends with a bus error (R165), and its job with OP_FAILED. -/
def expireScalar (a : ScalarAccess) (s : State) : State :=
  let t := endAccess a s
  let u := t.raiseExc { t.slotRec a.ctx causeBus 0 with addr := a.op.addr, job := a.job }
  (u.opFailed a.ctx a.job 0 1).settleHalt

/-- A matrix task that waits for held bytes: what it has not read is taken as +0, as for an unusable block (R266). -/
def expireMatrix (x : MatTask) (s : State) : State :=
  let t := s.noteHold x.hold
  let t1 := if x.header = HeaderRead.unread then t.modEng (fun e => { e with tablePending := e.tablePending - 1 }) else t
  let y := { x with hold := none, header := match x.header with | .unread => .failed | h => h, hdrAt := t.clk.cycle }
  let lost : Fetched := { ent := none, data := none, guarded := false, came := t.clk.cycle }
  let z := { y with got := y.got ++ List.replicate (y.plan.length - y.got.length) lost }
  let u := putTasks x.slot [z] t1
  let v := u.modEng (fun e => { e with
    mrun := modBy (fun w => decide (w.id = x.id)) (fun w => { w with failed := x.failed }) e.mrun })
  (v.opFailed x.ctx x.job x.d.opTag 1).settleHalt

/-- A remote access that no DMA descriptor made ends as failed (R410). -/
def expireRemote (r : Remote) (s : State) : State :=
  let t := endRemote r false [] s
  match r.who with | .master .host => t | _ => t.addClass clsFailed

/-- HOLD_BACK_EXPIRY. -/
def execHoldBackExpiry (op : HeldOp) (s : State) : Result :=
  .next (match op with
    | .phaseOp id =>
      match s.getOp id with
      | some o => match o.hold with | some t => expirePhaseOp o (expire t s) | none => s
      | none => s
    | .descriptor =>
      match s.dma.run with
      | some r => match r.hold with | some t => expireDescriptor (expire t s) | none => s
      | none => s
    | .scalar =>
      match s.seq.access with
      | some a => match a.hold with | some t => expireScalar a (expire t s) | none => s
      | none => s
    | .remote tag =>
      match s.casc.remote.find? (fun r => decide (r.tag = tag)) with
      | some r => match r.hold with | some t => expireRemote r (expire t s) | none => s
      | none => s
    | .matrix id =>
      match s.eng.mrun.find? (fun x => decide (x.id = id)) with
      | some x => match x.hold with | some t => expireMatrix x (expire t s) | none => s
      | none => s)

end Sys2Proof.Machine
end

