-- ==== Sys2Proof/Machine/Dictionary.lean ====
section
/-!
DEFINITION. The object dictionary (R453 to R467): what every entry reads, what a write of every entry does, the fixed
order of the checks of a request, the memory window, and the commands that are whole dictionary requests; with them the
ends of the moves that hold requests (R461, R462).
-/
namespace Sys2Proof.Machine

/-! ## What the fixed-size entries read -/

/-- Two bits per domain of R514, for `n` domains from `lo`. -/
def State.domBits (s : State) (lo n : Nat) : Nat :=
  (List.range n).foldl (fun v i => v + (match s.dom (lo + i) with | .off => 0 | .waking => 1 | .on => 2) * 4 ^ i) 0

/-- DOMAIN_STATE_k: 148 domains; the unused bits read zero. -/
def State.domainState (s : State) (k : Nat) : Nat := s.domBits (32 * k) (min 32 (148 - 32 * k))

/-- UNIT_POWER_STATE (R251): domains 112 to 133. -/
def State.unitPowerState (s : State) : Nat := s.domBits 112 22

/-- An INTEGER16 as its bits. -/
def int16 (x : Int) : Nat := (x % 2 ^ 16).toNat

/-- SPARES_FREE_MIN (R86). -/
def State.sparesFreeMin (s : State) : Nat :=
  (List.range 64).foldl (fun m b =>
    min m ((bankArrays b).filter (fun n => decide ((s.array n).st = .idle) && !(s.array n).mapped)).length) 264

/-- The mapped arrays. -/
def State.mappedArrays (s : State) : List Nat := allArrays.filter (fun n => (s.array n).mapped)

/-- AGE_MAX and WIDE_GROUPS (R124). -/
def State.ageMax (s : State) : Nat := s.mappedArrays.foldl (fun m n => max m (s.ageIndex n)) 0
def State.wideGroups (s : State) : Nat :=
  (s.mappedArrays.map (fun n => (groups.filter (fun g => setWide (s.activeSet n g))).length)).sum

/-- The SEQ_STATE codes (R182). -/
def SeqState.code : SeqState → Nat
  | .halted => 0
  | .running => 1
  | .idle => 2
  | .stalled => 3
  | .faultHalted => 4

/-- T1_LINK (R467). -/
def FieldNet.t1Link (n : FieldNet) : Nat := b2n n.link + b2n n.master * 2 + n.sqi.toNat * 4

/-- PCIE_LINK (R497); each training after the first is a retraining (log 117). -/
def Pcie.linkVal (p : Pcie) : Nat :=
  (if p.up then 1 + p.gen * 2 + p.width * 16 else 0) + min (p.trained - 1) 255 * 256

/-- PORT_STATE (R433). -/
def Port.val (p : Port) : Nat :=
  (match p.st with | .down => 0 | .training => 1 | .up => 2 | .quarantine => 3) + p.lanes * 2 ^ 3 + b2n p.slow * 2 ^ 7
    + p.peerRole.toNat * 2 ^ 8 + p.peerPort.toNat * 2 ^ 13 + p.delay.toNat * 2 ^ 16 + p.retrains.toNat * 2 ^ 24

/-- A system map entry (R401). -/
def MapRole.val (e : MapRole) : Nat :=
  (match e.st with | .vacant => 0 | .active => 1 | .standby => 2 | .dead => 3)
    + (if e.st = .active then e.rank.toNat else 0) * 2 ^ 2 + b2n e.master * 2 ^ 5 + b2n e.head * 2 ^ 6
    + e.epoch.toNat * 2 ^ 16 + e.serial.toNat * 2 ^ 32

/-- RANK_SIZE and CHAIN_RANKS (R433). -/
def State.rankSizeVal (s : State) : Nat := if (s.roleOf s.casc.role.toNat).st = .active then s.rankSize else 0
def State.chainRanks (s : State) : Nat :=
  max 1 (((List.range 32).filter (fun r => decide ((s.roleOf r).st = .active))).map
    (fun r => (s.roleOf r).rank)).eraseDups.length

/-- NAND_CONFIG (R396). -/
def Media.nandConfig (m : Media) : Nat := m.targets + m.nandIf * 2 ^ 8 + m.nandRate * 2 ^ 10 + m.cellType * 2 ^ 22

/-- The highest of a list. -/
def maxOf (l : List Nat) : Nat := l.foldl max 0

/-- The window address of a master (R463). -/
def State.windowAddr (s : State) (m : Master) : Nat :=
  match s.net.window.find? (fun p => decide (p.1 = m)) with
  | some p => p.2
  | none => 0

def State.setWindow (s : State) (m : Master) (a : Nat) : State :=
  s.modNet (fun n => { n with window := (if a = 0 then [] else [(m, a)]) ++ n.window.filter (fun p => decide (p.1 ≠ m)) })

/-- Areas 0x1000 to 0x1200 (R467). -/
def State.readNet (s : State) (m : Master) (i j : Nat) : Nat :=
  if i = 0x1000 then
    match j with
    | 2 => b2n s.ident.extended
    | 3 => s.ident.identity.toNat
    | 4 => s.ident.silicon.toNat
    | 5 => s.boot.running.version.toNat
    | _ => s.clk.powered % 2 ^ 32
  else if i = 0x1100 then
    match j with
    | 2 => s.net.t1Link
    | 4 => s.ident.mac.toNat
    | 11 => s.net.sess.length
    | _ => s.ent? i j
  else s.windowAddr m

/-- Area 0x2000 (R528). -/
def State.readPower (s : State) (j : Nat) : Nat :=
  if 32 ≤ j then s.domainState (j - 32)
  else
    match j with
    | 1 => s.pwr.mode
    | 3 => s.modeEffective
    | 4 => s.clk.enable.toNat
    | 5 => s.clockState
    | 6 => (s.domClk 0).written.toNat
    | 7 => (s.domClk 1).written.toNat
    | 8 => (s.domClk 2).written.toNat
    | 9 => (s.domClk 3).written.toNat
    | 10 => s.switchState
    | 11 => s.clk.outSel.toNat
    | 12 => s.clk.faults.toNat
    | 13 => s.clk.lanternHz.toNat
    | 16 => s.pwr.warn.toNat
    | 17 => s.pwr.latched.toNat
    | 18 => int16 s.tempLogicMax
    | 22 => s.pwr.wakeCause.toNat
    | _ => s.ent? 0x2000 j

/-- Areas 0x3000 to 0x3200 (R86, R124, R396). -/
def State.readArrays (s : State) (i j : Nat) : Nat :=
  if i = 0x3000 then
    match j with
    | 1 => s.ceiling
    | 3 => arrayBase
    | 4 => s.sparesFreeMin
    | 5 => marginBase
    | _ => s.ent? i j
  else if i = 0x3100 then
    match j with
    | 4 => s.arr.replanned
    | 7 => s.ageMax
    | 8 => int16 s.tempMax
    | 9 => s.wideGroups
    | _ => s.ent? i j
  else
    match j with
    | 2 => s.awr.ws.length
    | 3 => min 0xFFFF (maxOf (s.arr.phys.map (fun p => p.2.erases)))
    | _ => s.libraryFree

/-- Areas 0x4100 to 0x4400 (R182, R251, R276, R319). -/
def State.readCompute (s : State) (i j : Nat) : Nat :=
  if i = 0x4100 then
    match j with
    | 2 => s.seq.st.code
    | 4 => s.seq.pc.toNat
    | 7 => ibufBase
    | 8 => syncBase
    | 9 => excBase
    | 10 => s.seq.excHead.toNat
    | 11 => s.clk.cycle % 2 ^ 64
    | _ => s.ent? i j
  else if i = 0x4200 then
    if j = 4 then s.unitPowerState
    else if 16 ≤ j then (match tget noImage s.eng.sect (j - 16) with | some x => x.id.toNat | none => 0)
    else s.ent? i j
  else if i = 0x4300 then (if j = 3 then min 0xFFFF s.eng.tablePending else s.ent? i j)
  else if i = 0x4301 then
    match tget noTable s.eng.tables (j - 1) with
    | some t => t.tver.toNat + t.refs % 2 ^ 16 * 2 ^ 8
    | none => 0
  else
    match j with
    | 1 => streamBase
    | 2 => s.clk.ticks % 2 ^ 64
    | 3 => s.streamEnable.toNat
    | 8 => s.str.missHead.toNat
    | _ => s.ent? i j

/-- Areas 0x4500 to 0x511F (R356, R396, R497). -/
def State.readMemory (s : State) (i j : Nat) : Nat :=
  if i = 0x4500 then
    match j with
    | 1 => objectBase
    | 2 => tileMapBase
    | 3 => s.mig.bulkSize
    | 4 => if s.media.deepLost then 0 else s.mig.deepSize
    | 6 => s.mig.recs.length
    | _ => s.ent? i j
  else if i = 0x4511 then s.usage ((j - 1) / 4) ((j - 1) % 4)
  else if i = 0x4600 then
    match j with
    | 1 => s.storeSpare
    | 2 => maxOf (s.media.blk.map (fun p => p.2.erases))
    | 3 => s.media.nandConfig
    | 8 => s.deepSpare
    | 9 => b2n s.media.roDeep
    | _ => s.ent? i j
  else if i = 0x5100 then
    match j with
    | 1 => s.pcie.linkVal
    | 4 => s.ident.pcieIds.toNat
    | 7 => s.dma.cqHead
    | 8 => s.dma.cqTail
    | 9 => b2n s.dma.cqOn
    | _ => s.ent? i j
  else if 0x5110 ≤ i ∧ i ≤ 0x511F then
    match j with
    | 1 => b2n (decide ((s.chan (i - 0x5110)).st = .enabled))
    | 7 => (s.chan (i - 0x5110)).head
    | 8 => (s.chan (i - 0x5110)).tail
    | 9 => s.chState (i - 0x5110)
    | _ => s.ent? i j
  else s.ent? i j

/-- Areas 0x6000 to 0x8000 (R433, R557, R578). -/
def State.readSystem (s : State) (i j : Nat) : Nat :=
  if i = 0x6000 then
    match j with
    | 3 => s.saturated
    | 4 => s.holdMax % 2 ^ 32
    | 5 => s.boot.fatal.toNat
    | _ => s.ent? i j
  else if i ≤ 0x6010 then s.cnt? i j
  else if i = 0x7000 then
    if 16 ≤ j then (s.port (j - 16)).val
    else
      match j with
      | 1 => s.cascStraps
      | 2 => s.myRole
      | 3 => s.rankSizeVal
      | 4 => s.chainRanks
      | 9 => s.rankCycle % 2 ^ 64
      | _ => s.ent? i j
  else if i = 0x7001 then (s.roleOf (j - 1)).val
  else if i = 0x7002 then (if s.casc.isHead then (s.casc.bars.getD (j - 1) 0).toNat else 0)
  else
    match j with
    | 1 => (match s.boot.st with | .booting => 0 | .serving => 1 | .recovery => 2)
    | 5 => s.boot.alt.toNat
    | 17 => s.boot.fwStateVal
    | 20 => s.boot.floor.toNat
    | 34 => s.boot.attState
    | _ => s.ent? i j

/-- The value of an entry of a fixed-size type. -/
def State.readNat (s : State) (m : Master) (i j : Nat) : Nat :=
  if j = 0 then highestSub i
  else if i < 0x2000 then s.readNet m i j
  else if i < 0x3000 then s.readPower j
  else if i < 0x4000 then s.readArrays i j
  else if i < 0x4500 then s.readCompute i j
  else if i < 0x6000 then s.readMemory i j
  else s.readSystem i j

/-- The bytes of an ASCII string. -/
def strBytes (t : String) : List Byte := t.toList.map (fun c => BitVec.ofNat 8 c.toNat)

/-- The bytes of a VISIBLE_STRING or DOMAIN entry; WINDOW_DATA is read through the window. -/
def State.readBytes (s : State) (i j : Nat) : List Byte :=
  if i = 0x1000 then
    if j = 7 then strBytes "Kelpenum Silicon" else strBytes (if s.ident.extended then "SPX-GK16-A" else "SPX-GK16-C")
  else
    match j with
    | 2 => s.boot.present.bytes
    | 4 => (match s.boot.find (s.ent? 0x8000 3) with | some r => r.bytes | none => List.replicate 64 0)
    | 21 => leBytes 32 s.boot.running.digest.toNat
    | 32 => s.boot.attNonce
    | 35 => if s.boot.attReport = [] then List.replicate 608 0 else s.boot.attReport
    | _ => Config.certificate.take 4096

/-- The limit of a DOMAIN entry (R455, R463, R557). -/
def domainLimit (i j : Nat) : Nat :=
  if i = 0x1200 then 4096
  else
    match j with
    | 2 | 4 => 64
    | 21 | 32 => 32
    | 35 => 608
    | _ => 4096

/-! ## Plain settings -/

/-- A setting takes a value in its range, or answers OUT_OF_RANGE (R467 and its like). -/
def putSetting (i j v : Nat) (ok : Bool) (s : State) : WriteRes := if ok then (0, s.setEnt i j v) else (abRange, s)

def inRange (lo hi v : Nat) : Bool := decide (lo ≤ v) && decide (v ≤ hi)

/-- Area 0x1100 (R467). -/
def wNetSetting (j v : Nat) (s : State) : WriteRes :=
  putSetting 0x1100 j v (match j with
    | 3 => decide (v ≤ 7) && decide (v ≠ 3)
    | 5 => inRange 0x0600 0xFFFF v && !([0x0800, 0x0806, 0x86DD, 0x8100, 0x88A8].contains v)
    | 6 => decide (v ≤ 1)
    | 7 => decide (v ≠ 0xFFFFFFFF) && decide (v / 2 ^ 28 ≠ 14)
    | 8 => inRange 1024 65535 v
    | _ => inRange 1 1000 v) s

/-- Areas 0x3000 and 0x3100 (R86, R124). -/
def wArraySetting (i j v : Nat) (s : State) : WriteRes :=
  putSetting i j v (if i = 0x3000 then inRange 2 4096 v
    else match j with
      | 1 => inRange 1 3600 v
      | 2 => inRange 2 40 v
      | 3 => inRange 32 128 v
      | 5 => inRange 100 50000 v
      | _ => inRange 60 3600 v) s

/-- Area 0x4100 (R182). -/
def wSeqSetting (j v : Nat) (s : State) : WriteRes :=
  putSetting 0x4100 j v (match j with
    | 3 => true
    | 5 => decide (v ≤ 1)
    | _ => decide (v = 0) || inRange 100 10000000 v) s

/-- GUARD_BASE and GUARD_SIZE (R272, R276). -/
def wGuard (j v : Nat) (s : State) : WriteRes :=
  let base := if j < 20 then bits v 0 48 else s.ent? 0x4300 (j - 4)
  let size := if j < 20 then s.ent? 0x4300 (j + 4) else v
  putSetting 0x4300 j (if j < 20 then base else size)
    (decide (base % 0x400000 = 0) && decide (size % 0x400000 = 0) && decide (base + size ≤ 2 ^ 48)) s

/-- Shares that are each 1 or more and sum to 16 (R302, R414). -/
def sharesOk (v n : Nat) : Bool :=
  let l := (List.range n).map (fun k => bits v (4 * k) 4)
  l.all (fun x => decide (1 ≤ x)) && decide (l.sum = 16)

/-- Area 0x4400 (R319). -/
def wStreamSetting (j v : Nat) (s : State) : WriteRes :=
  match j with
  | 4 => putSetting 0x4400 j v (inRange 1 1000 v) s
  | 5 => putSetting 0x4400 j v (inRange 1 10000 v) s
  | _ => putSetting 0x4400 j (bits v 0 12) (sharesOk v 3) s

/-- A present home lies outside the pool of a tier. -/
def State.outsidePool (s : State) (t : Nat) : Bool :=
  let p := s.pool t
  (s.objects.flatMap (fun o => s.homesOf o.2 t)).any (fun i => !(decide (p.1 ≤ i) && decide (i < p.1 + p.2)))

/-- Pool entries (R340). -/
def wPool (j v : Nat) (s : State) : WriteRes :=
  let t := (j - 6) / 2
  let span := s.tierSpan t
  let u := s.setEnt 0x4500 j v
  let base := u.ent? 0x4500 (6 + 2 * t)
  let size := u.ent? 0x4500 (7 + 2 * t)
  if base % tileSize ≠ 0 ∨ size % tileSize ≠ 0 ∨ base < span.1 ∨ span.1 + span.2 < base + size then (abRange, s)
  else if u.outsidePool t then (abBusy, s)
  else (0, u)

/-- Area 0x4600 (R396). -/
def wMediaSetting (j v : Nat) (s : State) : WriteRes :=
  putSetting 0x4600 j v (match j with
    | 4 => inRange 200 2400 v
    | 5 => inRange 1000 10000000 v
    | _ => inRange 50 2000 v) s

/-- Area 0x7000 (R433). -/
def wCascSetting (j v : Nat) (s : State) : WriteRes :=
  putSetting 0x7000 j v (match j with
    | 5 => inRange 4096 1048576 v
    | 6 => inRange 1 10000 v
    | 7 => inRange 10 100000 v
    | _ => sharesOk v 2) s

/-! ## Writes with an effect of their own -/

/-- T1_ROLE (R435): answered first; then the link drops, and the PHY retrains in the new role. -/
def wT1Role (m : Master) (v : Nat) (s : State) : WriteRes :=
  if 2 < v then (abRange, s)
  else (abLater, (t1Down ((s.setEnt 0x1100 1 v).answer m 0 tU8 svcWrite [])).modNet (fun n => { n with
    master := if v = 0 then n.strapMs else decide (v = 1) }))

/-- STORE_SETTINGS (R456): the present values of the Stored entries wait to be committed to the MEDIA partition as one
transaction, whose commit answers the write. -/
def storeSettings (m : Master) (s : State) : State :=
  (s.modMedia (fun x => { x with
    waiting := x.waiting ++ [{
      part := .media, item := s.nextId, blocks := [], twins := [], pages := 0, committed := false
      data := .settings (storedKeys.foldl (fun t k => tset entDefault t k (tget entDefault s.ent k)) []) (some m) }] })).takeId

def wStoreSettings (m : Master) (v : Nat) (s : State) : WriteRes := if v = 1 then (abLater, storeSettings m s) else (abRange, s)

/-- WAKE_SOURCES (R528): bit 2 reads 1. -/
def wWakeSources (v : Nat) (s : State) : WriteRes := putSetting 0x2000 21 (v ||| 4) (decide (v < 8)) s

/-- WINDOW_ADDR (R463). -/
def wWindowAddr (m : Master) (v : Nat) (s : State) : WriteRes :=
  if v < 2 ^ 48 then (0, s.setWindow m v) else (abRange, s)

/-- ATT_NONCE (R552, R557): 32 bytes. -/
def wNonce (data : List Byte) (s : State) : WriteRes :=
  if data.length = 32 then (0, s.modBoot (fun b => { b with attNonce := data })) else (abRange, s)

/-- An aperture (R473): the reserved bits read zero. -/
def wAperture (j v : Nat) (s : State) : WriteRes := (0, s.setEnt 0x5101 j (bits v 0 26 + bits v 31 1 * 2 ^ 31))

/-! ## Every write -/

def writePower (m : Master) (j v : Nat) (s : State) : WriteRes :=
  match j with
  | 1 => wMode m v s
  | 2 => putSetting 0x2000 2 v (decide (v ≤ 3)) s
  | 4 => wClockEnable v s
  | 6 => wClkSrc m 0 v s
  | 7 => wClkSrc m 1 v s
  | 8 => wClkSrc m 2 v s
  | 9 => wClkSrc m 3 v s
  | 11 => wClkOut v s
  | 12 => wClockFault v s
  | 17 => wSupplyLatched v s
  | 20 => wCascPower v s
  | _ => wWakeSources v s

def writeNet (m : Master) (i j v : Nat) (s : State) : WriteRes :=
  if i = 0x1200 then wWindowAddr m v s
  else
    match j with
    | 1 => wT1Role m v s
    | 10 => wStoreSettings m v s
    | _ => wNetSetting j v s

def writeArrays (i j v : Nat) (s : State) : WriteRes :=
  if i = 0x3200 then wArrayWrite v s else if i = 0x3100 ∧ j = 10 then wReplanNow v s else wArraySetting i j v s

def writeCompute (m : Master) (i j v : Nat) (s : State) : WriteRes :=
  if i = 0x4100 then (if j = 1 then wSeqControl v s else wSeqSetting j v s)
  else if i = 0x4200 then wUnitPower (match j with | 1 => .slice | 2 => .vectorSection | _ => .rotation) v s
  else if i = 0x4300 then
    match j with
    | 1 => wTableLoad v s
    | 2 => wTableFree v s
    | _ => wGuard j v s
  else if j = 3 then wStreamEnable m (BitVec.ofNat 16 v) s
  else wStreamSetting j v s

def writeMemory (i j v : Nat) (s : State) : WriteRes :=
  if i = 0x4500 then
    match j with
    | 5 => wMoveSubmit v s
    | 7 => putSetting 0x4500 7 v (inRange 100 10000000 v) s
    | _ => wPool j v s
  else if i = 0x4510 then (0, s.setEnt i j v)
  else if i = 0x4600 then (if j = 6 then wDeepTrim v s else wMediaSetting j v s)
  else if i = 0x5100 then
    match j with
    | 2 => putSetting i j v (inRange 1 5 v) s
    | 3 => putSetting i j v ([1, 2, 4, 8].contains v) s
    | 7 => wCqHead v s
    | 9 => wCqEnable v s
    | 10 => wCqSetting 10 (v &&& 0xBF) s
    | _ => wCqSetting j v s
  else if i = 0x5101 then wAperture j v s
  else
    match j with
    | 1 => wChEnable (i - 0x5110) v s
    | 8 => wChTail (i - 0x5110) v s
    | _ => wChSetting (i - 0x5110) j v s

def writeSystem (m : Master) (i j v : Nat) (s : State) : WriteRes :=
  if i = 0x6000 then
    match j with
    | 1 => wHoldBackTimeout v s
    | 2 => wCountersClear v s
    | _ => wHoldLongest v s
  else if i ≤ 0x6010 then wCounter i j v s
  else if i = 0x7000 then
    match j with
    | 10 => wRoleAssign v s
    | 11 => wDeclareDead v s
    | _ => wCascSetting j v s
  else
    match j with
    | 3 => wLedgerIndex v s
    | 6 => wAltClear v s
    | 7 => wRestart m v s
    | 16 => wFwUpdate v s
    | 18 => putSetting 0x8000 18 v (inRange 1 600 v) s
    | 19 => wFwConfirm v s
    | _ => wAttRequest v s

/-- A write of a fixed-size entry that its checks let through (R455 step 4). -/
def writeNat (m : Master) (i j v : Nat) (s : State) : WriteRes :=
  if i < 0x2000 then writeNet m i j v s
  else if i < 0x3000 then writePower m j v s
  else if i < 0x4000 then writeArrays i j v s
  else if i < 0x4500 then writeCompute m i j v s
  else if i < 0x6000 then writeMemory i j v s
  else writeSystem m i j v s

/-! ## The memory window (R463, R464, R550) -/

/-- A read or write of WINDOW_DATA: whether it is answered, not while its tier waits or a tile's last copy holds the
write. -/
def windowTry (m : Master) (r : DictReq) (write : Bool) (s : State) : Bool × State :=
  let a := s.windowAddr m
  let n := if write then r.data.length else r.want
  let svc := if write then svcWrite else svcRead
  if n = 0 then (true, s.answer m 0 tDom svc [])
  else if 2 ^ 48 < a + n then (true, s.answer m abPath tDom svc [])
  else if s.boot.st = .recovery ∧ !inBuffer a n then (true, s.answer m abGated tDom svc [])
  else
    match (if write then s.pathWrite m a r.data none true else s.pathRead m a n) with
    | .done t d => (true, (t.setWindow m (a + n)).answer m 0 tDom svc d)
    | .fails => (true, s.answer m abPath tDom svc [])
    | .gated => (true, s.answer m abGated tDom svc [])
    | .waits => (false, s)
    | .held t => (false, t)

/-! ## A whole request (R455, R459) -/

/-- The first breach of R455 up to step 3, or 0. -/
def breach (s : State) (m : Master) (r : DictReq) (write : Bool) (w : Row) : Nat :=
  let i := r.index.toNat
  let j := r.sub.toNat
  let size := typeSize w.typ
  let len := if write then r.data.length else r.want
  if !s.entryOpen i j then abGated
  else if r.type ≠ 0 ∧ r.type.toNat ≠ w.typ then abType
  else if m = .bundle ∧ size = none then abType
  else if write ∧ size.isSome ∧ size ≠ some r.data.length then abType
  else if w.typ = tStr ∧ write ∧ 64 < r.data.length then abType
  else if w.typ = tDom ∧ domainLimit i j < len then abType
  else if write ∧ w.acc = .r then abReadOnly
  else if !write ∧ w.acc = .w then abWriteOnly
  else 0

/-- The row of subindex 0 (R453). -/
def rowZero (i : Nat) : Row := row1 i 0 tU8 .r

/-- Which of NO_ENTRY and NO_SUBINDEX a missing row gives. -/
def rowOf (i j : Nat) : Option Row := if j = 0 ∧ indexExists i then some (rowZero i) else findRow i j

/-- What a request that no breach stops does, and whether it is answered or waits (log 30). -/
def serveEntry (m : Master) (r : DictReq) (write : Bool) (w : Row) (s : State) : Bool × State :=
  let i := r.index.toNat
  let j := r.sub.toNat
  if i = 0x1200 ∧ j = 2 then windowTry m r write s
  else if write then
    if w.typ = tDom then (true, answerWrite m w.typ (wNonce r.data s))
    else (true, answerWrite m w.typ (writeNat m i j (leNat r.data) s))
  else
    (true, s.answer m 0 w.typ svcRead (match typeSize w.typ with
      | some n => leBytes n (s.readNat m i j)
      | none => if w.typ = tStr then s.readBytes i j else (s.readBytes i j).take r.want))

/-- One request, in the order of R455, and whether it is answered. -/
def decideRequest (m : Master) (r : DictReq) (write : Bool) (s : State) : Bool × State :=
  let i := r.index.toNat
  let svc := if write then svcWrite else svcRead
  match rowOf i r.sub.toNat with
  | none => (true, s.answer m (if indexExists i then abNoSub else abNoEntry) 0 svc [])
  | some w =>
    let c := breach s m r write w
    if c ≠ 0 then (true, s.answer m c w.typ svc []) else serveEntry m r write w s

/-- A request whose turn has come: unanswered before B4 (R529), held during a move or a handover (R461, R462), behind an
earlier one of its master (R459), or decided. -/
def serveRequest (m : Master) (r : DictReq) (write : Bool) (s : State) : State :=
  if !s.answers then s
  else if s.umbraMove ∨ s.coreHolds then holdRequest m r write s
  else if s.behind m then waitRequest m r write s
  else
    let t := decideRequest m r write s
    if t.1 then t.2 else waitRequest m r write t.2

/-- Requests that waited are taken in arrival order, as if they arrived now (R461, R462). -/
def runHeld (s : State) : State :=
  s.net.held.foldl (fun t h => serveRequest h.1 h.2.1 h.2.2 t) (s.modNet (fun n => { n with held := [] }))

/-- A request arrives: requests that still wait for a tier are tried first. -/
def dictRequest (m : Master) (r : DictReq) (write : Bool) (s : State) : State :=
  serveRequest m r write (if s.umbraMove ∨ s.coreHolds then s else runHeld s)

/-! ## Commands -/

/-- READ (R443). -/
def execRead (m : Master) (r : DictReq) (s : State) : Result := .next (dictRequest m r false s)

/-- WRITE (R443). -/
def execWrite (m : Master) (r : DictReq) (s : State) : Result := .next (dictRequest m r true s)

/-- DICTIONARY_WRITE: a write of one entry by a master, of any type. -/
def execDictionaryWrite (m : Master) (index : BitVec 16) (sub : BitVec 8) (data : List Byte) (s : State) : Result :=
  .next (dictRequest m { index := index, sub := sub, type := 0, want := 0, data := data } true s)

/-- A request for WINDOW_DATA that reaches another address, with other bytes (R504). -/
def alteredWindow (m : Master) (r : DictReq) (write : Bool) (s : State) : State :=
  let a := s.windowAddr m
  let n := if write then r.data.length else r.want
  let t := dictRequest m { r with data := s.freeBytes r.data.length } write
    ((s.takeFrees (1 + r.data.length)).setWindow m s.freeAddr)
  t.setWindow m (if t.windowAddr m = s.freeAddr then a else a + n)

/-- A request for WINDOW_DATA. -/
def windowRequest (m : Master) (r : DictReq) (write : Bool) (s : State) : Result :=
  crossing (s.ratios (.core 0) (s.windowAddr m)) s (dictRequest m r write) (alteredWindow m r write)

/-- WINDOW_DATA_READ. -/
def execWindowDataRead (m : Master) (n : Nat) (s : State) : Result :=
  windowRequest m { index := 0x1200, sub := 2, type := 0, want := n, data := [] } false s

/-- WINDOW_DATA_WRITE. -/
def execWindowDataWrite (m : Master) (data : List Byte) (s : State) : Result :=
  windowRequest m { index := 0x1200, sub := 2, type := 0, want := 0, data := data } true s

/-- STORE_SETTINGS. -/
def execStoreSettings (m : Master) (value : BitVec 8) (s : State) : Result :=
  .next (dictRequest m { index := 0x1100, sub := 10, type := 0, want := 0, data := [value] } true s)

/-- T1_ROLE_WRITE. -/
def execT1RoleWrite (m : Master) (value : BitVec 8) (s : State) : Result :=
  .next (dictRequest m { index := 0x1100, sub := 1, type := 0, want := 0, data := [value] } true s)

/-- COUNTER_CLEAR: a write of a counter (R561). -/
def execCounterClear (m : Master) (index : BitVec 16) (sub : BitVec 8) (value : BitVec 16) (s : State) : Result :=
  .next (dictRequest m { index := index, sub := sub, type := 0, want := 0, data := leBytes 2 value.toNat } true s)

/-! ## The ends of what holds requests (R461, R462, R521, R522, R544, R547) -/

/-- Once a master's write is answered, the requests that waited behind it are taken (R567). -/
def takeFreed (s t : State) : State :=
  if t.net.held.any (fun h => s.awaits h.1 && !t.awaits h.1) ∧ !t.umbraMove ∧ !t.coreHolds then runHeld t else t

/-- MODE_CHANGE_APPLIED: at most 100 us after the write (R520). -/
def execModeChangeApplied (s : State) : Result := .next (takeFreed s (modeApplied s))

/-- CLK_RAMP_STEP. -/
def execClkRampStep (clk : Fin 4) (s : State) : Result := .next (takeFreed s (clkRampStep clk.val s))

/-- RING_CREDIT: an answer to a waiting enable or to a new bind, or slots that the receiver frees (R413, R424). -/
def execRingCredit (port : Fin 4) (p : Pkt) (s : State) : Result :=
  .next (takeFreed s (recvPkt port.val ptRingCredit p [] (ringCredit p) s))

/-- RING_BIND_TIMEOUT: no answer within 100 us refuses the enable (R424). -/
def execRingBindTimeout (stream : BitVec 4) (s : State) : Result := .next (takeFreed s (ringBindTimeout stream.toNat s))

/-- UMBRA_ENTRY_END: the last step of the entry; a latched wake event starts one wake, else the held requests are taken. -/
def execUmbraEntryEnd (s : State) : Result :=
  .next (if !s.pwr.entering ∨ !s.quiet then s
    else
      let t := s.enterUmbra
      if t.pwr.wakeLatch ≠ [] then startWake t.pwr.wakeLatch t else runHeld t)

/-- UMBRA_WAKE_END: the mode is entered, and the held requests are taken in order. -/
def execUmbraWakeEnd (s : State) : Result :=
  .next (if s.pwr.waking ∧ s.dom 145 ≠ .off then runHeld s.leaveUmbra else s)

/-- CORE_HANDOVER: one core takes over; after core 0, the last, the requests it held are answered. -/
def execCoreHandover (s : State) : Result :=
  .next (let t := handCore s
    if s.coreHolds ∧ !t.coreHolds then runHeld t else t)

/-- CORE_HANDOVER_FAIL: the cores go back; requests held meanwhile are answered, unless the device restarts. -/
def execCoreHandoverFail (revertFails : Bool) (s : State) : Result :=
  .next (let t := revertCores revertFails s
    if s.coreHolds ∧ !t.coreHolds ∧ t.answers then runHeld t else t)

end Sys2Proof.Machine
end

