-- ==== Sys2Proof/Machine/Sessions.lean ====
section
/-!
DEFINITION. The field network and SDP (R434 to R452): the 1000BASE-T1 link, frames, sessions and sequence numbers,
reassembly, requests forwarded over the cascade, and the mailbox requests that wait for their target.
-/
namespace Sys2Proof.Machine

/-! ## The link (R434 to R436) -/

/-- The T1 port is powered, and neither its PLL nor the crystal is faulty (R510, R514). -/
def State.t1Live (s : State) : Bool :=
  decide (s.dom 147 = .on) && (s.pll 8).locked && !s.clk.faultNow.getLsbD 10 && !s.clk.faultNow.getLsbD 0

/-- T1_LINK_UP: two ends of the same role never link. -/
def execT1LinkUp (peerMaster : Bool) (sqi : BitVec 3) (s : State) : Result :=
  .next (if peerMaster = s.net.master ∨ !s.t1Live then s else s.modNet (fun n => { n with link := true, sqi := sqi }))

/-- T1_LINK_DOWN: frames in flight are lost, and no dictionary state changes. -/
def execT1LinkDown (s : State) : Result := .next (t1Down s)

/-! ## Sessions (R445 to R449) -/

/-- The next SEQ (R446). -/
def seqNext (n : Nat) : Nat := (n + 1) % 65536

/-- Raw frames to a source, without a tag, of the device's EtherType: of a segment that came in no frame of its own. -/
def State.plainEncap (s : State) (m : Master) : Encap :=
  { mac := match m with | .t1 src => src.truncate 48 | _ => 0, vlan := none, net := .raw (BitVec.ofNat 16 (s.ent? 0x1100 5)) }

/-- The entry that a segment's access header names: only segment 0 has one (R442). -/
def segEntry (g : Segment) : BitVec 16 × BitVec 8 :=
  if g.segIndex = 0 then
    let v := leNat (g.payload.take 8)
    (BitVec.ofNat 16 (bits v 0 16), BitVec.ofNat 8 (bits v 16 8))
  else (0, 0)

/-- An abort that no session stores. -/
def directAbort (m : Master) (via : Via) (g : Segment) (code : Nat) (s : State) : State :=
  let e := segEntry g
  sendAnswer m via g.seq.toNat e.1 e.2 { service := 0, abort := code, type := entryType e.1.toNat e.2.toNat, data := [] }
    (s.count 0x600C 7 clsFailed)

/-- SEQUENCE (R447). -/
def seqAbort (m : Master) (via : Via) (g : Segment) (s : State) : State :=
  directAbort m via g abSequence (s.count 0x600C 4 clsFailed)

/-- A session is idle when LAST has been answered. -/
def Session.idle (x : Session) : Bool := x.answered && x.reasm.isNone

def newSession (m : Master) (via : Via) : Session :=
  { master := m, last := 0, answered := true, index := 0, sub := 0, answer := none, reasm := none, used := 0, via := via }

/-- The idle session used least recently. -/
def oldestIdle (l : List Session) : Option Session :=
  (l.filter Session.idle).foldl (fun b x =>
    match b with
    | none => some x
    | some y => if x.used < y.used then some x else b) none

/-- A session of the master with no earlier state, its WINDOW_ADDR 0 (R463); none when all 32 are taken and none is
idle. Requests of the earlier session that wait are dropped with it. -/
def openSession (m : Master) (via : Via) (s : State) : Option State :=
  let rest := s.net.sess.filter (fun x => decide (x.master ≠ m))
  let put := fun (l : List Session) (gone : List Master) => (s.dropAwaits (fun x => gone.contains x)).modNet (fun n => { n with
    sess := l ++ [newSession m via]
    window := n.window.filter (fun p => !gone.contains p.1) })
  if rest.length < 32 then some (put rest [m])
  else
    match oldestIdle rest with
    | some y => some (put (rest.filter (fun x => decide (x.master ≠ y.master))) [m, y.master])
    | none => none

/-- A request becomes LAST. -/
def acceptSeq (m : Master) (via : Via) (seq : Nat) (s : State) : State :=
  (s.modSession m (fun x => { x with
    last := seq, answered := false, answer := none, reasm := none, index := 0, sub := 0, via := via,
    used := s.net.clockUse + 1 })).modNet (fun n => { n with clockUse := n.clockUse + 1 })

/-! ## Reassembly (R442, R444, R466) -/

/-- TARGET as a segment carries it. -/
def targetByte (g : Segment) : Nat := g.target.toNat + b2n g.targetV * 2 ^ 7

/-- Bytes of message data in a request: only a WRITE carries any (R443). -/
def Reasm.dataLen (r : Reasm) : Nat := if r.service = 2 then r.total else 0

/-- The payload bytes that R444 gives segment `i`. -/
def Reasm.partLen (r : Reasm) (i : Nat) : Nat := if i + 1 < r.count then 240 else 8 + r.dataLen - 240 * (r.count - 1)

def noPart : Nat → List Byte := fun _ => []

/-- The segments held agree with R444; before segment 0 has come only the length of a segment that is not the last is
known. -/
def Reasm.sound (r : Reasm) : Bool :=
  decide (r.count ≠ 0) && decide (r.count ≤ 18)
    && r.parts.all (fun p => decide (p.1 < r.count) && decide (p.2.length ≠ 0) && decide (p.2.length ≤ 240)
      && (decide (p.1 + 1 = r.count) || decide (p.2.length = 240)))
    && (decide (tget noPart r.parts 0 = []) || (decide (r.dataLen ≤ 4096) && decide (r.count = segsFor r.dataLen)
      && r.parts.all (fun p => decide (p.2.length = r.partLen p.1))))

/-- A segment joins a request: none where it disagrees with those held. -/
def Reasm.join (r : Reasm) (g : Segment) : Option Reasm :=
  let i := g.segIndex.toNat
  let total := bits (leNat (g.payload.take 8)) 32 32
  if g.segCount.toNat ≠ r.count ∨ targetByte g ≠ r.target ∨ g.payload = [] ∨ r.count ≤ i then none
  else if tget noPart r.parts i ≠ [] then
    (if (i = 0 ∧ total ≠ r.total) ∨ g.payload.length ≠ (tget noPart r.parts i).length then none else some r)
  else
    let q := { r with parts := tset noPart r.parts i g.payload }
    let v := leNat (g.payload.take 8)
    let q' := if i = 0 then
        { q with service := g.service, index := BitVec.ofNat 16 (bits v 0 16), sub := BitVec.ofNat 8 (bits v 16 8),
                 type := BitVec.ofNat 8 (bits v 24 8), total := bits v 32 32 }
      else q
    if q'.sound then some q' else none

/-- Every segment is there. -/
def Reasm.whole (r : Reasm) : Bool := (List.range r.count).all (fun i => decide (tget noPart r.parts i ≠ []))

/-- The request of a whole reassembly. -/
def Reasm.request (r : Reasm) : DictReq :=
  { index := r.index, sub := r.sub, type := r.type, want := if r.service = 2 then 0 else r.total,
    data := ((List.range r.count).flatMap (fun i => tget noPart r.parts i)).drop 8 }

/-- The reassembly that the first segment of a request begins. -/
def State.freshReasm (s : State) (g : Segment) : Reasm :=
  { seq := g.seq.toNat, count := g.segCount.toNat, target := targetByte g, total := 0, service := g.service, index := 0, sub := 0,
    type := 0, parts := [], since := s.clk.ticks }

/-- A segment that is a whole request by itself. -/
def State.wholeAlone (s : State) (g : Segment) : Bool := match (s.freshReasm g).join g with | some q => q.whole | none => false

/-- The present request of a session ends in an abort, which is stored; its answer names the entry `e` (R442, R448). -/
def endRequest (m : Master) (e : BitVec 16 × BitVec 8) (code : Nat) (s : State) : State :=
  (s.modSession m (fun x => { x with reasm := none, index := e.1, sub := e.2 })).answer m code (entryType e.1.toNat e.2.toNat)
    svcRead []

/-- A request ends in SEGMENT or RESOURCES, and is dropped (R444). -/
def dropReasm (m : Master) (e : BitVec 16 × BitVec 8) (code : Nat) (s : State) : State :=
  endRequest m e code (s.count 0x600C 5 clsFailed)

/-- The entry of a request: as its segment 0 named it, or as this segment does. -/
def Reasm.entry (r : Reasm) (g : Segment) : BitVec 16 × BitVec 8 :=
  if tget noPart r.parts 0 ≠ [] then (r.index, r.sub) else segEntry g

/-- A segment goes to the reassembly of its request; the request is taken when it is whole (R459). A CANCEL with nothing to cancel
is answered CANCELLED (R450, log 56). -/
def putSegment (m : Master) (r : Reasm) (g : Segment) (s : State) : State :=
  match r.join g with
  | none => dropReasm m (r.entry g) abSegment s
  | some q =>
    if q.whole then
      (if q.service = 3 then endRequest m (q.index, q.sub) abCancelled s
       else dictRequest m q.request (decide (q.service = 2))
        (s.modSession m (fun x => { x with reasm := none, index := q.index, sub := q.sub })))
    else s.modSession m (fun x => { x with reasm := some q })

/-- Requests in reassembly. -/
def State.reassemblies (s : State) : Nat := (s.net.sess.filter (fun x => x.reasm.isSome)).length

/-- A segment that cannot be part of a request: another SERVICE, or another VERSION (R443). -/
def badService (g : Segment) : Bool := decide (g.version ≠ 1) || decide (g.service = 0) || decide (3 < g.service.toNat)

/-- The first segment of a new request; one of a SERVICE or VERSION that is not known is answered SERVICE (R443, R448). -/
def newRequest (m : Master) (via : Via) (g : Segment) (s : State) : State :=
  let t := acceptSeq m via g.seq.toNat s
  if badService g then endRequest m (segEntry g) abService t
  else if 32 ≤ t.reassemblies ∧ g.segCount ≠ 1 then dropReasm m (segEntry g) abResources t
  else putSegment m (s.freshReasm g) g t

/-- A CANCEL of a request still in reassembly (R450). -/
def State.cancels (s : State) (x : Session) (g : Segment) : Bool :=
  decide (g.service = 3) && s.wholeAlone g && (match x.reasm with | some r => decide (r.seq = g.seq.toNat) | none => false)

/-- The stored answer is sent again, and counted (R447). -/
def sendDuplicate (x : Session) (via : Via) (s : State) : State :=
  match x.answer with
  | some a => sendAnswer x.master via x.last x.index x.sub a (s.addCnt 0x600C 2 1)
  | none => s.addCnt 0x600C 2 1

/-- A segment of a master that has a session (R447, R450). One of an unknown SERVICE joins no request. -/
def sessionSegment (x : Session) (via : Via) (g : Segment) (s : State) : State :=
  let m := x.master
  let n := g.seq.toNat
  if s.cancels x g then endRequest m (match x.reasm with | some r => r.entry g | none => segEntry g) abCancelled s
  else if n = x.last then
    if x.answered then sendDuplicate x via s
    else if badService g then directAbort m via g abService s
    else match x.reasm with
      | some r => putSegment m r g s
      | none => s
  else if n = seqNext x.last then
    if x.answered then newRequest m via g s else s.addCnt 0x600C 3 1
  else if badService g then directAbort m via g abService s
  else seqAbort m via g s

/-- SYNC = 1 drops the session's earlier state, but for the further segments of the same request (R444, R447). -/
def syncSegment (m : Master) (via : Via) (g : Segment) (s : State) : State :=
  match s.session m with
  | some x =>
    if !x.answered ∧ x.last = g.seq.toNat then sessionSegment x via g s
    else match openSession m via s with
      | some t => newRequest m via g t
      | none => directAbort m via g abResources s
  | none =>
    match openSession m via s with
    | some t => newRequest m via g t
    | none => directAbort m via g abResources s

/-- A segment for this device (R443, R447). -/
def takeSegment (m : Master) (via : Via) (g : Segment) (s : State) : State :=
  if !s.answers then s
  else if g.sync then syncSegment m via g s
  else
    match s.session m with
    | some x => sessionSegment x via g s
    | none => if badService g then directAbort m via g abService s else seqAbort m via g s

/-! ## Forwarding (R451, R452) -/

/-- The field network source slot of a source: its own, a new one, or one that is used again. -/
def sourceSlot (src : BitVec 64) (s : State) : Nat × State :=
  match s.net.sources.findIdx? (fun x => decide (x = src)) with
  | some i => (i, s)
  | none =>
    if s.net.sources.length < 32 then (s.net.sources.length, s.modNet (fun n => { n with sources := n.sources ++ [src] }))
    else
      let i := s.net.clockUse % 32
      (i, s.modNet (fun n => { n with sources := setAt n.sources i src, clockUse := n.clockUse + 1 }))

/-- The ARG of R451. -/
def dictArg (role kind number : Nat) : Nat := role + kind * 2 ^ 5 + number * 2 ^ 8

/-- A whole write of Umbra to MODE (R523). -/
def writesUmbra (g : Segment) : Bool :=
  decide (g.service = 2) && decide (g.payload = accessHeader 0x2000 1 (g.payload.getD 3 0).toNat 1 ++ [4])

/-- The forwarded request of a master to a role. -/
def State.fwdOf (s : State) (m : Master) (role : Nat) : Option Fwd :=
  s.net.fwd.find? (fun f => decide (f.master = m) && decide (f.role = role))

/-- The record of a forwarded request: the one of the same SEQ, with its time begun again and its answer awaited anew, or a new
one, counted. -/
def noteFwd (m : Master) (enc : Encap) (role : Nat) (g : Segment) (s : State) : Fwd × State :=
  let others := s.net.fwd.filter (fun f => !(decide (f.master = m) && decide (f.role = role)))
  let e := segEntry g
  match (s.fwdOf m role).filter (fun f => decide (f.seq = g.seq.toNat)) with
  | some f =>
    let q := { f with
      enc := enc, since := s.clk.ticks, got := false, umbra := f.umbra || writesUmbra g
      index := if g.segIndex = 0 then e.1 else f.index, sub := if g.segIndex = 0 then e.2 else f.sub }
    (q, s.modNet (fun n => { n with fwd := others ++ [q] }))
  | none =>
    let q : Fwd := { tag := BitVec.ofNat 16 s.nextId, enc := enc, master := m, role := role, seq := g.seq.toNat, index := e.1,
                     sub := e.2, since := s.clk.ticks, got := false, umbra := writesUmbra g, count := 0, parts := [] }
    (q, (s.takeId.modNet (fun n => { n with fwd := others ++ [q] })).addCnt 0x600C 6 1)

/-- KIND and NUMBER of a master, with the state in which a field network source has its slot (R451). -/
def masterKind (m : Master) (s : State) : (Nat × Nat) × State :=
  match m with
  | .t1 src => ((0, (sourceSlot src s).1), (sourceSlot src s).2)
  | .host | .mailbox _ => ((1, 0), s)
  | .core k => ((2, k.toNat), s)
  | .bundle => ((3, 0), s)
  | .peer a => ((bits a.toNat 5 3, bits a.toNat 8 5), s)

/-- The chain head forwards a segment unchanged; a role VACANT or DEAD answers NO_ROLE. -/
def forwardSegment (m : Master) (enc : Encap) (g : Segment) (s : State) : State :=
  let role := g.target.toNat
  if !s.rolePresent role then directAbort m { tag := 0, enc := enc } g abNoRole s
  else
    let a := masterKind m s
    let b := noteFwd m enc role g a.2
    b.2.send ptDict g.target 0 b.1.tag.toNat (dictArg b.2.casc.role.toNat a.1.1 a.1.2) (encSegment g)

/-- A segment names a role other than this device's own. -/
def State.elsewhere (s : State) (g : Segment) : Bool := g.targetV && !(s.casc.roleV && decide (g.target = s.casc.role))

/-- A segment that reaches the device on the field network, or from another master of its own. -/
def fieldSegment (m : Master) (enc : Encap) (g : Segment) (s : State) : State :=
  if s.elsewhere g then
    match m with
    | .peer _ => s
    | _ => if s.casc.isHead then forwardSegment m enc g s else s
  else takeSegment m { tag := 0, enc := enc } g s

/-- A test mode of the PHY stops what a master on the field network sends (R467). -/
def State.t1Stopped (s : State) (m : Master) : Bool := match m with | .t1 _ => decide (s.ent? 0x1100 3 ≠ 0) | _ => false

/-- SEGMENT_RECEIVE. -/
def execSegmentReceive (m : Master) (seg : Segment) (s : State) : Result :=
  .next (if s.t1Stopped m then s else fieldSegment m (s.plainEncap m) seg s)

/-- DICT: a segment from the device at which the request entered; KIND 4 to 7 are refused, and the reserved bits of ARG name
nothing (R451). -/
def execDict (port : Fin 4) (p : Pkt) (seg : Segment) (s : State) : Result :=
  .next (recvPkt port.val ptDict p (encSegment seg) (fun t =>
    if 4 ≤ bits p.arg.toNat 5 3 then discardPkt t
    else if t.elsewhere seg then t
    else takeSegment (.peer (p.arg &&& 0x1FFF)) { tag := p.rtag, enc := t.plainEncap (.peer p.arg) } seg t) s)

/-! ## Mailbox requests to other roles (R479) -/

/-- The access header and data of a mailbox request. -/
def Mailbox.len (b : Mailbox) : Nat := bits b.req.toNat 39 13
def Mailbox.write (b : Mailbox) : Bool := bit b.req.toNat 32
def Mailbox.request (b : Mailbox) : DictReq :=
  let v := b.req.toNat
  { index := BitVec.ofNat 16 (bits v 0 16), sub := BitVec.ofNat 8 (bits v 16 8), type := BitVec.ofNat 8 (bits v 24 8),
    want := if b.write then 0 else b.len, data := if b.write then Memory.gets b.data 0 b.len else [] }

/-- The segments of a mailbox request, to its target. -/
def Mailbox.segments (b : Mailbox) (sync : Bool) (seq : Nat) : List Segment :=
  let r := b.request
  let hdr := accessHeader r.index r.sub r.type.toNat (if b.write then r.data.length else r.want)
  (Machine.segments sync (if b.write then 2 else 1) seq hdr r.data).map (fun g =>
    { g with target := BitVec.ofNat 5 (bits b.req.toNat 33 5), targetV := true })

/-- The request of a mailbox leaves: KIND 1, NUMBER 0, and the next SEQ toward that role. -/
def sendMailbox (n role : Nat) (s : State) : State :=
  let k := tget zeroNat s.net.mbSeq role
  let l := (s.mb n).segments (decide (k = 0)) (k % 65536)
  let t := s.modNet (fun x => { x with mbSeq := tset zeroNat x.mbSeq role (k + 1) })
  let m : Master := .mailbox (BitVec.ofNat 3 n)
  l.foldl (fun u g =>
    let b := noteFwd m (u.plainEncap m) role g u
    b.2.send ptDict g.target 0 b.1.tag.toNat (dictArg b.2.casc.role.toNat 1 0) (encSegment g)) t

/-- A request of a mailbox is outstanding toward a role. -/
def State.mbBusy (s : State) (role : Nat) : Bool :=
  s.net.fwd.any (fun f => decide (f.role = role) && (match f.master with | .mailbox _ => true | _ => false))

/-- Waiting mailbox requests leave in the order of their MB_GO writes, one at a time toward each role. -/
def pumpMailboxes (s : State) : State :=
  s.net.mbWait.foldl (fun t w =>
    if t.mbBusy w.2 then t
    else
      let u := t.modNet (fun n => { n with mbWait := n.mbWait.filter (fun x => decide (x ≠ w)) })
      if t.rolePresent w.2 then sendMailbox w.1 w.2 u
      else u.answer (.mailbox (BitVec.ofNat 3 w.1)) abNoRole (u.mbType w.1) svcRead []) s

/-! ## Answers that come back (R451, R452, R523) -/

/-- The answer of a forwarded request, with the segment that has come. -/
def Fwd.join (f : Fwd) (g : Segment) : Fwd :=
  { f with got := true, count := g.segCount.toNat, parts := tset noPart f.parts g.segIndex.toNat g.payload }

def Fwd.whole (f : Fwd) : Bool := (List.range f.count).all (fun i => decide (tget noPart f.parts i ≠ []))

/-- The whole payload of an answer. -/
def Fwd.bytes (f : Fwd) : List Byte := (List.range f.count).flatMap (fun i => tget noPart f.parts i)

/-- The liveness test of a role that enters Umbra mode is suspended (R523). -/
def suspendRole (r : Nat) (s : State) : State :=
  s.modCasc (fun c => { c with suspended := if c.suspended.contains r then c.suspended else c.suspended ++ [r] })

/-- A segment of an answer goes to its master; a mailbox is answered once it is whole. -/
def deliverAnswer (f : Fwd) (g : Segment) (s : State) : State :=
  let q := f.join g
  let rest := s.net.fwd.filter (fun x => decide (x.tag ≠ f.tag))
  let t := s.modNet (fun n => { n with fwd := if q.whole then rest else rest ++ [q] })
  let u := if q.umbra ∧ q.whole ∧ g.service ≠ 0xC0 then suspendRole q.role t else t
  match f.master with
  | .mailbox n =>
    if !q.whole then u
    else
      let data := q.bytes.drop 8
      let abort := if g.service = 0xC0 then leNat (data.take 2) else 0
      pumpMailboxes (fillMailbox n.toNat abort (q.bytes.getD 3 0).toNat (if g.service = 0xC0 then [] else data) u)
  | m => u.sendFrame m f.enc g

/-- DICT_RSP: a segment of the answer to a forwarded request. -/
def execDictRsp (port : Fin 4) (p : Pkt) (seg : Segment) (s : State) : Result :=
  .next (recvPkt port.val ptDictRsp p (encSegment seg) (fun t =>
    match t.net.fwd.find? (fun f => decide (f.tag = p.rtag) && decide (f.role = p.src.toNat)) with
    | some f => deliverAnswer f seg t
    | none => t) s)

/-- FORWARD_TIMEOUT: no answer segment in REMOTE_TIMEOUT after the last request segment left. -/
def execForwardTimeout (m : Master) (role : BitVec 5) (s : State) : Result :=
  .next (match s.fwdOf m role.toNat with
    | some f =>
      if f.got then s else pumpMailboxes (abortFwd f abTimeout (s.toTick (f.since + usTicks (s.ent? 0x7000 7))))
    | none => s)

/-! ## CANCEL and SEG_TIMEOUT -/

/-- CANCEL (R450), as a segment of its own. -/
def execCancel (m : Master) (seq : BitVec 16) (s : State) : Result :=
  .next (if s.t1Stopped m then s else takeSegment m { tag := 0, enc := s.plainEncap m }
    { version := 1, sync := false, service := 3, seq := seq, segIndex := 0, segCount := 1, target := 0, targetV := false
      payload := List.replicate 8 0 } s)

/-- SEG_TIMEOUT: a request is not whole in time (R444). -/
def execSegTimeout (m : Master) (s : State) : Result :=
  .next (match (s.session m).bind (fun x => x.reasm) with
    | some r => dropReasm m (r.index, r.sub) abSegment (s.toTick (r.since + s.ent? 0x1100 9 * 25000))
    | none => s)

/-! ## Frames (R434, R437 to R439) -/

def broadcastMac : BitVec 48 := 0xFFFFFFFFFFFF#48

/-- A broadcast is answered only for a READ of areas 0x1000 and 0x1100 (R438). -/
def broadcastOk (g : Segment) : Bool :=
  decide (g.service = 1) && (decide ((segEntry g).1 = 0x1000) || decide ((segEntry g).1 = 0x1100))

/-- Whom a segment comes from, its encapsulation, and the segment. -/
abbrev Arrival := BitVec 64 × Encap × Segment

/-- A raw frame for this device (R437, R438); its source is the MAC address (R445). -/
def State.rawIn (s : State) (x : FrameIn) : Option Arrival :=
  if x.etype ≠ s.ent? 0x1100 5 ∨ (x.dst ≠ s.ident.mac ∧ x.dst ≠ broadcastMac) then none
  else match decSegment x.body with
    | some g =>
      if x.dst = broadcastMac ∧ !broadcastOk g then none
      else some (x.src.zeroExtend 64, { mac := x.src, vlan := x.vlan, net := .raw (BitVec.ofNat 16 x.etype) }, g)
    | none => none

/-- IPV4_ADDRESS. -/
def State.ip (s : State) : BitVec 32 := BitVec.ofNat 32 (s.ent? 0x1100 7)

/-- A UDP frame for this device (R439); its source is the IPv4 address and UDP port, with bit 63 set (R445). -/
def State.udpIn (s : State) (x : FrameIn) : Option Arrival :=
  if x.etype ≠ 0x0800 ∨ x.dst ≠ s.ident.mac ∨ s.ent? 0x1100 6 ≠ 1 ∨ s.ip = 0 then none
  else match ipData x.body 17 s.ip with
    | none => none
    | some d => match udpData d.1 s.ip d.2 (s.ent? 0x1100 8) with
      | none => none
      | some u => (decSegment u.2).map (fun g =>
          (BitVec.ofNat 64 (d.1.toNat + u.1.toNat * 2 ^ 32 + 2 ^ 63),
           { mac := x.src, vlan := x.vlan, net := .udp d.1 u.1 s.ip (BitVec.ofNat 16 (s.ent? 0x1100 8)) }, g))

/-- The device has this IPv4 address. -/
def State.hasIp (s : State) (ip : BitVec 32) : Bool := decide (ip = s.ip) && decide (ip ≠ 0)

/-- An ARP request is answered (R439). -/
def arpAnswer (vlan : Option (BitVec 16)) (mac : BitVec 48) (senderIp : BitVec 32) (s : State) : State :=
  s.emit (.frame (arpFrame s.ident.mac s.ip vlan mac senderIp))

/-- An ICMP echo request is answered (R439). -/
def echoAnswer (vlan : Option (BitVec 16)) (mac : BitVec 48) (senderIp : BitVec 32) (rest : List Byte) (s : State) : State :=
  s.emit (.frame (echoFrame s.ident.mac s.ip vlan mac senderIp rest))

/-- A frame that is no segment: an ARP or an ICMP echo request for IPV4_ADDRESS; any other is discarded and counted (R439). -/
def ipFrame (x : FrameIn) (s : State) : State :=
  if s.ip = 0 then s.addCnt 0x600C 1 1
  else if x.etype = 0x0806 ∧ (x.dst = s.ident.mac ∨ x.dst = broadcastMac) then
    match arpAsk x.body s.ip with
    | some a => arpAnswer x.vlan a.1 a.2 s
    | none => s.addCnt 0x600C 1 1
  else if x.etype = 0x0800 ∧ x.dst = s.ident.mac then
    match (ipData x.body 1 s.ip).bind (fun d => (echoRest d.2).map (fun r => (d.1, r))) with
    | some a => echoAnswer x.vlan x.src a.1 a.2 s
    | none => s.addCnt 0x600C 1 1
  else s.addCnt 0x600C 1 1

/-- FRAME_RECEIVE: the bytes of a frame, with the link up and no test mode; one that breaks the rules is discarded and counted. -/
def execFrameReceive (frame : List Byte) (s : State) : Result :=
  .next (if !s.net.link ∨ s.ent? 0x1100 3 ≠ 0 then s
    else match parseFrame frame with
      | none => s.addCnt 0x600C 1 1
      | some x => match (s.rawIn x).orElse (fun _ => s.udpIn x) with
        | some a => fieldSegment (.t1 a.1) a.2.1 a.2.2 s
        | none => ipFrame x s)

/-- ARP_REQUEST for IPV4_ADDRESS, in a frame without a tag. -/
def execArpRequest (mac : BitVec 48) (senderIp ip : BitVec 32) (s : State) : Result :=
  .next (if !s.net.link ∨ s.ent? 0x1100 3 ≠ 0 then s
    else if s.hasIp ip then arpAnswer none mac senderIp s else s.addCnt 0x600C 1 1)

/-- ICMP_ECHO to IPV4_ADDRESS, in a frame without a tag: `rest` is what follows its checksum. -/
def execIcmpEcho (mac : BitVec 48) (senderIp ip : BitVec 32) (rest : List Byte) (s : State) : Result :=
  .next (if !s.net.link ∨ s.ent? 0x1100 3 ≠ 0 then s
    else if s.hasIp ip then echoAnswer none mac senderIp rest s else s.addCnt 0x600C 1 1)

end Sys2Proof.Machine
end

