-- ==== Sys2Proof/Machine/PcieConfig.lean ====
section
/-!
DEFINITION. The configuration space of the two PCI Express functions (R468 to R473, R481): identifiers, class codes, BARs, power
states, Device Control, MSI-X, Advanced Error Reporting with ECRC, and the Device Serial Number. What R468 names is laid out as the
PCI Express Base Specification lays out its headers and capabilities; where the capabilities stand, and every byte that the
manual does not name, is the implementation's (log 130).
-/
namespace Sys2Proof.Machine

def PcieFn.ix (f : PcieFn) : Nat := match f with | .pf0 => 0 | .pf1 => 1

def State.cfg (s : State) (f : PcieFn) : PcieCfg := tget pcieCfgDefault s.pcie.fns (PcieFn.ix f)

def State.modCfg (s : State) (f : PcieFn) (g : PcieCfg → PcieCfg) : State :=
  s.modPcie (fun p => { p with fns := tmod pcieCfgDefault p.fns (PcieFn.ix f) g })

/-- A function is in D3hot. -/
def State.inD3 (s : State) (f : PcieFn) : Bool := match f with | .pf0 => s.pcie.d3 | .pf1 => s.pcie.d3b

/-- The class code: base class, subclass, programming interface (R468). -/
def classCode (f : PcieFn) : Nat := match f with | .pf0 => 0x120000 | .pf1 => 0x088000

/-- The payload of a request of this device at most, and what one read request asks for at most, in bytes: as the host writes them in
Device Control of PF0, up to 512 and 4,096 (R468, R469). -/
def State.maxPayload (s : State) : Nat := min 512 (128 * 2 ^ bits (s.cfg .pf0).devCtl.toNat 5 3)
def State.maxReadRequest (s : State) : Nat := min 4096 (128 * 2 ^ bits (s.cfg .pf0).devCtl.toNat 12 3)

/-- A request that a function does not support is answered so, and its Advanced Error Reporting notes it (R468). -/
def unsupported (f : PcieFn) (s : State) : State :=
  (s.modCfg f (fun c => { c with uncorr := c.uncorr ||| (1#32 <<< 20) })).emit .pcieUr

/-- The size of a BAR of a function, as a power of two, and its flags; PF1 has BAR0 alone (R472, R476). -/
def barSize (f : PcieFn) (two : Bool) : Nat := match f with | .pf0 => if two then 32 else 26 | .pf1 => if two then 64 else 16
def barFlags (f : PcieFn) (two : Bool) : Nat := if two then (match f with | .pf0 => 0xC | .pf1 => 0) else 4

/-- A BAR as it reads. -/
def barVal (f : PcieFn) (two : Bool) (v : DWord) : Nat := v.toNat / 2 ^ barSize f two * 2 ^ barSize f two + barFlags f two

/-- The fields of the configuration space: offset, width in bytes, value. -/
def State.cfgFields (s : State) (f : PcieFn) : List (Nat × Nat × Nat) :=
  let c := s.cfg f
  let ids := s.ident.pcieIds.toNat
  let bme := match f with | .pf0 => b2n s.pcie.bme | .pf1 => bits c.command.toNat 2 1
  [(0x00, 2, bits ids 0 16), (0x02, 2, match f with | .pf0 => bits ids 16 16 | .pf1 => bits ids 32 16),
   (0x04, 2, bits c.command.toNat 0 2 + bme * 4 + bits c.command.toNat 3 13 * 8),
   (0x09, 3, classCode f), (0x0E, 1, 0x80),
   (0x10, 8, barVal f false c.bar0), (0x18, 8, barVal f true c.bar2), (0x2E, 2, bits ids 48 16), (0x34, 1, 0x40),
   (0x40, 2, 0x7001), (0x44, 1, if s.inD3 f then 3 else 0),
   (0x70, 2, 0x10 + (match f with | .pf0 => 0xB000 | .pf1 => 0)), (0x74, 4, 2 + 2 ^ 5 + 2 ^ 28), (0x78, 2, c.devCtl.toNat),
   (0x82, 2, if s.pcie.up then s.pcie.gen + s.pcie.width * 16 else 0)]
  ++ (match f with
    | .pf0 => [(0xB0, 2, 0x11), (0xB2, 2, 63 + b2n s.pcie.fmask * 2 ^ 14 + b2n s.pcie.msixOn * 2 ^ 15), (0xB4, 4, 0x20000),
               (0xB8, 4, 0x21000)]
    | .pf1 => [])
  ++ [(0x100, 4, 1 + 2 * 2 ^ 16 + 0x150 * 2 ^ 20), (0x104, 4, c.uncorr.toNat), (0x108, 4, c.uncorrMask.toNat),
      (0x10C, 4, c.uncorrSev.toNat), (0x110, 4, c.corr.toNat), (0x114, 4, c.corrMask.toNat),
      (0x118, 4, 2 ^ 5 + b2n c.ecrcGen * 2 ^ 6 + 2 ^ 7 + b2n c.ecrcCheck * 2 ^ 8),
      (0x150, 4, 3 + 2 ^ 16), (0x154, 8, s.ident.identity.toNat)]

/-- A byte of the configuration space. -/
def State.cfgByte (s : State) (f : PcieFn) (a : Nat) : Byte :=
  match (s.cfgFields f).find? (fun x => decide (x.1 ≤ a) && decide (a < x.1 + x.2.1)) with
  | some x => BitVec.ofNat 8 (x.2.2 / 2 ^ (8 * (a - x.1)))
  | none => Config.pcieCfg (PcieFn.ix f) a

/-- `n` bytes of it. -/
def State.cfgRead (s : State) (f : PcieFn) (a n : Nat) : List Byte := (List.range n).map (fun i => s.cfgByte f (a + i))

end Sys2Proof.Machine
end

