-- ==== Sys2Proof/Machine/Pcie.lean ====
section
/-!
DEFINITION. The PCI Express port (R468 to R481, R493): resets, the link, BAR0 and BAR2 of both functions, writes of their
configuration space, mailboxes, doorbells, apertures and MSI-X.
-/
namespace Sys2Proof.Machine

/-! ## Resets and the link (R470, R471, R493) -/

/-- PERST: PERST#, a hot reset or link loss resets the port. -/
def execPerst (s : State) : Result := .next (if s.pcie.up then pcieDown s else resetPort s)

/-- A Function Level Reset of PF0 resets what PF0 owns (R469), and it leaves Bus Master Enable at 0. -/
def resetPf0 (s : State) : State :=
  let t := resetQueues (dropApertures (dropMailboxes 0 4 (dropHostChans s)))
  t.modPcie (fun p => { Pcie.reset with
    up := p.up, gen := p.gen, width := p.width, trained := p.trained, d3b := p.d3b, fns := p.fns.filter (fun e => decide (e.1 = 1)), mb := p.mb.filter (fun e => decide (4 ≤ e.1)) })

/-- A Function Level Reset of PF1 resets mailboxes 4 to 7 and its own registers. -/
def resetPf1 (s : State) : State :=
  (dropMailboxes 4 8 s).modPcie (fun p => { p with d3b := false, fns := p.fns.filter (fun e => decide (e.1 ≠ 1)), mb := p.mb.filter (fun e => decide (e.1 < 4)) })

/-- FUNCTION_LEVEL_RESET. -/
def execFunctionLevelReset (f : PcieFn) (s : State) : Result :=
  .next (match f with | .pf0 => resetPf0 s | .pf1 => resetPf1 s)

/-- PCIE_LINK_NOT_USABLE: the link goes down, or PF0 loses Bus Master Enable or enters D3hot. -/
def execPcieLinkNotUsable (why : PcieLoss) (s : State) : Result :=
  .next (match why with
    | .linkDown => pcieDown s
    | .busMasterOff => if s.pcie.bme then (pcieLost s).modPcie (fun p => { p with bme := false }) else s
    | .d3hot => if s.pcie.d3 then s else (pcieLost s).modPcie (fun p => { p with d3 := true }))

/-- The port is out of reset: its domain is ON, its block runs, and the device is a chain head or stands alone (R16). -/
def State.portReady (s : State) : Bool :=
  decide (s.dom 140 = .on) && s.clk.running.getLsbD blkPcie && (s.casc.isHead || !s.casc.roleV)

/-- The highest generation and width that training may reach: PCIE_GEN_MAX as it stands, and where B9 used its alternate, no more
than that (R471, R529, R550). -/
def State.topGen (s : State) : Nat :=
  if s.boot.st = .recovery then 1
  else if s.boot.present.altUsed.getLsbD 9 then max 1 (min (s.ent? 0x5100 2) s.boot.pcieTop)
  else s.ent? 0x5100 2
def State.topWidth (s : State) : Nat := Nat.log2 (s.ent? 0x5100 3)

/-- The link trains to a generation and a width within the caps, which the two ends agree on (log 3). -/
def trainPcie (s : State) : State :=
  (s.takeFree.takeFree).modPcie (fun p => { p with
    up := true, trained := p.trained + 1, gen := 1 + Config.freeNat s.freeIx % s.topGen,
    width := 2 ^ (Config.freeNat (s.freeIx + 1) % (s.topWidth + 1)) })

/-- PCIE_LINK_USABLE: the link is up, Bus Master Enable is set and PF0 is in D0; what waited for the host is sent, and a
reference clock that was lost is back (R509). -/
def execPcieLinkUsable (s : State) : Result :=
  .next (if !s.portReady then s
    else
      let t := if s.pcie.up then s else trainPcie s
      let u := (t.modPcie (fun p => { p with bme := true, d3 := false })).modClk (fun c => { c with
        faultNow := c.faultNow &&& ~~~(1#12 <<< 11) })
      deliverWaiting u)

/-! ## MSI-X (R481) -/

/-- The pending message of a vector that is not masked leaves. -/
def sendPending (v : Nat) (s : State) : State :=
  if s.pcie.pend.contains v ∧ s.pcie.msixOn ∧ !s.pcie.fmask ∧ !s.pcie.mask.contains v then
    (s.modPcie (fun p => { p with pend := p.pend.filter (fun x => x != v) })).emit (.msix v)
  else s

/-- A vector is unmasked. -/
def unmaskVector (v : Nat) (s : State) : State :=
  sendPending v (s.modPcie (fun p => { p with mask := p.mask.filter (fun x => x != v) }))

/-- The function mask is written; once it is clear, the pending messages leave in the order in which they came. -/
def functionMask (on : Bool) (s : State) : State :=
  s.pcie.pend.foldl (fun t v => sendPending v t) (s.modPcie (fun p => { p with fmask := on }))

/-- The Enable of the MSI-X capability is written: while it is 0 no message leaves. -/
def msixEnable (on : Bool) (s : State) : State :=
  s.pcie.pend.foldl (fun t v => sendPending v t) (s.modPcie (fun p => { p with msixOn := on }))

def maskVector (v : Nat) (s : State) : State :=
  s.modPcie (fun p => { p with mask := if p.mask.contains v then p.mask else p.mask ++ [v] })

/-- MSIX_UNMASK. -/
def execMsixUnmask (what : MsixMask) (s : State) : Result :=
  .next (if !s.pcie.up then s
    else match what with
      | .vector v => unmaskVector v.toNat s
      | .function on => functionMask on s
      | .enable on => msixEnable on s)

/-- The bytes of the MSI-X table: address, data, and the mask bit of each vector. -/
def State.msixByte (s : State) (a : Nat) : Byte :=
  if a % 16 < 12 then Memory.byte s.pcie.msixTab a
  else if a % 16 = 12 then (if s.pcie.mask.contains (a / 16) then 1 else 0) else 0

/-- The pending bit array. -/
def State.pbaBytes (s : State) : List Byte :=
  leBytes 8 (s.pcie.pend.foldl (fun m v => m + 2 ^ v) 0)

/-- A write of the MSI-X table, in words of 4 bytes. -/
def msixWrite (a : Nat) (bs : List Byte) (s : State) : State :=
  (List.range (bs.length / 4)).foldl (fun t i =>
    let x := a + 4 * i
    let w := (bs.drop (4 * i)).take 4
    if x % 16 = 12 then (if bit (leNat w) 0 then maskVector (x / 16) t else unmaskVector (x / 16) t)
    else t.modPcie (fun p => { p with msixTab := Memory.puts p.msixTab x w })) s

/-! ## Mailboxes (R477 to R479) -/

/-- The request of a mailbox is for another role (R479). -/
def State.mbElsewhere (s : State) (b : Mailbox) : Bool :=
  bit b.req.toNat 38 && !(s.casc.roleV && decide (bits b.req.toNat 33 5 = s.casc.role.toNat))

/-- A write to MB_GO; while the mailbox is BUSY it is discarded and counted (R478). -/
def mbGo (n v : Nat) (s : State) : State :=
  let b := s.mb n
  if b.st = 1 then s.addCnt 0x600D 2 1
  else if !bit v 0 then s
  else
    let t := s.setMb n { b with st := 1 }
    let m : Master := .mailbox (BitVec.ofNat 3 n)
    if s.mbElsewhere b then
      if s.casc.isHead then
        pumpMailboxes (t.modNet (fun x => { x with mbWait := x.mbWait ++ [(n, bits b.req.toNat 33 5)] }))
      else t.answer m abNoRole 0 svcRead []
    else dictRequest m b.request b.write t

/-- The port serves a mailbox: it is not gated, and in RECOVERY only those of PF1 are served (R513, R550). -/
def State.mbServed (s : State) (n : Nat) : Bool := !s.gated blkPcie && (decide (s.boot.st ≠ .recovery) || decide (4 ≤ n))

/-- MB_GO: mailboxes take requests while the link is usable (R493). -/
def execMbGo (mb : BitVec 3) (value : Word) (s : State) : Result :=
  .next (if !s.hostReach then s
    else if s.mbServed mb.toNat then mbGo mb.toNat value.toNat s
    else pathFails .host s)

/-- MB_STATUS. -/
def Mailbox.status (b : Mailbox) : Nat := b.st + b.alen * 2 ^ 2 + b.abort % 2 ^ 16 * 2 ^ 16 + b.atype % 2 ^ 8 * 2 ^ 32

/-- Bytes [lo, hi) of an access that lies in them. -/
def within' (off n lo hi : Nat) : Bool := decide (lo ≤ off) && decide (off + n ≤ hi)

/-- A read of a mailbox's fields. -/
def mbRead (b : Mailbox) (off n : Nat) : Option (List Byte) :=
  if within' off n 0 8 then some (((leBytes 8 b.req.toNat).drop off).take n)
  else if within' off n 0x10 0x18 then some (((leBytes 8 b.status).drop (off - 0x10)).take n)
  else if within' off n 0x18 0x1C then some (((leBytes 4 b.count.toNat).drop (off - 0x18)).take n)
  else if within' off n 0x1000 0x2000 then some (Memory.gets b.data (off - 0x1000) n)
  else none

/-- A write of a mailbox's fields; while it is BUSY it is discarded and counted. -/
def mbWrite (k off : Nat) (bs : List Byte) (s : State) : Option State :=
  let b := s.mb k
  let n := bs.length
  if within' off n 8 12 then
    some (if b.st = 1 then s.addCnt 0x600D 2 1 else if off = 8 ∧ s.hostReach then mbGo k (leNat bs) s else s)
  else if within' off n 0 8 then
    some (if b.st = 1 then s.addCnt 0x600D 2 1
      else s.setMb k { b with req := BitVec.ofNat 64 (bits (leNat (overlay (leBytes 8 b.req.toNat) off bs)) 0 59) })
  else if within' off n 0x1000 0x2000 then
    some (if b.st = 1 then s.addCnt 0x600D 2 1 else s.setMb k { b with data := Memory.puts b.data (off - 0x1000) bs })
  else none

/-! ## Doorbells (R480) -/

/-- A doorbell write. -/
def doorbell (off v : Nat) (s : State) : Option State :=
  if off < 0x80 ∧ off % 8 = 0 then (if s.gated blkStream then none else tailWrite (off / 8) (bits v 0 16) s)
  else if 0x100 ≤ off ∧ off < 0x180 ∧ off % 8 = 0 then
    (if s.gated blkDma then none else chTailWrite ((off - 0x100) / 8) (bits v 0 16) s)
  else if off = 0x200 then (if s.gated blkDma then none else cqHeadWrite (bits v 0 16) s)
  else none

/-- What a doorbell reads; that of a gated block fails on the path (R475, R513). -/
def doorbellRead (off : Nat) (s : State) : Option Nat :=
  if off < 0x80 ∧ off % 8 = 0 then (if s.gated blkStream then none else some (s.stream (off / 8)).inb.tail)
  else if 0x100 ≤ off ∧ off < 0x180 ∧ off % 8 = 0 then (if s.gated blkDma then none else some (s.chan ((off - 0x100) / 8)).tail)
  else if off = 0x200 then (if s.gated blkDma then none else some s.dma.cqHead)
  else none

/-- A doorbell command of the host: it fails on the path where R280 or R484 refuses it, and outside service (R550); PF0 in
D3hot does not take it. -/
def hostDoorbell (off v : Nat) (s : State) : State :=
  if !s.pcie.up then s
  else if s.pcie.d3 then unsupported .pf0 s
  else pathAnswer .host s (if s.gated blkPcie ∨ s.boot.st = .recovery then none else doorbell off v s)

/-- STREAM_TAIL. -/
def execStreamTail (stream : BitVec 4) (value : Word) (s : State) : Result :=
  .next (hostDoorbell (8 * stream.toNat) value.toNat s)

/-- CH_TAIL. -/
def execChTail (chan : BitVec 4) (value : Word) (s : State) : Result :=
  .next (hostDoorbell (0x100 + 8 * chan.toNat) value.toNat s)

/-- CQ_HEAD. -/
def execCqHead (value : Word) (s : State) : Result := .next (hostDoorbell 0x200 value.toNat s)

/-! ## Apertures (R473, R474) -/

/-- The pieces of at most 256 bytes in which an access crosses the cascade: each ends on a 64-byte boundary or with the access,
so that a block is written whole (R22, R409). -/
def remotePieces (addr n : Nat) : List (Nat × Nat) :=
  let f := min n (256 - addr % 64)
  if n = 0 then [] else
    (0, f) :: (List.range (ceilDiv (n - f) 256)).map (fun i => (f + 256 * i, min 256 (n - f - 256 * i)))

/-- An access to another role. -/
def remoteAccess (role addr : Nat) (a : Access) (s : State) : State :=
  match a with
  | .read n => (remotePieces addr n).foldl (fun t p =>
      startRemote (BitVec.ofNat 5 role) false (.master .host) (addr + p.1) p.2 [] t) s
  | .write bs => (remotePieces addr bs.length).foldl (fun t p =>
      startRemote (BitVec.ofNat 5 role) true (.master .host) (addr + p.1) p.2 ((bs.drop p.1).take p.2) t) s

/-- An access through BAR2. -/
def apertureAccess (off : Nat) (a : Access) (s : State) : State :=
  let e := s.ent? 0x5101 (off / 2 ^ 28 + 1)
  let o := off % 2 ^ 28
  let addr := bits e 0 20 * 2 ^ 28 + o
  if !bit e 31 ∨ 2 ^ 28 < o + accessLen a then hostFails a s
  else if bit e 25 ∧ bits e 20 5 ≠ s.casc.role.toNat then
    if s.rolePresent (bits e 20 5) then remoteAccess (bits e 20 5) addr a s else hostFails a s
  else accessPath .host addr a s

/-! ## BAR accesses (R472, R475, R476) -/

/-- An answered read or a done write, or a failure on the path. -/
def barRead (s : State) (n : Nat) (r : Option (List Byte)) : State :=
  match r with
  | some d => s.emit (.readData .host d)
  | none => readFails .host n s

/-- A row of 4-byte words: an access is whole words of it. -/
def wordsOk (off n : Nat) : Bool := decide (off % 4 = 0) && decide (n % 4 = 0) && decide (n ≠ 0)

/-- The mailboxes of a function. -/
def barMailbox (k off : Nat) (a : Access) (s : State) : State :=
  match a with
  | .read n => barRead s n (mbRead (s.mb k) off n)
  | .write bs => pathAnswer .host s (mbWrite k off bs s)

/-- The doorbell page: 4-byte writes; a read gives the value named for its offset. -/
def barDoorbell (off : Nat) (a : Access) (s : State) : State :=
  match a with
  | .read n => barRead s n (if n ≤ 4 then (doorbellRead off s).map (fun v => leBytes n v) else none)
  | .write bs => pathAnswer .host s (if bs.length = 4 then doorbell off (leNat bs) s else none)

/-- The MSI-X table and the pending bit array. -/
def barMsix (off : Nat) (a : Access) (s : State) : State :=
  match a with
  | .read n => barRead s n (if wordsOk off n then some ((List.range n).map (fun i => s.msixByte (off + i))) else none)
  | .write bs => pathAnswer .host s (if wordsOk off bs.length then some (msixWrite off bs s) else none)

def barPba (off : Nat) (a : Access) (s : State) : State :=
  match a with
  | .read n => barRead s n (if wordsOk off n then some ((s.pbaBytes.drop off).take n) else none)
  | .write _ => pathFails .host s

/-- The aperture registers: 4-byte words. -/
def barAperture (off : Nat) (a : Access) (s : State) : State :=
  match a with
  | .read n => barRead s n (if wordsOk off n then
      some ((List.range (n / 4)).flatMap (fun i => leBytes 4 (s.ent? 0x5101 (off / 4 + i + 1)))) else none)
  | .write bs => pathAnswer .host s (if wordsOk off bs.length then
      some ((List.range (bs.length / 4)).foldl (fun t i =>
        (wAperture (off / 4 + i + 1) (leNat ((bs.drop (4 * i)).take 4)) t).2) s) else none)

/-- BAR0 of PF0 (R472). -/
def pf0Bar0 (off : Nat) (a : Access) (s : State) : State :=
  let n := accessLen a
  if within' off n 0 0x8000 ∧ within' (off % 0x2000) n 0 0x2000 then barMailbox (off / 0x2000) (off % 0x2000) a s
  else if within' off n 0x10000 0x11000 then barDoorbell (off - 0x10000) a s
  else if within' off n 0x20000 0x20400 then barMsix (off - 0x20000) a s
  else if within' off n 0x21000 0x21008 then barPba (off - 0x21000) a s
  else if within' off n 0x30000 0x30040 then barAperture (off - 0x30000) a s
  else if within' off n 0x1000000 0x4000000 then accessPath .host (off + 0xF000000) a s
  else hostFails a s

/-- BAR0 of PF1 (R476). -/
def pf1Bar0 (off : Nat) (a : Access) (s : State) : State :=
  let n := accessLen a
  if within' off n 0 0x8000 ∧ within' (off % 0x2000) n 0 0x2000 then barMailbox (4 + off / 0x2000) (off % 0x2000) a s
  else hostFails a s

/-- The clock ratios that an access through a BAR crosses on this device (R504). -/
def State.barRatios (s : State) (f : PcieFn) (bar : BitVec 3) (off : Nat) : BitVec 3 :=
  match f with
  | .pf0 =>
    if bar = 2 then
      let e := s.ent? 0x5101 (off / 2 ^ 28 + 1)
      if bit e 25 ∧ bits e 20 5 ≠ s.casc.role.toNat then 0 else s.ratioAt (bits e 0 20 * 2 ^ 28 + off % 2 ^ 28)
    else if 0x1000000 ≤ off then 1
    else 0
  | .pf1 => 0

/-- What a host access through a BAR does. A function in D3hot, or without that BAR, answers with an unsupported request;
in RECOVERY only the mailboxes of PF1 are served (R550). -/
def barDo (f : PcieFn) (bar : BitVec 3) (off : Nat) (a : Access) (s : State) : State :=
  match f with
  | .pf0 =>
    if s.pcie.d3 ∨ (bar ≠ 0 ∧ bar ≠ 2) then unsupported .pf0 s
    else if s.boot.st = .recovery ∨ s.gated blkPcie then hostFails a s
    else if bar = 0 then pf0Bar0 off a s
    else apertureAccess off a s
  | .pf1 =>
    if s.pcie.d3b ∨ bar ≠ 0 then unsupported .pf1 s
    else if s.gated blkPcie then hostFails a s
    else pf1Bar0 off a s

/-! ## Configuration requests (R468, R471) -/

/-- What PCIE_LINK_NOT_USABLE does once PF0 loses Bus Master Enable or enters D3hot (R493). -/
def loseMaster (s : State) : State := if s.pcie.bme then (pcieLost s).modPcie (fun p => { p with bme := false }) else s
def enterD3 (s : State) : State := if s.pcie.d3 then s else (pcieLost s).modPcie (fun p => { p with d3 := true })

/-- The Command register: Bus Master Enable of PF0 makes the link usable or not (R493). -/
def cfgCommand (f : PcieFn) (v : Nat) (s : State) : State :=
  let t := s.modCfg f (fun c => { c with command := BitVec.ofNat 16 v })
  match f with
  | .pf0 => if bit v 2 then deliverWaiting (t.modPcie (fun p => { p with bme := true })) else loseMaster t
  | .pf1 => t

/-- The power state: D3hot is 3, D0 is 0; no other is supported (R468). -/
def cfgPower (f : PcieFn) (v : Nat) (s : State) : State :=
  match f with
  | .pf0 =>
    if v % 4 = 3 then enterD3 s else if v % 4 = 0 then deliverWaiting (s.modPcie (fun p => { p with d3 := false })) else s
  | .pf1 =>
    if v % 4 = 3 then s.modPcie (fun p => { p with d3b := true })
    else if v % 4 = 0 then s.modPcie (fun p => { p with d3b := false }) else s

/-- A write of one word of the configuration space; one that no register takes changes nothing. -/
def cfgWord (f : PcieFn) (a v : Nat) (s : State) : State :=
  let w := BitVec.ofNat 32 v
  let half := fun (x : DWord) (high : Bool) =>
    if high then BitVec.ofNat 64 (x.toNat % 2 ^ 32 + v * 2 ^ 32) else BitVec.ofNat 64 (x.toNat / 2 ^ 32 * 2 ^ 32 + v)
  match a with
  | 0x04 => cfgCommand f (v % 2 ^ 16) s
  | 0x10 => s.modCfg f (fun c => { c with bar0 := half c.bar0 false })
  | 0x14 => s.modCfg f (fun c => { c with bar0 := half c.bar0 true })
  | 0x18 => s.modCfg f (fun c => { c with bar2 := half c.bar2 false })
  | 0x1C => s.modCfg f (fun c => { c with bar2 := half c.bar2 true })
  | 0x44 => cfgPower f v s
  | 0x78 =>
    if bit v 15 then (match f with | .pf0 => resetPf0 s | .pf1 => resetPf1 s)
    else s.modCfg f (fun c => { c with devCtl := BitVec.ofNat 16 (v % 2 ^ 15) })
  | 0xB0 => match f with
    | .pf0 => msixEnable (bit v 31) (functionMask (bit v 30) s)
    | .pf1 => s
  | 0x104 => s.modCfg f (fun c => { c with uncorr := c.uncorr &&& ~~~w })
  | 0x108 => s.modCfg f (fun c => { c with uncorrMask := w })
  | 0x10C => s.modCfg f (fun c => { c with uncorrSev := w })
  | 0x110 => s.modCfg f (fun c => { c with corr := c.corr &&& ~~~w })
  | 0x114 => s.modCfg f (fun c => { c with corrMask := w })
  | 0x118 => s.modCfg f (fun c => { c with ecrcGen := bit v 6, ecrcCheck := bit v 8 })
  | _ => s

/-- A write of 1 to 4 bytes within a word: the status bits of bytes not written are not cleared. -/
def cfgWrite (f : PcieFn) (off : Nat) (bs : List Byte) (s : State) : State :=
  let a := off / 4 * 4
  let old := if a = 0x104 ∨ a = 0x110 then List.replicate 4 0 else s.cfgRead f a 4
  cfgWord f a (leNat (overlay old (off % 4) bs)) s

/-- A configuration request: Retry Status until the boot step that enables the port ends (R471); then the registers. Both functions
answer it in D3hot. -/
def configAccess (f : PcieFn) (off : Nat) (a : Access) (s : State) : State :=
  if s.boot.st = .booting ∧ s.boot.step ≤ 9 then s.emit .pcieCrs
  else if !s.pcie.up then s
  else if off % 4 + accessLen a ≤ 4 ∧ off < 4096 then
    match a with
    | .read n => s.emit (.cfgData f (s.cfgRead f off n))
    | .write bs => cfgWrite f off bs s
  else unsupported f s

/-- BAR_ACCESS: an access through a BAR, or a request to the configuration space of a function. -/
def execBarAccess (f : PcieFn) (space : PcieSpace) (offset : BitVec 32) (a : Access) (s : State) : Result :=
  match space with
  | .config => .next (configAccess f offset.toNat a s)
  | .bar n =>
    if !s.pcie.up then .next s
    else crossing (s.barRatios f n offset.toNat) s (barDo f n offset.toNat a) (alteredAccess .host a)

end Sys2Proof.Machine
end

