-- ==== Sys2Proof/Machine/Issue.lean ====
section
/-!
DEFINITION. Issue (R125 to R133, R167 to R181, R418): the fetch of a bundle, the conditions under which it issues, its slots
in order, stalls, the check and the release of a rank, and the return of a scalar access.
-/
namespace Sys2Proof.Machine

/-! ## Fetch (R168 to R170) -/

/-- The bits that the fetch of a bundle may have seen: those before each write of the last 16 cycles, and those now. -/
def State.fetchChoices (s : State) (pc : Nat) : List (BitVec 512) :=
  (s.seq.recent.filter (fun r => decide (r.2.1 = pc) && decide (s.clk.cycle < r.1 + 16))).map (fun r => r.2.2)
    ++ [recordAt s.mem (ibufBase + 64 * pc)]

/-- The bundle as fetched; which write within the window it sees is free (R169, log 3). -/
def fetchBundle (s : State) : BitVec 512 × State :=
  match s.fetchChoices s.seq.pc.toNat with
  | [w] => (w, s)
  | l => (l.getD (Config.freeNat s.freeIx % l.length) 0, s.takeFree)

/-- A member does not issue the bundle because of its own fault: HOLD keeps it from every member, none is ready for it again, and
the rank halts (R421). -/
def rankSuppress (s : State) : State :=
  ((beginStall (s.sendLock 2 (bits s.rankCycle 0 24))).modLock (fun l => { l with
    holds := addOnce s.casc.role l.holds, blocked := true })).rankHaltAll (.halt true)

/-- A double-bit error stops the bundle: the sequencer halts, and every current job of every stream fails (R170). In a rank
every member suppresses the bundle and halts (R421). -/
def ibufHalt (c : SlotCtx) (s : State) : State :=
  let t := streamNums.foldl (fun u n => u.failJob ((u.stream n).cur.map (fun j => { stream := n, num := j.num })) causeEcc)
    (s.raiseExc { s.slotRec { c with slot := 15 } causeEcc 0 with halted := true, job := none })
  if t.inRank then rankSuppress t else t.haltSeq .faultHalted

/-! ## Whether a bundle can issue (R128) -/

/-- The job that a JOB_TAKE slot takes on a stream without a current job (R289). -/
def takenBy (s : State) (d : SlotDec) : Option JobRef :=
  match d with
  | .cmd (.jobTake c n a) =>
    if (s.stream n.toNat).cur.isSome then none
    else ((opJobTake c n a s s).stream n.toNat).cur.map (fun j => { stream := n.toNat, num := j.num })
  | _ => none

/-- A slot before `c` takes a job of stream `n`. -/
def takesBefore (s : State) (l : List (SlotCtx × SlotDec)) (c : SlotCtx) (n : Nat) : Bool :=
  l.any (fun x => decide (x.1.slot.toNat < c.slot.toNat) && (takenBy s x.2).any (fun r => decide (r.stream = n)))

/-- A slot that cannot issue in this state. -/
def slotWaits (s : State) (l : List (SlotCtx × SlotDec)) (d : SlotDec) : Bool :=
  match d with
  | .cmd (.waitGe _ obj arg) => !waitGeHolds obj arg s && !s.waitsHeld
  | .cmd (.waitGeX _ obj reg) => !waitGeXHolds obj reg s && !s.waitsHeld
  | .cmd (.launch _ _ _ _) =>
    launchFull (l.filter (fun x => match x.2 with | .cmd (.launch _ _ _ _) => true | _ => false)).length s
  | .cmd (.matmul c _ _ _) | .cmd (.matmulAcc c _ _ _) | .cmd (.matmulX c _ _ _) | .cmd (.matmulXAcc c _ _ _)
  | .cmd (.accStore c _ _ _) | .cmd (.accLoad c _ _ _) | .cmd (.outerAcc c _ _ _) => matrixFull (matSlot c) s
  | .cmd (.run c _ _) | .cmd (.config c _ _) | .cmd (.rotate c _ _) => vectorFull (vecSlot c) s
  | .cmd (.jobDone c n _) =>
    jobDoneFull n.toNat s
      || (takesBefore s l c n.toNat && decide (4 ≤ (s.stream n.toNat).closedByDone))
  | .cmd (.ringPush _ n _) => pushOver n.toNat (pushesIn l n.toNat) s
  | .cmd (.submit _ k _) => submitFull k s
  | .cmd (.migrate _ _) | .cmd (.prefetch _ _) => moveFull s
  | .cmd (.idle _ m) => s.inRank && decide (m ≠ 0) && !s.maskedWork m
  | _ => false

/-- Every slot can issue, and no scalar access is outstanding. -/
def State.canIssue (s : State) (w : BitVec 512) : Bool :=
  let l := decBundle s.seq.pc w.toNat
  s.seq.access.isNone && l.all (fun x => !slotWaits s l x.2)

/-! ## The slots (R126, R127, R171) -/

/-- A slot's operation: `pre` is the state before the bundle's cycle. A WAIT has held; an IDLE has been a stall of the rank
(R418). -/
def slotOp (pre : State) (i : Instr) (s : State) : State :=
  match i with
  | .jump c a => opJump c a pre s
  | .bnz c r a => opBnz c r a pre s
  | .bz c r a => opBz c r a pre s
  | .loop c r a => opLoop c r a pre s
  | .call c a => opCall c a pre s
  | .ret c => opRet c pre s
  | .idle c m => if pre.inRank ∧ m ≠ 0 then s else opIdle c m pre s
  | .trap c a => opTrap c a pre s
  | .halt c => opHalt c pre s
  | .signal c o a => opSignal c o a pre s
  | .set c o a => opSet c o a pre s
  | .setX c o r => opSetX c o r pre s
  | .signalPeer c o d => opSignalPeer c o d pre s
  | .launch c y d b => opLaunch c y d b pre s
  | .matmul c f sl d => opMatrix .matmul c f sl d pre s
  | .matmulAcc c f sl d => opMatrix .matmulAcc c f sl d pre s
  | .matmulX c f sl d => opMatrix .matmulX c f sl d pre s
  | .matmulXAcc c f sl d => opMatrix .matmulXAcc c f sl d pre s
  | .accStore c f sl d => opMatrix .accStore c f sl d pre s
  | .accLoad c f sl d => opMatrix .accLoad c f sl d pre s
  | .outerAcc c f sl d => opMatrix .outerAcc c f sl d pre s
  | .run c u d => opVector .run c u d pre s
  | .config c u d => opVector .config c u d pre s
  | .rotate c u d => opVector .rotate c u d pre s
  | .jobTake c n a => opJobTake c n a pre s
  | .jobDone c n r => opJobDone c n r pre s
  | .ringPush c n r => opRingPush c n r pre s
  | .submit c k r => opSubmit c k r pre s
  | .migrate c r => opMove false c r pre s
  | .prefetch c r => opMove true c r pre s
  | .addi c d r m => opAddi c d r m pre s
  | .add c d r => opAdd c d r pre s
  | .sub c d r => opSub c d r pre s
  | .and c d r => opAnd c d r pre s
  | .or c d r => opOr c d r pre s
  | .shli c d r m => opShli c d r m pre s
  | .shri c d r m => opShri c d r m pre s
  | .movhi c d m => opMovhi c d m pre s
  | .ld c d r m => opLd c d r m pre s
  | .st c d r m => opSt c d r m pre s
  | .dictRd c d r => opDictRd c d r pre s
  | .dictWr c d r => opDictWr c d r pre s
  | .cyc c d => opCyc c d pre s
  | .syncRd c d r => opSyncRd c d r pre s
  | .tagjob c d r => opTagjob c d r pre s
  | _ => s

/-- One slot: a fault suppresses it alone (R171). -/
def slotStep (pre : State) (x : SlotCtx × SlotDec) (s : State) : State :=
  match x.2 with
  | .nop => s
  | .undef => s.slotFault x.1 causeUndef 0
  | .bad f => s.slotFault x.1 causeRange f
  | .cmd i => slotOp pre i s

/-- The lockstep state of a bundle is done with once it has issued: the HOLDs of the next one, which is planned by now, become its
own; after a release there are none, and its check cycle is the present one (R418 step 6). -/
def clearLock (released : Bool) (s : State) : State :=
  s.modLock (fun l =>
    let mine := if released then [] else (l.later.filter (fun x => decide (x.2 ≤ s.seq.planned))).map (fun x => x.1)
    { l with
      holds := mine.foldr addOnce [], later := if released then [] else l.later.filter (fun x => decide (s.seq.planned < x.2))
      readies := [], latest := 0, releaseAt := none, passed := false, blocked := false
      checkAt := if released then some s.clk.cycle else none })

/-- A bundle issues in the present cycle (R125 to R132, R171), its slots in slot order (R127): the next one follows after
REPEAT cycles, and 24 cycles after a release at the earliest (R179). -/
def issueBundle (w : BitVec 512) (released : Bool) (s : State) : State :=
  let rep := bits w.toNat 0 10
  let l := decBundle s.seq.pc w.toNat
  let t := (countStall s).modSeq (fun q => { q with
    st := .running, stall := none, idle := none, pc := q.pc + 1, planned := s.clk.cycle + 1 + rep
    taking := (l.filterMap (fun x => takenBy s x.2)).map (fun r => (r, 0)) })
  let u := ((l.foldl (fun v x => slotStep s x v) t).modSeq (fun q => { q with taking := [] })).settleHalt
  let v := if released then u.modSeq (fun q => { q with planned := max q.planned (s.clk.cycle + 24) }) else u
  if s.inRank then (clearLock released v).compareBranches else v

/-- A fetched bundle with what its check word shows: `go` on a clean or corrected one, a halt on a double-bit error
(R170). -/
def withFetch (e : Ecc) (go : BitVec 512 → State → State) (s : State) : State :=
  let f := fetchBundle s
  match e with
  | .clean => go f.1 f.2
  | .single => go f.1 (f.2.count 0x6004 5 clsCorrected)
  | .double => ibufHalt (slotCtx f.1.toNat s.seq.pc 15) f.2

/-! ## A single device (R125, R128) -/

/-- The bundle issues, or the sequencer stalls on it. -/
def issueOrStall (w : BitVec 512) (s : State) : State := if s.canIssue w then issueBundle w false s else beginStall s

/-- The first state, as due results take effect, in which a bundle can issue. -/
def State.firstReady (s : State) (w : BitVec 512) : Option State := s.first (fun t => t.canIssue w)

/-- The rings that the IDLE slots of a bundle name are read (R280). -/
def readIdle (w : BitVec 512) (s : State) : State :=
  (decBundle s.seq.pc w.toNat).foldl (fun t x => match x.2 with | .cmd (.idle _ m) => t.readRings m | _ => t) s

/-! ## A rank (R179, R418) -/

/-- The check cycle of the present bundle: 24 cycles before the planned cycle, or the issue cycle of the released bundle before it
(R418). -/
def State.checkCycle (s : State) : Nat := s.casc.lock.checkAt.getD (s.seq.planned - 24)

/-- The check of a bundle: a pass, or HOLD to every member and a stall. A WAIT passes on what took effect before the check cycle,
also when the check is made later, while the bundle before is still to issue (R142, R418). -/
def checkBundle (w : BitVec 512) (s0 : State) : State :=
  let s := readIdle w s0
  if (s.asOf s.checkCycle).canIssue w then s.modLock (fun l => { l with passed := true })
  else (beginStall (s.sendLock 2 (bits s.rankCycle 0 24))).modLock (fun l => { l with
    holds := addOnce s.casc.role l.holds })

/-- A member that holds checks again: READY carries the first cycle in which its conditions hold. -/
def recheckBundle (w : BitVec 512) (s0 : State) : State :=
  let s := readIdle w s0
  match s.firstReady w with
  | some t =>
    if t.seq.st = .stalled then
      let u := t.noteReady [t.casc.role] t.rankCycle
      u.passReady u.rankPorts t.casc.role
    else s
  | none => s

/-- The member's own check of the present bundle is done. -/
def State.checked (s : State) : Bool := s.casc.lock.passed || s.casc.lock.holds.contains s.casc.role

/-- The bundle's bits as they stand; a fetch decides them when the bundle issues. -/
def State.bundleNow (s : State) : BitVec 512 := BitVec.ofNat 512 s.presentBundle

/-- The member holds the bundle and has not been ready for it. -/
def State.waitsReady (s : State) : Bool :=
  s.casc.lock.holds.contains s.casc.role && !s.casc.lock.readies.contains s.casc.role && !s.casc.lock.blocked

/-- A bundle is due: the sequencer runs, or is stalled on it. -/
def State.issuing (s : State) (st : SeqState) : Bool := decide (s.seq.st = st) && !s.gated blkSeq

/-- RANK_CHECK: in the check cycle, and again in each cycle while the member holds. The bundle's check word is looked at with
it (R170). -/
def execRankCheck (ecc : Ecc) (s : State) : Result :=
  .next (if !s.inRank then s
    else if s.issuing .running ∧ !s.checked then
      let t := s.toCycle s.checkCycle
      if !t.issuing .running then t
      else match ecc with
        | .clean => checkBundle t.bundleNow t
        | .single => checkBundle t.bundleNow (t.count 0x6004 5 clsCorrected)
        | .double => ibufHalt (slotCtx t.presentBundle t.seq.pc 15) t
    else if s.issuing .stalled ∧ s.waitsReady then recheckBundle s.bundleNow s
    else s)

/-- A member issues in the planned cycle when no member holds; one whose check no command has made yet makes it now, as of its
check cycle (R418). -/
def rankIssue (w : BitVec 512) (s : State) : State :=
  let t := if s.checked then s else checkBundle w s
  if t.casc.lock.holds = [] then issueBundle w false t else (beginStall t).tryRelease

/-- A stalled bundle of a rank issues in the cycle that RELEASE names. The rank master sends it when the planned cycle has come
and every member that held is ready. -/
def rankRelease (ecc : Ecc) (s : State) : State :=
  match s.casc.lock.releaseAt with
  | none =>
    if s.isRankMaster ∧ s.casc.lock.holds.all (fun r => s.casc.lock.readies.contains r) then (s.toCycle s.seq.planned).tryRelease
    else s
  | some h =>
    let t := s.toCycle ((h : Int) - s.casc.lock.offset).toNat
    if t.issuing .stalled then withFetch ecc (fun w u => issueBundle w true u) t else t

/-! ## Commands -/

/-- BUNDLE_ISSUE: the bundle at SEQ_PC, in its planned cycle. -/
def execBundleIssue (ecc : Ecc) (s : State) : Result :=
  .next (if !s.issuing .running then s
    else
      let t := s.toCycle s.seq.planned
      if !t.issuing .running then t
      else if t.inRank then withFetch ecc rankIssue t
      else withFetch ecc issueOrStall t)

/-- STALLED_BUNDLE_ISSUE: a stalled bundle issues in the first cycle in which every condition holds, or, in a rank, in the
cycle of the release. -/
def execStalledBundleIssue (ecc : Ecc) (s : State) : Result :=
  .next (if !s.issuing .stalled then s
    else if s.inRank then rankRelease ecc s
    else
      match s.firstReady s.bundleNow with
      | some t => if t.issuing .stalled then withFetch ecc issueOrStall t else t
      | none => s)

/-! ## The return of a scalar access (R165 to R167) -/

/-- A bus error of a stalling LD or ST. -/
def scalarBusError (a : ScalarAccess) (addr : Nat) (s : State) : State :=
  let t := endAccess a s
  (t.raiseExc { t.slotRec a.ctx causeBus 0 with addr := addr, job := a.job }).settleHalt

/-- An access to a held tier enters a hold, once; one that meets a pause only waits (R520, R574). -/
def holdScalar (a : ScalarAccess) (s : State) : State :=
  if a.hold.isSome ∨ s.bulkPaused then s
  else ((s.modSeq (fun q => { q with access := some { a with hold := some s.clk.ticks } })).count 0x6010 1 clsRecovered)

/-- LD from elsewhere than the buffer tier: an access that fails on the path is a bus error (R165, R322). -/
def returnLd (a : ScalarAccess) (d : BitVec 5) (addr : Nat) (s : State) : State :=
  match s.pathRead .bundle addr 8 false (ctxStream a.ctx) with
    | .done t bs => (endAccess a t).xSet d (BitVec.ofNat 64 (leNat bs))
    | .waits => holdScalar a s
    | _ => scalarBusError a addr s

/-- ST to elsewhere than the buffer tier. -/
def returnSt (a : ScalarAccess) (addr : Nat) (bs : List Byte) (s : State) : State :=
  match s.pathWrite .bundle addr bs (ctxStream a.ctx) true with
    | .done t _ => endAccess a t
    | .waits => holdScalar a s
    | .held t => t
    | _ => scalarBusError a addr s

/-- A dictionary access is asked once; it ends when the dictionary answers (R166). -/
def returnDict (a : ScalarAccess) (r : DictReq) (write : Bool) (s : State) : State :=
  if a.sent then s
  else dictRequest .bundle r write (s.modSeq (fun q => { q with access := some { a with sent := true } }))

/-- The value of a DICT_WR, truncated to the entry's type (R164). -/
def dictWrData (i j : Nat) (v : DWord) : List Byte := leBytes ((typeSize (entryType i j)).getD 8) v.toNat

/-- The address of a stream's job register block (R278). -/
def jobRegAddr (n : Nat) : Nat := streamBase + 512 * n + 0x100

/-- The clock ratios that a scalar access crosses (R504). -/
def State.scalarRatios (s : State) (a : ScalarAccess) : BitVec 3 :=
  match a.op with
  | .ld _ addr | .st addr _ => s.ratios .bundle addr
  | .dictRd _ _ _ | .dictWr _ _ _ => 3
  | .tagjob _ _ => 0

/-- A deep-tier read of the scalar unit is retried: the access enters a hold (R574). -/
def retriesDeep (a : ScalarAccess) (s : State) : Bool := match a.op with | .ld _ addr => s.inDeep addr 8 | _ => false

/-- The access of the scalar unit ends. -/
def returnScalar (a : ScalarAccess) (s : State) : State :=
  match a.op with
  | .ld d addr => returnLd a d addr s
  | .st addr bs => returnSt a addr bs s
  | .dictRd _ i j => returnDict a { index := i, sub := j, type := 0, want := 0, data := [] } false s
  | .dictWr i j v => returnDict a { index := i, sub := j, type := 0, want := 0, data := dictWrData i.toNat j.toNat v } true s
  | .tagjob d n => (endAccess a s).xSet d (BitVec.ofNat 64 (jobRegAddr n.toNat))

/-- An access altered on its way: a load gives another value, a store reaches another address with other bytes (R504). -/
def alteredScalar (a : ScalarAccess) (s : State) : State :=
  match a.op with
  | .ld d _ | .dictRd d _ _ => (endAccess a s.takeFree).xSet d (BitVec.ofNat 64 (Config.freeNat s.freeIx))
  | .st _ bs => returnSt a s.freeAddr (s.freeBytes bs.length) (s.takeFrees (1 + bs.length))
  | _ => returnScalar a s

/-- The scalar access in flight, done by `f`, if it is still there. -/
def withAccess (f : ScalarAccess → State → State) (s : State) : State :=
  match s.seq.access with
  | none => s
  | some a => f a s

/-- SCALAR_ACCESS_RETURN. -/
def execScalarAccessReturn (deepRetry : Bool) (s : State) : Result :=
  match s.seq.access with
  | none => .next s
  | some a =>
    if deepRetry ∧ retriesDeep a s then .next (holdScalar a s)
    else crossing (s.scalarRatios a) s (withAccess returnScalar) (withAccess alteredScalar)

end Sys2Proof.Machine
end

