-- ==== Sys2Proof/Machine/Dispatch.lean ====
section
/-!
DEFINITION. The dispatcher: one arm per command, each one call of its meaning.
-/
namespace Sys2Proof.Machine

/-- The effect of a command on everything but the queue. -/
def exec (i : Instr) (s : State) : Host.Outcome State Fault Refusal :=
  match i with
  | .bundleIssue ecc => Sys2Proof.Machine.execBundleIssue ecc s
  | .stalledBundleIssue ecc => Sys2Proof.Machine.execStalledBundleIssue ecc s
  | .jump c arg => Sys2Proof.Machine.execJump c arg s
  | .bnz c reg arg => Sys2Proof.Machine.execBnz c reg arg s
  | .bz c reg arg => Sys2Proof.Machine.execBz c reg arg s
  | .loop c reg arg => Sys2Proof.Machine.execLoop c reg arg s
  | .call c arg => Sys2Proof.Machine.execCall c arg s
  | .ret c => Sys2Proof.Machine.execRet c s
  | .idle c mask => Sys2Proof.Machine.execIdle c mask s
  | .idleResume => Sys2Proof.Machine.execIdleResume s
  | .trap c code => Sys2Proof.Machine.execTrap c code s
  | .halt c => Sys2Proof.Machine.execHalt c s
  | .signal c obj arg => Sys2Proof.Machine.execSignal c obj arg s
  | .set c obj arg => Sys2Proof.Machine.execSet c obj arg s
  | .setX c obj reg => Sys2Proof.Machine.execSetX c obj reg s
  | .waitGe c obj arg => Sys2Proof.Machine.execWaitGe c obj arg s
  | .waitGeX c obj reg => Sys2Proof.Machine.execWaitGeX c obj reg s
  | .signalPeer c obj dev => Sys2Proof.Machine.execSignalPeer c obj dev s
  | .syncValueWrite m obj value => Sys2Proof.Machine.execSyncValueWrite m obj value s
  | .syncAddWrite m obj value => Sys2Proof.Machine.execSyncAddWrite m obj value s
  | .launch c sync desc base => Sys2Proof.Machine.execLaunch c sync desc base s
  | .phaseAdmission => Sys2Proof.Machine.execPhaseAdmission s
  | .phaseEnd op mute => Sys2Proof.Machine.execPhaseEnd op mute s
  | .missingCodeTest op => Sys2Proof.Machine.execMissingCodeTest op s
  | .repeatPhaseEnd op mute => Sys2Proof.Machine.execRepeatPhaseEnd op mute s
  | .lineVisible op line => Sys2Proof.Machine.execLineVisible op line s
  | .resultDiscarded array epoch phaseTag => Sys2Proof.Machine.execResultDiscarded array epoch phaseTag s
  | .shadeRecheck array programs phases codes eraseVerify => Sys2Proof.Machine.execShadeRecheck array programs phases codes eraseVerify s
  | .addressRebuild addr => Sys2Proof.Machine.execAddressRebuild addr s
  | .matmul c fmt slices desc => Sys2Proof.Machine.execMatmul c fmt slices desc s
  | .matmulAcc c fmt slices desc => Sys2Proof.Machine.execMatmulAcc c fmt slices desc s
  | .matmulX c fmt slices desc => Sys2Proof.Machine.execMatmulX c fmt slices desc s
  | .matmulXAcc c fmt slices desc => Sys2Proof.Machine.execMatmulXAcc c fmt slices desc s
  | .accStore c fmt slices desc => Sys2Proof.Machine.execAccStore c fmt slices desc s
  | .accLoad c fmt slices desc => Sys2Proof.Machine.execAccLoad c fmt slices desc s
  | .outerAcc c fmt slices desc => Sys2Proof.Machine.execOuterAcc c fmt slices desc s
  | .matrixTaskStart slot scaleWait bankWait => Sys2Proof.Machine.execMatrixTaskStart slot scaleWait bankWait s
  | .matrixTaskEnd task => Sys2Proof.Machine.execMatrixTaskEnd task s
  | .run c units desc => Sys2Proof.Machine.execRun c units desc s
  | .config c units desc => Sys2Proof.Machine.execConfig c units desc s
  | .rotate c units desc => Sys2Proof.Machine.execRotate c units desc s
  | .vectorTaskStart slot scaleWait => Sys2Proof.Machine.execVectorTaskStart slot scaleWait s
  | .vectorTaskEnd task => Sys2Proof.Machine.execVectorTaskEnd task s
  | .expanderHeaderRead slot => Sys2Proof.Machine.execExpanderHeaderRead slot s
  | .fetchBufferFill slot bytes lateCycles => Sys2Proof.Machine.execFetchBufferFill slot bytes lateCycles s
  | .tableLoad m addr => Sys2Proof.Machine.execTableLoad m addr s
  | .tableFree m slot => Sys2Proof.Machine.execTableFree m slot s
  | .unitPowerClear m kind value => Sys2Proof.Machine.execUnitPowerClear m kind value s
  | .unitPowerSet m kind value => Sys2Proof.Machine.execUnitPowerSet m kind value s
  | .domainOff domain => Sys2Proof.Machine.execDomainOff domain s
  | .domainWakeEnd domain => Sys2Proof.Machine.execDomainWakeEnd domain s
  | .jobTake c stream arg => Sys2Proof.Machine.execJobTake c stream arg s
  | .jobDone c stream reg => Sys2Proof.Machine.execJobDone c stream reg s
  | .ringPush c stream reg => Sys2Proof.Machine.execRingPush c stream reg s
  | .recordPlaced stream => Sys2Proof.Machine.execRecordPlaced stream s
  | .jobComplete stream => Sys2Proof.Machine.execJobComplete stream s
  | .markerClosing stream => Sys2Proof.Machine.execMarkerClosing stream s
  | .lateJobSkip stream => Sys2Proof.Machine.execLateJobSkip stream s
  | .deadlineMiss stream jobNum => Sys2Proof.Machine.execDeadlineMiss stream jobNum s
  | .inboundTailWrite m stream tail => Sys2Proof.Machine.execInboundTailWrite m stream tail s
  | .jobRecordRead stream index => Sys2Proof.Machine.execJobRecordRead stream index s
  | .streamEnableSet m value => Sys2Proof.Machine.execStreamEnableSet m value s
  | .streamEnableClear m value => Sys2Proof.Machine.execStreamEnableClear m value s
  | .recordDelivery stream recv => Sys2Proof.Machine.execRecordDelivery stream recv s
  | .receiverRejoin stream recv => Sys2Proof.Machine.execReceiverRejoin stream recv s
  | .receiverEntryWrite m stream recv value => Sys2Proof.Machine.execReceiverEntryWrite m stream recv value s
  | .hostHeadWrite m stream recv value => Sys2Proof.Machine.execHostHeadWrite m stream recv value s
  | .detectWindowExpiry => Sys2Proof.Machine.execDetectWindowExpiry s
  | .waitLimit => Sys2Proof.Machine.execWaitLimit s
  | .requestStarved tier request => Sys2Proof.Machine.execRequestStarved tier request s
  | .tierGrant tier => Sys2Proof.Machine.execTierGrant tier s
  | .submit c chan reg => Sys2Proof.Machine.execSubmit c chan reg s
  | .migrate c reg => Sys2Proof.Machine.execMigrate c reg s
  | .prefetch c reg => Sys2Proof.Machine.execPrefetch c reg s
  | .addi c dst src imm => Sys2Proof.Machine.execAddi c dst src imm s
  | .add c dst src => Sys2Proof.Machine.execAdd c dst src s
  | .sub c dst src => Sys2Proof.Machine.execSub c dst src s
  | .and c dst src => Sys2Proof.Machine.execAnd c dst src s
  | .or c dst src => Sys2Proof.Machine.execOr c dst src s
  | .shli c dst src imm => Sys2Proof.Machine.execShli c dst src imm s
  | .shri c dst src imm => Sys2Proof.Machine.execShri c dst src imm s
  | .movhi c dst imm => Sys2Proof.Machine.execMovhi c dst imm s
  | .ld c dst src imm => Sys2Proof.Machine.execLd c dst src imm s
  | .st c dst src imm => Sys2Proof.Machine.execSt c dst src imm s
  | .dictRd c dst src => Sys2Proof.Machine.execDictRd c dst src s
  | .dictWr c dst src => Sys2Proof.Machine.execDictWr c dst src s
  | .cyc c dst => Sys2Proof.Machine.execCyc c dst s
  | .syncRd c dst src => Sys2Proof.Machine.execSyncRd c dst src s
  | .tagjob c dst src => Sys2Proof.Machine.execTagjob c dst src s
  | .scalarAccessReturn deepRetry => Sys2Proof.Machine.execScalarAccessReturn deepRetry s
  | .seqControlStart m => Sys2Proof.Machine.execSeqControlStart m s
  | .seqControlHalt m => Sys2Proof.Machine.execSeqControlHalt m s
  | .seqControlResume m => Sys2Proof.Machine.execSeqControlResume m s
  | .rankCheck ecc => Sys2Proof.Machine.execRankCheck ecc s
  | .hold origin => Sys2Proof.Machine.execHold origin s
  | .ready origin value => Sys2Proof.Machine.execReady origin value s
  | .release origin value => Sys2Proof.Machine.execRelease origin value s
  | .branch origin value => Sys2Proof.Machine.execBranch origin value s
  | .start origin value => Sys2Proof.Machine.execStart origin value s
  | .pulsePeriodExpiry => Sys2Proof.Machine.execPulsePeriodExpiry s
  | .pulse origin value => Sys2Proof.Machine.execPulse origin value s
  | .rankHalt origin value cause => Sys2Proof.Machine.execRankHalt origin value cause s
  | .rankPeerSignal origin obj issued => Sys2Proof.Machine.execRankPeerSignal origin obj issued s
  | .replanPeriodExpiry => Sys2Proof.Machine.execReplanPeriodExpiry s
  | .replanNow m value => Sys2Proof.Machine.execReplanNow m value s
  | .maintenancePhaseEnd array codes silent => Sys2Proof.Machine.execMaintenancePhaseEnd array codes silent s
  | .handover set => Sys2Proof.Machine.execHandover set s
  | .handoverWaitExpiry set => Sys2Proof.Machine.execHandoverWaitExpiry set s
  | .oldHomeErase array verify => Sys2Proof.Machine.execOldHomeErase array verify s
  | .marginSetRewrite array group => Sys2Proof.Machine.execMarginSetRewrite array group s
  | .bankTempSample bank quarters => Sys2Proof.Machine.execBankTempSample bank quarters s
  | .ringSensorSample bank fallPpm => Sys2Proof.Machine.execRingSensorSample bank fallPpm s
  | .backingIntervalExpiry => Sys2Proof.Machine.execBackingIntervalExpiry s
  | .arrayStatusSample => Sys2Proof.Machine.execArrayStatusSample s
  | .masterAccess m addr a => Sys2Proof.Machine.execMasterAccess m addr a s
  | .moveSubmit m addr => Sys2Proof.Machine.execMoveSubmit m addr s
  | .moveAccept => Sys2Proof.Machine.execMoveAccept s
  | .create rec => Sys2Proof.Machine.execCreate rec s
  | .destroy rec => Sys2Proof.Machine.execDestroy rec s
  | .promote rec => Sys2Proof.Machine.execPromote rec s
  | .evict rec => Sys2Proof.Machine.execEvict rec s
  | .setHints rec => Sys2Proof.Machine.execSetHints rec s
  | .tileCopyStart => Sys2Proof.Machine.execTileCopyStart s
  | .tileCopyEnd obj tile how => Sys2Proof.Machine.execTileCopyEnd obj tile how s
  | .oldLocationRelease tier location => Sys2Proof.Machine.execOldLocationRelease tier location s
  | .moveResultWrite rec => Sys2Proof.Machine.execMoveResultWrite rec s
  | .holdEnd obj => Sys2Proof.Machine.execHoldEnd obj s
  | .holdLimitExpiry obj => Sys2Proof.Machine.execHoldLimitExpiry obj s
  | .arrayWriteInstall m addr => Sys2Proof.Machine.execArrayWriteInstall m addr s
  | .arrayWriteRewrite m addr => Sys2Proof.Machine.execArrayWriteRewrite m addr s
  | .pulseVerifyLoop array rowInWindow => Sys2Proof.Machine.execPulseVerifyLoop array rowInWindow s
  | .arrayEraseEnd array verify => Sys2Proof.Machine.execArrayEraseEnd array verify s
  | .arrayWriteResult write => Sys2Proof.Machine.execArrayWriteResult write s
  | .storePageProgramEnd block page statusOk last => Sys2Proof.Machine.execStorePageProgramEnd block page statusOk last s
  | .storePageReadEnd part block item correctedBits lost => Sys2Proof.Machine.execStorePageReadEnd part block item correctedBits lost s
  | .storeBlockEraseEnd block verify => Sys2Proof.Machine.execStoreBlockEraseEnd block verify s
  | .storeEraseSuspend block => Sys2Proof.Machine.execStoreEraseSuspend block s
  | .storeScrub => Sys2Proof.Machine.execStoreScrub s
  | .deepWrite m addr data => Sys2Proof.Machine.execDeepWrite m addr data s
  | .ftlMerge extent => Sys2Proof.Machine.execFtlMerge extent s
  | .wearLevelMove => Sys2Proof.Machine.execWearLevelMove s
  | .readDisturbRelocate block weak lostTile => Sys2Proof.Machine.execReadDisturbRelocate block weak lostTile s
  | .nandStatusFail block erase => Sys2Proof.Machine.execNandStatusFail block erase s
  | .deepTrim m extent => Sys2Proof.Machine.execDeepTrim m extent s
  | .cascadePortRetry port => Sys2Proof.Machine.execCascadePortRetry port s
  | .linkTraining port step => Sys2Proof.Machine.execLinkTraining port step s
  | .linkUp link => Sys2Proof.Machine.execLinkUp link s
  | .linkDown link => Sys2Proof.Machine.execLinkDown link s
  | .routeChangeWaitEnd role => Sys2Proof.Machine.execRouteChangeWaitEnd role s
  | .dataFlit port flit => Sys2Proof.Machine.execDataFlit port flit s
  | .nak port ack => Sys2Proof.Machine.execNak port ack s
  | .replayTimeout port => Sys2Proof.Machine.execReplayTimeout port s
  | .retrain port => Sys2Proof.Machine.execRetrain port s
  | .cascadeWrite port p data => Sys2Proof.Machine.execCascadeWrite port p data s
  | .cascadeRead port p => Sys2Proof.Machine.execCascadeRead port p s
  | .readRsp port p data => Sys2Proof.Machine.execReadRsp port p data s
  | .writeAck port p => Sys2Proof.Machine.execWriteAck port p s
  | .remoteTimeout tag => Sys2Proof.Machine.execRemoteTimeout tag s
  | .cascadeSignal port p => Sys2Proof.Machine.execCascadeSignal port p s
  | .ringRec port p data => Sys2Proof.Machine.execRingRec port p data s
  | .ringCredit port p => Sys2Proof.Machine.execRingCredit port p s
  | .ringBind port p => Sys2Proof.Machine.execRingBind port p s
  | .dict port p seg => Sys2Proof.Machine.execDict port p seg s
  | .dictRsp port p seg => Sys2Proof.Machine.execDictRsp port p seg s
  | .probe port p => Sys2Proof.Machine.execProbe port p s
  | .epoch port p => Sys2Proof.Machine.execEpoch port p s
  | .recheck port p => Sys2Proof.Machine.execRecheck port p s
  | .staleEpochPacket at_ p => Sys2Proof.Machine.execStaleEpochPacket at_ p s
  | .livenessReadPeriod => Sys2Proof.Machine.execLivenessReadPeriod s
  | .deadTimeExpiry role => Sys2Proof.Machine.execDeadTimeExpiry role s
  | .declareDead m role => Sys2Proof.Machine.execDeclareDead m role s
  | .chainHeadLost => Sys2Proof.Machine.execChainHeadLost s
  | .recheckEnd pass test => Sys2Proof.Machine.execRecheckEnd pass test s
  | .roleAssign m value => Sys2Proof.Machine.execRoleAssign m value s
  | .t1LinkUp peerMaster sqi => Sys2Proof.Machine.execT1LinkUp peerMaster sqi s
  | .t1LinkDown => Sys2Proof.Machine.execT1LinkDown s
  | .t1RoleWrite m value => Sys2Proof.Machine.execT1RoleWrite m value s
  | .frameReceive frame => Sys2Proof.Machine.execFrameReceive frame s
  | .arpRequest mac senderIp ip => Sys2Proof.Machine.execArpRequest mac senderIp ip s
  | .icmpEcho mac senderIp ip rest => Sys2Proof.Machine.execIcmpEcho mac senderIp ip rest s
  | .segmentReceive m seg => Sys2Proof.Machine.execSegmentReceive m seg s
  | .read m r => Sys2Proof.Machine.execRead m r s
  | .write m r => Sys2Proof.Machine.execWrite m r s
  | .cancel m seq => Sys2Proof.Machine.execCancel m seq s
  | .segTimeout m => Sys2Proof.Machine.execSegTimeout m s
  | .forwardTimeout m role => Sys2Proof.Machine.execForwardTimeout m role s
  | .windowDataRead m n => Sys2Proof.Machine.execWindowDataRead m n s
  | .windowDataWrite m data => Sys2Proof.Machine.execWindowDataWrite m data s
  | .storeSettings m value => Sys2Proof.Machine.execStoreSettings m value s
  | .dictionaryWrite m index sub data => Sys2Proof.Machine.execDictionaryWrite m index sub data s
  | .perst => Sys2Proof.Machine.execPerst s
  | .functionLevelReset f => Sys2Proof.Machine.execFunctionLevelReset f s
  | .pcieLinkNotUsable why => Sys2Proof.Machine.execPcieLinkNotUsable why s
  | .barAccess f space offset a => Sys2Proof.Machine.execBarAccess f space offset a s
  | .streamTail stream value => Sys2Proof.Machine.execStreamTail stream value s
  | .chTail chan value => Sys2Proof.Machine.execChTail chan value s
  | .cqHead value => Sys2Proof.Machine.execCqHead value s
  | .mbGo mb value => Sys2Proof.Machine.execMbGo mb value s
  | .msixUnmask what => Sys2Proof.Machine.execMsixUnmask what s
  | .chEnableSet m chan => Sys2Proof.Machine.execChEnableSet m chan s
  | .chEnableClear m chan => Sys2Proof.Machine.execChEnableClear m chan s
  | .cqEnable m value => Sys2Proof.Machine.execCqEnable m value s
  | .descriptorRead chan => Sys2Proof.Machine.execDescriptorRead chan s
  | .channelTake => Sys2Proof.Machine.execChannelTake s
  | .copy hostErrorAt deepRetryAt => Sys2Proof.Machine.execCopy hostErrorAt deepRetryAt s
  | .fill => Sys2Proof.Machine.execFill s
  | .marker => Sys2Proof.Machine.execMarker s
  | .descriptorComplete => Sys2Proof.Machine.execDescriptorComplete s
  | .hostCompletionTimeout bytesDone => Sys2Proof.Machine.execHostCompletionTimeout bytesDone s
  | .crystalStable => Sys2Proof.Machine.execCrystalStable s
  | .crystalTimeout => Sys2Proof.Machine.execCrystalTimeout s
  | .clockFault bit ends => Sys2Proof.Machine.execClockFault bit ends s
  | .relockAttempt pll locked => Sys2Proof.Machine.execRelockAttempt pll locked s
  | .clkSrcWrite m clk value => Sys2Proof.Machine.execClkSrcWrite m clk value s
  | .clkRampStep clk => Sys2Proof.Machine.execClkRampStep clk s
  | .clockFaultClear m value => Sys2Proof.Machine.execClockFaultClear m value s
  | .clkOutSel m value => Sys2Proof.Machine.execClkOutSel m value s
  | .clockEnable m value => Sys2Proof.Machine.execClockEnable m value s
  | .blockGated block => Sys2Proof.Machine.execBlockGated block s
  | .cascPortPower m value => Sys2Proof.Machine.execCascPortPower m value s
  | .modeWrite m value => Sys2Proof.Machine.execModeWrite m value s
  | .umbraEntry m => Sys2Proof.Machine.execUmbraEntry m s
  | .umbraEntryEnd => Sys2Proof.Machine.execUmbraEntryEnd s
  | .wakeN lowNs => Sys2Proof.Machine.execWakeN lowNs s
  | .t1LinkEnergy => Sys2Proof.Machine.execT1LinkEnergy s
  | .umbraWake => Sys2Proof.Machine.execUmbraWake s
  | .logicTempSample sensor quarters => Sys2Proof.Machine.execLogicTempSample sensor quarters s
  | .supplyWarning rail => Sys2Proof.Machine.execSupplyWarning rail s
  | .supplyWarningClear rail => Sys2Proof.Machine.execSupplyWarningClear rail s
  | .supplyReset rail => Sys2Proof.Machine.execSupplyReset rail s
  | .supplyLatchedClear m value => Sys2Proof.Machine.execSupplyLatchedClear m value s
  | .powerOn straps outOfOrder => Sys2Proof.Machine.execPowerOn straps outOfOrder s
  | .resetN lowNs straps => Sys2Proof.Machine.execResetN lowNs straps s
  | .bootStepEnd how found => Sys2Proof.Machine.execBootStepEnd how found s
  | .selfRestart => Sys2Proof.Machine.execSelfRestart s
  | .ddrPeriodicTraining => Sys2Proof.Machine.execDdrPeriodicTraining s
  | .altClear m value => Sys2Proof.Machine.execAltClear m value s
  | .ledgerIndex m value => Sys2Proof.Machine.execLedgerIndex m value s
  | .restart m value => Sys2Proof.Machine.execRestart m value s
  | .fwUpdate m addr => Sys2Proof.Machine.execFwUpdate m addr s
  | .fwVerifyEnd => Sys2Proof.Machine.execFwVerifyEnd s
  | .coreHandover => Sys2Proof.Machine.execCoreHandover s
  | .coreHandoverFail revertFails => Sys2Proof.Machine.execCoreHandoverFail revertFails s
  | .fwConfirm m value => Sys2Proof.Machine.execFwConfirm m value s
  | .fwConfirmTimeExpiry => Sys2Proof.Machine.execFwConfirmTimeExpiry s
  | .fwCommitEnd ok => Sys2Proof.Machine.execFwCommitEnd ok s
  | .recovery => Sys2Proof.Machine.execRecovery s
  | .attRequest m value => Sys2Proof.Machine.execAttRequest m value s
  | .attReportDone => Sys2Proof.Machine.execAttReportDone s
  | .fatalEvent cause detail => Sys2Proof.Machine.execFatalEvent cause detail s
  | .counterClear m index sub value => Sys2Proof.Machine.execCounterClear m index sub value s
  | .countersClear m value => Sys2Proof.Machine.execCountersClear m value s
  | .holdBackExpiry op => Sys2Proof.Machine.execHoldBackExpiry op s
  | .holdBackTimeoutWrite m value => Sys2Proof.Machine.execHoldBackTimeoutWrite m value s
  | .holdLongestClear m value => Sys2Proof.Machine.execHoldLongestClear m value s
  | .pcieLinkUsable => Sys2Proof.Machine.execPcieLinkUsable s
  | .ringBindTimeout stream => Sys2Proof.Machine.execRingBindTimeout stream s
  | .idleFlit port flit => Sys2Proof.Machine.execIdleFlit port flit s
  | .umbraWakeEnd => Sys2Proof.Machine.execUmbraWakeEnd s
  | .modeChangeApplied => Sys2Proof.Machine.execModeChangeApplied s

end Sys2Proof.Machine
end

