-- ==== Sys2Proof/Safety.lean ====
section
/-!
DEFINITION. What a safe run is, in the terms that claims use: a step is safe when it answers a next state, and a run is
safe for k steps when each of them is; and the invariant that every step keeps.
-/
namespace Sys2Proof

/-- The step answers a next state. -/
def Machine.StepSafe (s : Machine.State) : Prop := ∃ t, Machine.step s = .next t

/-- The first `k` steps answer next states. -/
def Machine.RunSafe : Nat → Machine.State → Prop
  | 0, _ => True
  | k + 1, s => ∃ t, Machine.step s = .next t ∧ Machine.RunSafe k t

/-- What every step keeps, from any state that has it: the device memory, host memory, the sync objects and the counters
are in their canonical form (R318, R139), no counter is above 0xFFFF (R561), and no hidden remainder of a counter of
cycles reaches 1,024 (R562). -/
structure Machine.State.Sound (s : Machine.State) : Prop where
  mem : Machine.Memory.wf s.mem = true
  host : Machine.Memory.wf s.host = true
  sync : Machine.twf Machine.zeroWord s.sync = true
  cnt : Machine.twf Machine.zeroNat s.cnt = true
  capped : s.cnt.all (fun p => decide (p.2 ≤ 0xFFFF)) = true
  rest : s.cntRem.all (fun p => decide (p.2 < 1024)) = true

/-- A master's write to an entry is decided now: the dictionary answers, no move into or out of Umbra mode and no handover
of core 0 holds it, none of the master's earlier requests is unanswered, and the entry is open (R459 to R465). -/
abbrev Machine.State.entryReady (s : Machine.State) (m : Master) (i j : Nat) : Prop :=
  s.answers = true ∧ s.umbraMove = false ∧ s.coreHolds = false ∧ s.behind m = false ∧ s.entryOpen i j = true

/-- What an access that crosses two clock domains leaves while a clock ratio of R504 is broken: it was lost, was made once or
twice, or was altered, with no error report; which of these is free (log 9). -/
def Machine.Crossed (s : Machine.State) (access altered : Machine.State → Machine.State) (t : Machine.State) : Prop :=
  t = s.takeFree ∨ t = access s.takeFree ∨ t = access (access s.takeFree) ∨ t = altered s.takeFree

/-- The answer to a write of an entry that is decided now. -/
def Machine.State.wrote (s : Machine.State) (m : Master) (i j code : Nat) : Machine.State :=
  s.answer m code (Machine.entryType i j) Machine.svcWrite []

end Sys2Proof
end

