-- ==== Sys2Proof/Certificates/Slice0/Obligations.lean ====
section
/-!
DEFINITION. The statements for the provers: what the commands of each family do, what they leave, what the machine
keeps, and where it waits or refuses an access. A statement about a command's effect is an equation of its next state, so
it says too that the command completes and what it leaves unchanged; fields that a named operation of Machine/Ops.lean does
not touch are those its laws in Laws/State.lean leave.
-/
open Sys2Proof Sys2Proof.Machine

/-- A step runs the command at the front of its queue on the state with the queue's rest. -/
def Obligations.StepRunsFrontCommand : Prop :=
  ∀ (c : Instr) (rest : List Instr) (s : State),
    step { s with pending := c :: rest } = exec c { s with pending := rest }

/-- Log 2 (DESIGN CHOICE), not a rule: with nothing waiting a step lets one sequencer cycle pass, and one tick while the
sequencer's clock is off. -/
def Obligations.EmptyQueueLetsTimePass : Prop :=
  ∀ s : State, s.pending = [] →
    ∃ t, step s = .next t ∧ t.pending = []
      ∧ (s.seqClockRuns = true → t.clk.cycle = s.clk.cycle + 1
          ∧ t.clk.ticks = s.clk.ticks + (s.clk.frac + s.cycleUnits) / tickUnits)
      ∧ (s.seqClockRuns = false → t.clk.cycle = s.clk.cycle ∧ t.clk.ticks = s.clk.ticks + 1 ∧ t.mem = s.mem
          ∧ t.seq = s.seq)

/-- What reset leaves, as R139, R163, R172, R183, R274, R497, R502, R528 and R561 give it. -/
def Obligations.ResetValues : Prop :=
  State.reset.pending = []
  ∧ (∀ n, State.reset.y n = 0) ∧ (∀ r, State.reset.x r = 0)
  ∧ State.reset.seq.st = .halted ∧ State.reset.seq.stack = [] ∧ State.reset.seq.excHead = 0
  ∧ (∀ i j, State.reset.cnt? i j = 0)
  ∧ (∀ n, (State.reset.stream n).st = .disabled)
  ∧ (∀ k, (State.reset.chan k).st = .disabled)
  ∧ (∀ k, (State.reset.pll k).locked = false)
  ∧ State.reset.pwr.mode = 1 ∧ State.reset.boot.st = .booting

/-- The invariant of Safety.lean holds after reset. -/
def Obligations.ResetIsSound : Prop :=
  State.reset.Sound

/-- Every step keeps the canonical forms, the cap of the counters and the range of their remainders. -/
def Obligations.StepsKeepSound : Prop :=
  ∀ s t : State, s.Sound → step s = .next t → t.Sound

/-- No command stops the machine: each answers a next state in every state, since the spec gives every command an effect. -/
def Obligations.NoCommandStops : Prop :=
  ∀ (c : Instr) (s : State), ∃ t, exec c s = .next t

/-- An answer of code 0 to a write changes nothing but where answers go: the sessions, the mailboxes, the ports' queues,
the bundle's own access and what leaves the device. -/
def Obligations.AnswersTouchPathsOnly : Prop :=
  ∀ (s : State) (m : Master) (i j : Nat),
    (m = .bundle → ∀ a d x y, s.seq.access = some a → a.op ≠ .dictRd d x y) →
    let t := s.wrote m i j 0
    t.pending = s.pending ∧ t.clk = s.clk ∧ t.sync = s.sync ∧ t.mem = s.mem ∧ t.host = s.host ∧ t.arr = s.arr
    ∧ t.disp = s.disp ∧ t.eng = s.eng ∧ t.str = s.str ∧ t.mig = s.mig ∧ t.awr = s.awr ∧ t.media = s.media
    ∧ t.dma = s.dma ∧ t.pwr = s.pwr ∧ t.boot = s.boot ∧ t.ident = s.ident ∧ t.ent = s.ent
    ∧ t.seq = (if m = .bundle ∧ s.seq.access.isSome
        then { s.seq with access := none, planned := max s.seq.planned (s.clk.cycle + 1) } else s.seq)

/-- The branches, the call stack and IDLE, on a single device with no halt owed. IDLE reads the records of the rings that it
names; work in one of them lets issue go on.
TRAP: the record goes to its place of the ring, EXC_HEAD counts it, no other byte of memory, no register, no sync
object and no stream changes, and issue goes on.
HALT: nothing more issues, every current job closes failed, and the operations issued, memory and the registers stay. -/
def Obligations.ControlSlots : Prop :=
  (∀ (s : State) (c : SlotCtx) (r : BitVec 5) (a m : BitVec 16), s.inRank = false → s.seq.haltOwed = none →
     let dest := fun (t : State) (target : BitVec 16) => ({ t with seq := { t.seq with
       pc := target, planned := max t.seq.planned (s.clk.cycle + max 4 (c.rep.toNat + 1)) } } : State)
     let read := s.readRings m
     exec (.jump c a) s = .next (dest s a)
     ∧ (s.x r ≠ 0 → exec (.bnz c r a) s = .next (dest s a)) ∧ (s.x r = 0 → exec (.bnz c r a) s = .next s)
     ∧ (s.x r = 0 → exec (.bz c r a) s = .next (dest s a)) ∧ (s.x r ≠ 0 → exec (.bz c r a) s = .next s)
     ∧ (s.x r = 0 → exec (.loop c r a) s = .next s)
     ∧ (s.x r = 1 → exec (.loop c r a) s = .next (s.xSet r 0))
     ∧ (1 < (s.x r).toNat → exec (.loop c r a) s = .next (dest (s.xSet r (s.x r - 1)) a))
     ∧ (s.seq.stack.length < 8 →
         exec (.call c a) s = .next (dest { s with seq := { s.seq with stack := (c.bundle + 1) :: s.seq.stack } } a))
     ∧ (∀ b rest, s.seq.stack = b :: rest →
         exec (.ret c) s = .next (dest { s with seq := { s.seq with stack := rest } } b))
     ∧ (m ≠ 0 → read.maskedWork m = true → exec (.idle c m) s = .next read)
     ∧ (m ≠ 0 → read.maskedWork m = false →
         exec (.idle c m) s = .next { read with seq := { s.seq with st := .idle, idle := some m } })
     ∧ (s.seq.st = .idle → s.seq.idle = some m → read.maskedWork m = true →
         exec .idleResume s = .next { read with seq := { s.seq with
           st := .running, idle := none, planned := max s.seq.planned (s.clk.cycle + 8) } }))
  ∧ (∀ (s : State) (c : SlotCtx) (code : BitVec 16), s.seq.haltOwed = none →
       let a := excBase + 32 * (s.seq.excHead.toNat % 256)
       ∃ t, exec (.trap c code) s = .next t
         ∧ t.seq = { s.seq with excHead := s.seq.excHead + 1 }
         ∧ Memory.gets t.mem a 32 = (s.slotRec c causeTrap code.toNat).bytes
         ∧ (∀ b, b < a ∨ a + 32 ≤ b → Memory.byte t.mem b = Memory.byte s.mem b)
         ∧ t.cnt? 0x6004 7 = min 0xFFFF (s.cnt? 0x6004 7 + 1)
         ∧ t.clk = s.clk ∧ t.sync = s.sync ∧ t.host = s.host ∧ t.arr = s.arr ∧ t.eng = s.eng ∧ t.str = s.str
         ∧ t.dma = s.dma ∧ t.mig = s.mig ∧ t.casc = s.casc ∧ t.ent = s.ent ∧ t.out = s.out ∧ t.pending = s.pending)
  ∧ (∀ (s : State) (c : SlotCtx), s.seq.haltOwed = none →
       ∃ t, exec (.halt c) s = .next t
         ∧ t.seq = { s.seq with st := .halted, stall := none, idle := none, haltOwed := none }
         ∧ (∀ n, n < 16 → (t.stream n).cur = none)
         ∧ (∀ n j, n < 16 → (s.stream n).cur = some j → ∃ k ∈ (t.stream n).closing,
             k.num = j.num ∧ k.failed = true ∧ k.halted = true)
         ∧ t.disp = s.disp ∧ t.eng = s.eng ∧ t.dma = s.dma ∧ t.mem = s.mem ∧ t.sync = s.sync ∧ t.clk = s.clk
         ∧ t.arr = s.arr ∧ t.mig = s.mig ∧ t.ent = s.ent ∧ t.pending = s.pending)

/-- R136. The call stack holds 8 entries, and the index after 65,535 is 0: a CALL with 8 held and a RET with none write a
STACK record and leave the stack and SEQ_PC, and issue goes on unless EXC_POLICY (R175) halts it; any other CALL pushes the
index of the next bundle, and any other RET takes the newest one. -/
def Obligations.CallStackBounds : Prop :=
  ∀ (s : State) (c : SlotCtx) (a : BitVec 16), s.seq.haltOwed = none →
    let faulted := fun (t : State) => t.seq.stack = s.seq.stack ∧ t.seq.pc = s.seq.pc
      ∧ t.seq.excHead = s.seq.excHead + 1
      ∧ Memory.gets t.mem (excBase + 32 * (s.seq.excHead.toNat % 256)) 32
          = ({ s.slotRec c causeStack 0 with halted := s.policyHalts causeStack } : ExcRec).bytes
      ∧ (s.ent? 0x4100 5 ≠ 1 → t.seq = { s.seq with excHead := s.seq.excHead + 1, taking := t.seq.taking })
    (8 ≤ s.seq.stack.length → ∃ t, exec (.call c a) s = .next t ∧ faulted t)
    ∧ (s.seq.stack = [] → ∃ t, exec (.ret c) s = .next t ∧ faulted t)
    ∧ (s.seq.stack.length < 8 → ∃ t, exec (.call c a) s = .next t
      ∧ t.seq.stack = (if c.bundle = 0xFFFF then 0 else c.bundle + 1) :: s.seq.stack ∧ t.seq.stack.length ≤ 8
      ∧ t.seq.pc = a)
    ∧ (∀ b rest, s.seq.stack = b :: rest → ∃ t, exec (.ret c) s = .next t ∧ t.seq.stack = rest ∧ t.seq.pc = b)
    ∧ (s.gated blkSeq = false → s.inRank = false → s.clk.due = [] → s.seq.planned ≤ s.clk.cycle →
      s.seq.st = .running → s.bundleNow = 0 → s.canIssue 0 = true → s.fetchChoices s.seq.pc.toNat = [0] →
      ∃ t, exec (.bundleIssue .clean) s = .next t
        ∧ t.seq.pc = (if s.seq.pc = 0xFFFF then 0 else s.seq.pc + 1))

/-- The sync slots: a signal adds modulo 2^32, a set replaces, each on one object, and a WAIT that holds changes
nothing. SIGNAL_PEER to this device adds here, to a member of its rank leaves with the issue cycle (R422), and to another sends it
a SIGNAL packet.
A WAIT that does not hold stalls the sequencer from this cycle and changes nothing else.
A master's write of VALUE sets the object and one of ADD adds to it; while the sequencer's clock is gated the access fails on
its path. One object is changed by a write, every other keeps its value, and values wrap at 32 bits; in a rank the value before is
remembered for the checks of the next cycles. -/
def Obligations.SyncSlots : Prop :=
  (∀ (s : State) (c : SlotCtx) (o a : BitVec 14) (r : BitVec 5) (d : BitVec 5), s.seq.haltOwed = none →
     exec (.signal c o a) s = .next (s.ySet o.toNat (s.y o.toNat + a.zeroExtend 32))
     ∧ exec (.set c o a) s = .next (s.ySet o.toNat (a.zeroExtend 32))
     ∧ exec (.setX c o r) s = .next (s.ySet o.toNat ((s.x r).truncate 32))
     ∧ (a.toNat ≤ (s.y o.toNat).toNat → exec (.waitGe c o a) s = .next s)
     ∧ (0 ≤ (s.y o.toNat - (s.x r).truncate 32).toInt → exec (.waitGeX c o r) s = .next s)
     ∧ (s.rolePresent d.toNat = true → s.casc.role = d → s.casc.roleV = true →
         exec (.signalPeer c o d) s = .next (s.ySet o.toNat (s.y o.toNat + 1)))
     ∧ (s.rolePresent d.toNat = true → s.casc.role ≠ d ∨ s.casc.roleV = false → s.isMember d = false →
         exec (.signalPeer c o d) s = .next (s.send ptSignal d o.toNat 0 1))
     ∧ (s.rolePresent d.toNat = true → s.casc.role ≠ d → s.isMember d = true →
         exec (.signalPeer c o d) s = .next { s with out := s.out ++ [.peerSignal d o (BitVec.ofNat 24 s.rankCycle)] }))
  ∧ (∀ (s : State) (c : SlotCtx) (o a : BitVec 14) (r : BitVec 5), s.seq.stall = none →
     let stalled : State := { s with seq := { s.seq with st := .stalled, stall := some {
       since := s.clk.cycle, tick := s.clk.ticks, window := s.ent? 0x4400 4, held := false, probed := false } } }
     ((s.y o.toNat).toNat < a.toNat → exec (.waitGe c o a) s = .next stalled)
     ∧ ((s.y o.toNat - (s.x r).truncate 32).toInt < 0 → exec (.waitGeX c o r) s = .next stalled))
  ∧ (∀ (s : State) (n k : Nat) (v : Word),
       (s.ySet n v).y k = (if k = n then v else s.y k)
       ∧ (s.yAdd n v).y k = (if k = n then s.y n + v else s.y k)
       ∧ (s.inRank = false → s.ySet n v = { s with sync := (s.ySet n v).sync })
       ∧ s.ySet n v = { s with sync := (s.ySet n v).sync, seq := { s.seq with syncLog := (s.ySet n v).seq.syncLog } })
  ∧ (∀ (s : State) (m : Master) (o : BitVec 14) (v : Word),
       (s.gated blkSeq = false →
         exec (.syncValueWrite m o v) s = .next ((s.ySet o.toNat v).emit (.pathOk m))
         ∧ exec (.syncAddWrite m o v) s = .next ((s.ySet o.toNat (s.y o.toNat + v)).emit (.pathOk m)))
       ∧ (s.gated blkSeq = true →
         let failed := if m = .host then (s.emit (.pathFail m)).count 0x600D 1 clsFailed else s.emit (.pathFail m)
         exec (.syncValueWrite m o v) s = .next failed ∧ exec (.syncAddWrite m o v) s = .next failed))

/-- X0 reads zero and discards writes, any other register takes the value and the rest keep theirs; the scalar arithmetic is
modulo 2^64 and changes the register file by `xSet` alone, and CYC reads CYCLE_COUNT. -/
def Obligations.ScalarArithmetic : Prop :=
  (∀ (s : State) (r q : BitVec 5) (v : DWord),
     s.x 0 = 0 ∧ s.xSet 0 v = s
     ∧ (r ≠ 0 → (s.xSet r v).x r = v) ∧ (q ≠ r → (s.xSet r v).x q = s.x q)
     ∧ s.xSet r v = { s with seq := { s.seq with regs := (s.xSet r v).seq.regs } })
  ∧ (∀ (s : State) (c : SlotCtx) (d r : BitVec 5) (i : BitVec 9), s.seq.haltOwed = none →
     exec (.addi c d r i) s = .next (s.xSet d (s.x r + i.signExtend 64))
     ∧ exec (.add c d r) s = .next (s.xSet d (s.x d + s.x r))
     ∧ exec (.sub c d r) s = .next (s.xSet d (s.x d - s.x r))
     ∧ exec (.and c d r) s = .next (s.xSet d (s.x d &&& s.x r))
     ∧ exec (.or c d r) s = .next (s.xSet d (s.x d ||| s.x r))
     ∧ exec (.shli c d r i) s = .next (s.xSet d (s.x r <<< (i.toNat % 64)))
     ∧ exec (.shri c d r i) s = .next (s.xSet d (s.x r >>> (i.toNat % 64)))
     ∧ exec (.movhi c d i) s = .next (s.xSet d ((s.x d <<< 9) ||| i.zeroExtend 64))
     ∧ exec (.cyc c d) s = .next (s.xSet d (BitVec.ofNat 64 s.clk.cycle)))

/-- The scalar accesses: an LD or ST of the buffer tier takes effect 12 cycles later, a SYNC_RD 2; every other access
waits for its return, holding the value or the address it was given.
An LD or ST whose address is no multiple of 8 is a slot fault of cause RANGE whose record carries the address, and
nothing is loaded or stored.
SCALAR_ACCESS_RETURN: a TAGJOB returns the job register block's address, an LD its eight bytes, an ST stores them; a
dictionary access is asked once. A deep-tier load whose read is retried is held, and the hold counted once; while a clock ratio
that the access crosses is broken it may also be lost, done twice or altered (R504). -/
def Obligations.ScalarAccesses : Prop :=
  (∀ (s : State) (c : SlotCtx) (d r : BitVec 5) (i : BitVec 9), s.seq.haltOwed = none →
     let a := (s.x r + (i.signExtend 64 <<< 3)).toNat
     let waits := fun (op : ScalarOp) => ({ s with seq := { s.seq with
       access := some { ctx := c, job := s.jobOf c, op := op, hold := none, sent := false } } } : State)
     let later := fun (k : Nat) (e : Due) => ({ s with clk := { s.clk with
       due := insertDue (s.clk.cycle + k) e s.clk.due } } : State)
     (a % 8 = 0 → inBuffer a 8 = true → s.gated blkBuffer = false →
       exec (.ld c d r i) s = .next (later 12 (.reg d (BitVec.ofNat 64 (numAt s.mem a 8)) (s.jobOf c)))
       ∧ exec (.st c d r i) s = .next (later 12 (.store a (leBytes 8 (s.x d).toNat) (s.jobOf c))))
     ∧ (a % 8 = 0 → inBuffer a 8 = true → s.gated blkBuffer = true →
       exec (.ld c d r i) s = .next (busError c a s).settleHalt ∧ exec (.st c d r i) s = .next (busError c a s).settleHalt)
     ∧ (a % 8 = 0 → inBuffer a 8 = false →
       exec (.ld c d r i) s = .next (waits (.ld d a))
       ∧ exec (.st c d r i) s = .next (waits (.st a (leBytes 8 (s.x d).toNat))))
     ∧ exec (.syncRd c d r) s = .next (later 2 (.reg d ((s.y ((s.x r).toNat % 2 ^ 14)).zeroExtend 64) (s.jobOf c)))
     ∧ exec (.dictRd c d r) s = .next (waits (.dictRd d (entryIdx (s.x r)) (entrySub (s.x r))))
     ∧ exec (.dictWr c d r) s = .next (waits (.dictWr (entryIdx (s.x r)) (entrySub (s.x r)) (s.x d)))
     ∧ exec (.tagjob c d r) s = .next (waits (.tagjob d (BitVec.ofNat 4 (s.x r).toNat))))
  ∧ (∀ (s : State) (c : SlotCtx) (d r : BitVec 5) (i : BitVec 9), s.seq.haltOwed = none → s.ent? 0x4100 5 = 0 →
     let a := (s.x r + (i.signExtend 64 <<< 3)).toNat
     a % 8 ≠ 0 →
     let rec' : ExcRec := { s.slotRec c causeRange 0 with addr := a }
     ∃ t, exec (.ld c d r i) s = .next t ∧ exec (.st c d r i) s = .next t
       ∧ t.seq = { s.seq with excHead := s.seq.excHead + 1, taking := t.seq.taking }
       ∧ Memory.gets t.mem (excBase + 32 * (s.seq.excHead.toNat % 256)) 32 = rec'.bytes
       ∧ t.clk = s.clk ∧ t.sync = s.sync ∧ t.host = s.host)
  ∧ (∀ (s : State) (x : ScalarAccess) (dr : Bool), s.seq.access = some x → (dr = true → retriesDeep x s = false) →
       s.clk.ratioLost &&& s.scalarRatios x = 0 →
       (∀ d n, x.op = .tagjob d n →
         exec (.scalarAccessReturn dr) s = .next ((endAccess x s).xSet d (BitVec.ofNat 64 (streamBase + 512 * n.toNat + 0x100))))
       ∧ (∀ d a t bs, x.op = .ld d a → s.pathRead .bundle a 8 false (ctxStream x.ctx) = .done t bs →
         exec (.scalarAccessReturn dr) s = .next ((endAccess x t).xSet d (BitVec.ofNat 64 (leNat bs))))
       ∧ (∀ a bs t e, x.op = .st a bs → s.pathWrite .bundle a bs (ctxStream x.ctx) true = .done t e →
         exec (.scalarAccessReturn dr) s = .next (endAccess x t))
       ∧ (∀ d i j, x.op = .dictRd d i j → x.sent = false →
         exec (.scalarAccessReturn dr) s = .next (dictRequest .bundle { index := i, sub := j, type := 0, want := 0, data := [] } false
           { s with seq := { s.seq with access := some { x with sent := true } } }))
       ∧ (∀ i j v, x.op = .dictWr i j v → x.sent = false →
         exec (.scalarAccessReturn dr) s = .next (dictRequest .bundle
           { index := i, sub := j, type := 0, want := 0, data := dictWrData i.toNat j.toNat v } true
           { s with seq := { s.seq with access := some { x with sent := true } } }))
       ∧ (endAccess x s).seq.access = none)
  ∧ (∀ (s : State) (x : ScalarAccess) (d : BitVec 5) (a : Nat), s.seq.access = some x → x.op = .ld d a →
       s.inDeep a 8 = true → s.bulkPaused = false →
       let t : State := { s with seq := { s.seq with access := some { x with hold := some s.clk.ticks } } }
       exec (.scalarAccessReturn true) s = .next (if x.hold.isSome then s else t.count 0x6010 1 clsRecovered))
  ∧ (∀ (s : State) (x : ScalarAccess), s.seq.access = some x → s.clk.ratioLost &&& s.scalarRatios x ≠ 0 →
       let lost : State := { s with freeIx := s.freeIx + 1 }
       let done := withAccess returnScalar lost
       exec (.scalarAccessReturn false) s = .next lost ∨ exec (.scalarAccessReturn false) s = .next done
       ∨ exec (.scalarAccessReturn false) s = .next (withAccess returnScalar done)
       ∨ exec (.scalarAccessReturn false) s = .next (withAccess alteredScalar lost))

/-- The writes of SEQ_CONTROL by a master: start clears the registers, goes to SEQ_START and restarts RANK_CYCLE, resume keeps them and goes on
at SEQ_PC, halt closes the jobs; a start or resume while active is BUSY.
In a rank its master sends START for a cycle 64 ahead, in which issue starts at SEQ_START, on a resume too (R419); another
member answers BUSY, and a halt is the rank's 49 cycles later. That a start empties the call stack is log 90, a DESIGN
CHOICE. -/
def Obligations.SequencerControl : Prop :=
  ∀ (s : State) (m : Master), s.entryReady m 0x4100 1 →
    let cleared := fun (t : State) (cyc : Nat) => ({ t with seq := { t.seq with
      st := .running, pc := BitVec.ofNat 16 (s.ent? 0x4100 3), regs := [], stack := [], planned := cyc,
      stall := none, idle := none, haltOwed := none } } : State)
    let resumed : State := { s with seq := { s.seq with
      st := .running, planned := s.clk.cycle + 1, stall := none, idle := none, haltOwed := none } }
    let named := bits (s.rankCycle + 64) 0 24
    let told := s.sendLock 6 named
    let alone : State := { s with casc := { s.casc with
      lock := { lockReset with started := true, offset := -((s.clk.cycle : Int) + 1) } } }
    let together := cleared { told with casc := { told.casc with
      lock := { lockReset with started := true, offset := (named : Int) - ((s.clk.cycle : Int) + 64) } } } (s.clk.cycle + 64)
    (s.inRank = false → s.seqActive = false → s.boot.stopped = false →
      exec (.seqControlStart m) s = .next ((cleared alone (s.clk.cycle + 1)).wrote m 0x4100 1 0)
      ∧ exec (.seqControlResume m) s = .next (resumed.wrote m 0x4100 1 0))
    ∧ (s.inRank = true → s.seqActive = false → s.boot.stopped = false → s.isRankMaster = true →
      exec (.seqControlStart m) s = .next (together.wrote m 0x4100 1 0)
      ∧ exec (.seqControlResume m) s = .next (together.wrote m 0x4100 1 0))
    ∧ (s.inRank = true → s.seqActive = false → s.boot.stopped = false → s.isRankMaster = false →
      exec (.seqControlStart m) s = .next (s.wrote m 0x4100 1 abBusy)
      ∧ exec (.seqControlResume m) s = .next (s.wrote m 0x4100 1 abBusy))
    ∧ (s.seqActive = true → s.inRank = false →
      exec (.seqControlHalt m) s = .next ((s.haltSeq .halted).wrote m 0x4100 1 0))
    ∧ (s.seqActive = true → s.inRank = true →
      exec (.seqControlHalt m) s = .next ((s.rankHaltAll (.halt false)).wrote m 0x4100 1 0))
    ∧ (s.seqActive = true →
      exec (.seqControlStart m) s = .next (s.wrote m 0x4100 1 abBusy)
      ∧ exec (.seqControlResume m) s = .next (s.wrote m 0x4100 1 abBusy))

/-- BUNDLE_ISSUE and STALLED_BUNDLE_ISSUE on a single device, in the bundle's cycle: SEQ_PC goes to the next bundle (index
65,535 is followed by 0), the next issue is REPEAT + 1 cycles later, and the slots act in order on the state that the cycle
began with. A corrected error of the fetch is counted; a double-bit error halts the sequencer with no slot run (R170). A
bundle with a condition that does not hold stalls. -/
def Obligations.BundleIssues : Prop :=
  ∀ (s : State) (w : BitVec 512), s.gated blkSeq = false → s.inRank = false → s.clk.due = [] →
    s.seq.planned ≤ s.clk.cycle → s.fetchChoices s.seq.pc.toNat = [w] → s.bundleNow = w →
    let l := decBundle s.seq.pc w.toNat
    let go := fun (s : State) => ({ countStall s with seq := { s.seq with
      st := .running, stall := none, idle := none, pc := s.seq.pc + 1, planned := s.clk.cycle + 1 + w.toNat % 1024
      taking := (l.filterMap (fun x => takenBy s x.2)).map (fun r => (r, 0)) } } : State)
    let slots := fun (s : State) => l.foldl (fun v x => slotStep s x v) (go s)
    let after := fun (s : State) => ({ slots s with seq := { (slots s).seq with taking := [] } } : State).settleHalt
    let corrected := s.count 0x6004 5 clsCorrected
    (s.canIssue w = true → s.seq.st = .running →
      exec (.bundleIssue .clean) s = .next (after s) ∧ exec (.bundleIssue .single) s = .next (after corrected)
      ∧ exec (.bundleIssue .double) s = .next (ibufHalt (slotCtx w.toNat s.seq.pc 15) s))
    ∧ (s.canIssue w = true → s.seq.st = .stalled →
      exec (.stalledBundleIssue .clean) s = .next (after s)
      ∧ exec (.stalledBundleIssue .single) s = .next (after corrected)
      ∧ exec (.stalledBundleIssue .double) s = .next (ibufHalt (slotCtx w.toNat s.seq.pc 15) s))
    ∧ (s.canIssue w = false → s.seq.st = .running → exec (.bundleIssue .clean) s = .next (beginStall s))

/-- Issue in a rank. A check that passes is noted, one that fails sends HOLD and stalls; a double-bit error at the check keeps the
bundle from every member. A HOLD of a member is noted, for the bundle that it speaks of; a READY speaks for every holder behind it
and goes on; the master's RELEASE names h + 48 once every member that held is ready and the planned cycle has come, and a member
notes the cycle it names. That a check sees what took effect by its check cycle, also when it is made later, is R142 with
R418. -/
def Obligations.RankIssueWords : Prop :=
  ∀ (s : State) (o : BitVec 5) (v : BitVec 24),
    let lock := fun (l : Lockstep) => ({ s with casc := { s.casc with lock := l } } : State)
    let k := s.casc.lock
    let h := s.rankOf v
    let q := s.clk.cycle + 24 - s.pathDelay o.toNat
    let behind := k.holds.filter (fun r => decide (r ≠ s.casc.role) && decide (s.lastHop r = s.lastHop o))
    let readied : Lockstep := { k with
      readies := (addOnce o behind).foldr addOnce k.readies, latest := if k.readies = [] then h else max k.latest h }
    (s.isMember o = true → s.seq.st ≠ .running ∨ q ≤ s.seq.planned → exec (.hold o) s = .next
      ((lock { k with holds := addOnce o k.holds }).forwardLock o 2 (s.rankCycle % 2 ^ 24)))
    ∧ (s.isMember o = true → s.seq.st = .running → s.seq.planned < q → exec (.hold o) s = .next
      ((lock { k with later := k.later ++ [(o, q)] }).forwardLock o 2 (s.rankCycle % 2 ^ 24)))
    ∧ (s.isMember o = true → s.isRankMaster = false → exec (.ready o v) s = .next
        ((lock readied).passReady (s.wordPorts o.toNat) o))
    ∧ (s.isMember o = true → s.isRankMaster = true → k.releaseAt = none → k.holds ≠ [] → s.seq.planned ≤ s.clk.cycle →
        (∀ r ∈ k.holds, r ∈ readied.readies) →
        let told := (lock readied).sendLock 4 ((readied.latest + 48) % 2 ^ 24)
        exec (.ready o v) s = .next (({ told with casc := { told.casc with
          lock := { readied with releaseAt := some (readied.latest + 48) } } } : State).passReady (s.wordPorts o.toNat) o))
    ∧ (s.isMaster o = true → exec (.release o v) s = .next
        ((lock { k with releaseAt := some h }).forwardLock o 4 v.toNat))
    ∧ (s.inRank = true → s.issuing .running = true → s.checked = false → s.checkCycle ≤ s.clk.cycle →
        let read := readIdle s.bundleNow s
        let told := read.sendLock 2 (s.rankCycle % 2 ^ 24)
        ((read.asOf s.checkCycle).canIssue s.bundleNow = true → exec (.rankCheck .clean) s = .next { read with
          casc := { s.casc with lock := { k with passed := true } } })
        ∧ ((read.asOf s.checkCycle).canIssue s.bundleNow = false → s.seq.stall = none →
          exec (.rankCheck .clean) s = .next { told with
            casc := { told.casc with lock := { k with holds := addOnce s.casc.role k.holds } }
            seq := { s.seq with st := .stalled, stall := some {
              since := s.clk.cycle, tick := s.clk.ticks, window := s.ent? 0x4400 4, held := false, probed := false } } })
        ∧ exec (.rankCheck .single) s = exec (.rankCheck .clean) (s.count 0x6004 5 clsCorrected)
        ∧ (s.seq.stall = none → ∃ t, exec (.rankCheck .double) s = .next t ∧ t.casc.lock.blocked = true
          ∧ s.casc.role ∈ t.casc.lock.holds ∧ t.seq.st = .stalled ∧ t.seq.pc = s.seq.pc
          ∧ t.clk.due = (if s.isRankMaster then insertDue (s.clk.cycle + 49) (.halt true) s.clk.due else s.clk.due)))

/-- Agreement in a rank: a BRANCH word is held until every member's is, and words that agree are dropped; words that differ,
or a PULSE that does not agree with RANK_CYCLE, halt the rank with LOCKSTEP in the cycle after the one that HALT names; the
master sends PULSE at the multiples of PULSE_PERIOD.
The rank's START starts issue at SEQ_START with the registers cleared, in the cycle named; the master's HALT halts after the
bundles of the cycle named, and a member's asks the master for it; a SIGNAL_PEER of a member takes effect at the end of cycle
t + 24. A word goes on to members that the sender's cable does not reach (log 112, DEDUCED); when START arrives is log 43, the
cycle of LOCKSTEP log 39. -/
def Obligations.RankAgreement : Prop :=
  (∀ (s : State) (o r : BitVec 5) (v : BitVec 24),
     let words := s.casc.lock.words ++ [(o, v)]
     let withWords := fun (l : List (BitVec 5 × BitVec 24)) =>
       ({ s with casc := { s.casc with lock := { s.casc.lock with words := l } } } : State)
     let members := s.rankMembers.map (fun r => BitVec.ofNat 5 r)
     let dropped := withWords (members.foldl (fun l r => l.eraseP (fun w => decide (w.1 = r))) words)
     let firstOf := fun (r : BitVec 5) => (words.find? (fun w => decide (w.1 = r))).map (fun w => w.2)
     let d := s.pathDelay o.toNat
     (s.isMember o = true → s.isRankMaster = false →
       exec (.branch o v) s = .next ((withWords words).forwardLock o 5 v.toNat))
     ∧ (s.isMember o = true → r ∈ members → firstOf r = none →
       exec (.branch o v) s = .next ((withWords words).forwardLock o 5 v.toNat))
     ∧ (∀ w, s.isMember o = true → s.isRankMaster = true → (∀ r ∈ members, firstOf r = some w) →
       exec (.branch o v) s = .next (dropped.forwardLock o 5 v.toNat))
     ∧ (s.isMember o = true → s.isRankMaster = true → (∀ r ∈ members, firstOf r ≠ none) → o ∈ members →
       firstOf o ≠ firstOf r → r ∈ members →
       exec (.branch o v) s = .next ((dropped.rankHaltAll
         (.lockstep (s.lockRec 0 (s.clk.cycle + 49)))).forwardLock o 5 v.toNat))
     ∧ (s.isMaster o = true → o ≠ s.casc.role → (v.toNat + d) % 2 ^ 24 = s.rankCycle % 2 ^ 24 →
       exec (.pulse o v) s = .next (s.forwardLock o 1 v.toNat))
     ∧ (s.isMaster o = true → o ≠ s.casc.role → (v.toNat + d) % 2 ^ 24 ≠ s.rankCycle % 2 ^ 24 →
       exec (.pulse o v) s = .next
         ((s.rankHaltAll (.lockstep (s.lockRec 0 (s.clk.cycle + 49)))).forwardLock o 1 v.toNat))
     ∧ (s.inRank = true → s.isRankMaster = true → s.clk.due = [] → s.seqClockRuns = true →
       let p := max 1 (s.ent? 0x7000 5)
       ∃ t : State, exec .pulsePeriodExpiry s = .next (t.sendLock 1 (t.rankCycle % 2 ^ 24))
         ∧ t.clk.cycle = s.clk.cycle + (p - s.rankCycle % p)
         ∧ t.out = s.out ∧ t.seq = s.seq ∧ t.mem = s.mem ∧ t.sync = s.sync ∧ t.casc = s.casc))
  ∧ (∀ (s : State) (o : BitVec 5) (obj : BitVec 14) (v : BitVec 24),
     (s.isMaster o = true → s.seqActive = false → s.boot.stopped = false →
       let c := s.clk.cycle + (64 - s.pathDelay o.toNat)
       exec (.start o v) s = .next (({ s with
         seq := { s.seq with st := .running, pc := BitVec.ofNat 16 (s.ent? 0x4100 3), regs := [], stack := [], planned := c,
                             stall := none, idle := none, haltOwed := none }
         casc := { s.casc with lock := { lockReset with started := true, offset := (v.toNat : Int) - (c : Int) } } }
           : State).forwardLock o 6 v.toNat))
     ∧ (s.isMember o = true →
       let k := s.cycleOfRank v.toNat + 1
       let halting := fun (d : Due) => ({ s with clk := { s.clk with due := insertDue k d s.clk.due } } : State)
       let goesOn := fun (t : State) (x : HaltCause) =>
         (s.isRankMaster = false → exec (.rankHalt o v x) s = .next ((if s.isMaster o then t else s).forwardLock o 7 v.toNat))
         ∧ (s.isRankMaster = true → o ≠ s.casc.role → exec (.rankHalt o v x) s = .next (t.sendLock 7 v.toNat))
       goesOn (halting (.halt false)) .control ∧ goesOn (halting (.halt true)) .fault
       ∧ ∀ x, goesOn (halting (.lockstep (s.lockRec x.toNat k))) (.lockstep x))
     ∧ (s.isMember o = true → s.clk.due = [] → s.clk.frac < tickUnits → s.clk.secTicks < 25000000 →
       s.clk.cycle < s.cycleOfRank v.toNat + 25 →
       exec (.rankPeerSignal o obj v) s = .next { s with clk := { s.clk with
         due := [(s.cycleOfRank v.toNat + 25, .signal obj 1)] } }))

/-- LAUNCH of a descriptor that passes its whole check, with room in the admission queue: the operation waits there, and
nothing else changes; with the queue of 16 full the bundle stalls.
LAUNCH of a descriptor with a fault: its record becomes visible when the check ends, its SYNC object rises 2 cycles
after, and no operation is queued. -/
def Obligations.LaunchChecks : Prop :=
  (∀ (s : State) (c : SlotCtx) (y : BitVec 14) (d : BitVec 20) (b : BitVec 2), s.seq.haltOwed = none →
     let a := 128 * d.toNat
     let h := groupHdr (numAt s.mem a 64)
     let xa := if b = 0 then 0 else (s.x (BitVec.ofNat 5 (2 * b.toNat))).toNat
     let xd := if b = 0 then 0 else (s.x (BitVec.ofNat 5 (2 * b.toNat + 1))).toNat
     let ls := readLines s.mem (a + 64) h.lines
     let ms := readMembers s.mem (a + 64 + 16 * h.lines) h.members
     (s.waitingOps < 16 → s.gated blkBuffer = false → s.gated blkReducers = false → inBuffer a h.size = true →
       checkGroup h a xa xd ls ms = none →
       exec (.launch c y d b) s = .next { s with
         disp := { s.disp with ops := s.disp.ops ++ [mkPhaseOp c y (s.clk.cycle + 8 + ceilDiv h.size 128) xa xd h ls ms s] }
         nextId := s.nextId + 1 })
     ∧ (16 ≤ s.waitingOps → exec (.launch c y d b) s = .next (beginStall s)))
  ∧ (∀ (s : State) (c : SlotCtx) (y : BitVec 14) (d : BitVec 20) (b : BitVec 2) (f : DescFault), s.seq.haltOwed = none →
     let a := 128 * d.toNat
     let h := groupHdr (numAt s.mem a 64)
     let xa := if b = 0 then 0 else (s.x (BitVec.ofNat 5 (2 * b.toNat))).toNat
     let xd := if b = 0 then 0 else (s.x (BitVec.ofNat 5 (2 * b.toNat + 1))).toNat
     let e := s.clk.cycle + 8 + ceilDiv h.size 128
     s.waitingOps < 16 → s.gated blkBuffer = false → s.gated blkReducers = false → inBuffer a 64 = true →
       inBuffer a h.size = true →
       checkGroup h a xa xd (readLines s.mem (a + 64) h.lines) (readMembers s.mem (a + 64 + 16 * h.lines) h.members) = some f →
       let r : ExcRec := { s.slotRec c f.cause f.detail with cycle := e, opTag := h.opTag, addr := f.addr }
       exec (.launch c y d b) s = .next { s with clk := { s.clk with
         due := insertDue (e + 2) (.signal y 1) (insertDue e (.exc r) s.clk.due) } })

/-- PHASE_END takes the codes of every array that answers and goes on to the next phase, the next wave or the end; with
silent arrays, or arrays whose tags the reducer does not accept, the operation waits for their test. MISSING_CODE_TEST, 132
cycles after the phase, starts the repeat phase, and REPEAT_PHASE_END takes its codes and counts each array that answered;
132 cycles later every other one is declared dead and the operation goes on without it. Memory is not written.
PHASE_ADMISSION of the oldest waiting operation, in the cycle in which its arrays fit; an operation whose arrays are
busy, or that does not fit, waits unchanged. One that waits for an UNAVAILABLE address, a supply warning or the sequencer's
clock enters its hold.
LINE_VISIBLE: in its cycle the line's data and its status record are written, and no other byte; when every line is
visible the operation is gone and its SYNC object is to rise one cycle later. -/
def Obligations.PhasesRun : Prop :=
  (∀ (s : State) (n : Nat) (o : PhaseOp) (mute : List Nat), s.getOp n = some o → s.warned = false → s.seqRate = true →
     s.clk.due = [] →
     let fin := o.start + o.lenOf o.present
     let lost := fun (a : Nat) => mute.contains a || !s.accepts a
     let quiet := (((o.halves o.present).map o.arrayAt).filter lost).eraseDups
     let took := takeWave ((o.halves o.present).filter (fun p => !quiet.contains (o.arrayAt p)))
       (s.toCycle fin, { o.noteBits with undo := some (o.keep fin), fin := fin })
     (o.stage = .phase → ∃ t, exec (.phaseEnd n mute) s = .next t
       ∧ t = (if quiet = [] then finishPhase took.2 fin took.1
           else took.1.modOp o.id (fun _ => { took.2 with stage := .testing, mute := quiet }))
       ∧ t.clk.cycle = max s.clk.cycle fin ∧ t.mem = s.mem ∧ t.sync = s.sync ∧ t.seq = s.seq ∧ t.ent = s.ent)
     ∧ (o.stage = .testing → ∃ t, exec (.missingCodeTest n) s = .next t
       ∧ t.clk.cycle = max s.clk.cycle (o.fin + 132)
       ∧ (∀ p ∈ t.disp.ops, p.id = n → p.stage = .repeating ∧ p.start = t.clk.cycle)
       ∧ t.mem = s.mem ∧ t.sync = s.sync ∧ t.seq = s.seq ∧ t.ent = s.ent)
     ∧ (o.stage = .repeating →
       let asked := (o.halves o.present).filter (fun p => o.mute.contains (o.arrayAt p))
       let live := asked.filter (fun p => !lost (o.arrayAt p))
       let dead := asked.filter (fun p => lost (o.arrayAt p))
       let e := o.start + o.lenOf o.quietMembers
       let again := takeWave live (s.toCycle e, { o with undo := some (o.keep e) })
       let counted := (again.1.addCnt 0x6002 1 live.length).addCnt 0x6001 clsRecovered live.length
       ∃ t, exec (.repeatPhaseEnd n mute) s = .next t
         ∧ (dead = [] → t = finishPhase again.2 e counted ∧ t.clk.cycle = max s.clk.cycle e)
         ∧ (dead ≠ [] → t = finishPhase (dead.foldl (fun q p => q.dropArray p) again.2) (e + 132)
               (dead.foldl (fun u p => u.declareArrayDead (o.arrayAt p) 1) (counted.toCycle (e + 132)))
             ∧ t.clk.cycle = max s.clk.cycle (e + 132))
         ∧ t.mem = s.mem ∧ t.sync = s.sync ∧ t.seq = s.seq ∧ t.ent = s.ent))
  ∧ (∀ (s : State) (o : PhaseOp), s.frontOp = some o →
       (s.mayAdmit o = true → s.fits (s.admitCycle (s.formed o)) (s.formed o) = true → s.clk.due = [] →
         ∃ t, exec .phaseAdmission s = .next t ∧ t.clk.cycle = s.admitCycle (s.formed o)
           ∧ (∀ p ∈ t.disp.ops, p.id = o.id → p.stage ≠ .waiting ∧ p.admitted = s.admitCycle (s.formed o) ∧ p.hold = none)
           ∧ (∀ p ∈ s.disp.ops, p.id ≠ o.id → p ∈ t.disp.ops)
           ∧ t.mem = s.mem ∧ t.host = s.host ∧ t.sync = s.sync ∧ t.seq = s.seq ∧ t.str = s.str ∧ t.eng = s.eng
           ∧ t.dma = s.dma ∧ t.mig = s.mig ∧ t.ent = s.ent)
       ∧ (s.mayAdmit o = false → s.holdWait o = false → exec .phaseAdmission s = .next s)
       ∧ (s.holdWait o = true → exec .phaseAdmission s = .next ((s.holdOp o.id).markLate o))
       ∧ (s.mayAdmit o = true → s.fits (s.admitCycle (s.formed o)) (s.formed o) = false → exec .phaseAdmission s = .next s))
  ∧ (∀ (s : State) (n l : Nat) (o : PhaseOp) (r : LineRec), s.getOp n = some o → o.lines[l]? = some r → o.stage = .ended →
       (o.lineAcc l).visible = false → s.clk.due = [] → o.failed = false →
       let c := max s.clk.cycle (o.visibleAt l r)
       let d := if r.mask = 0 then ([], false) else o.lineData l r.mask
       ∃ t, exec (.lineVisible n l) s = .next t ∧ t.clk.cycle = c
         ∧ t.mem = Memory.puts (Memory.puts s.mem r.dst d.1) r.status (o.statusRecord l r.mask d.2 c)
         ∧ ((∀ i, i < o.lines.length → i ≠ l → (o.lineAcc i).visible = true) →
             t.clk.due = [(c + 1, .signal o.sync 1)] ∧ ∀ p ∈ t.disp.ops, p.id ≠ o.id)
         ∧ t.host = s.host ∧ t.sync = s.sync ∧ t.seq = s.seq ∧ t.arr = s.arr ∧ t.ent = s.ent)

/-- A result whose tags are the reducer's changes nothing; any other is discarded, counted as corrected, and marks only
its own array (R76): it reaches no memory, no operation and no other array. -/
def Obligations.ResultTagsAreChecked : Prop :=
  ∀ (s : State) (a : Nat) (e : BitVec 16) (g : BitVec 8),
    (e = (s.array a).redEpoch → (s.array a).tagsOpen.contains g = true → exec (.resultDiscarded a e g) s = .next s)
    ∧ (e ≠ (s.array a).redEpoch ∨ (s.array a).tagsOpen.contains g = false →
      ∃ t, exec (.resultDiscarded a e g) s = .next t
        ∧ t.cnt? 0x6002 3 = min 0xFFFF (s.cnt? 0x6002 3 + 1)
        ∧ t.cnt? 0x6001 clsCorrected = min 0xFFFF (s.cnt? 0x6001 clsCorrected + 1)
        ∧ (t.array a).qreason = (if (s.array a).st = .quarantined ∧ ((s.array a).qreason = 1 ∨ (s.array a).qreason = 2)
            then 3 else (s.array a).qreason)
        ∧ (∀ b, b ≠ a → t.array b = s.array b)
        ∧ t.mem = s.mem ∧ t.sync = s.sync ∧ t.seq = s.seq ∧ t.disp = s.disp ∧ t.ent = s.ent)

/-- Every matrix slot opcode whose check passes queues its task on its slot and changes nothing else; with the slot's
queue of 4 full the bundle stalls.
RUN, CONFIG and ROTATE whose check passes queue their task on their slot and change nothing else; with the slot's
queue of 4 full the bundle stalls. -/
def Obligations.EngineSlotsQueue : Prop :=
  (∀ (s : State) (c : SlotCtx) (f : Bool) (u : BitVec 8) (a : BitVec 20), s.seq.haltOwed = none →
     let d := matDesc (numAt s.mem (128 * a.toNat) 128)
     ∀ p ∈ ([(.matmul c f u a, .matmul), (.matmulAcc c f u a, .matmulAcc), (.matmulX c f u a, .matmulX),
         (.matmulXAcc c f u a, .matmulXAcc), (.accStore c f u a, .accStore), (.accLoad c f u a, .accLoad),
         (.outerAcc c f u a, .outerAcc)] : List (Instr × MatOp)),
       (matrixFull (matSlot c) s = false → s.gated blkBuffer = false → (p.2.isX = true → s.gated blkExpanders = false) →
         inBuffer (128 * a.toNat) 128 = true → u ≠ 0 → (∀ i ∈ sliceList u, s.unitUsable .slice i = true) →
         checkMatrix s p.2 f u d (128 * a.toNat) = none →
         ∃ (t : State) (x : MatTask), exec p.1 s = .next t
           ∧ tget noMat t.eng.mq (matSlot c) = tget noMat s.eng.mq (matSlot c) ++ [x]
           ∧ x.op = p.2 ∧ x.d = d ∧ x.slices = (if d.blocks = 0 then 0 else u) ∧ x.issued = s.clk.cycle ∧ x.job = s.jobOf c ∧ x.id = s.nextId
           ∧ (∀ k, k ≠ matSlot c → tget noMat t.eng.mq k = tget noMat s.eng.mq k)
           ∧ t.eng.acc = s.eng.acc
           ∧ t = { s with eng := t.eng, nextId := s.nextId + 1 })
       ∧ (matrixFull (matSlot c) s = true → exec p.1 s = .next (beginStall s)))
  ∧ (∀ (s : State) (c : SlotCtx) (u : BitVec 8) (a : BitVec 20), s.seq.haltOwed = none →
     let d := vecDesc (numAt s.mem (128 * a.toNat) 128)
     ∀ p ∈ ([(.run c u a, .run), (.config c u a, .config), (.rotate c u a, .rotate)] : List (Instr × VecOp)),
       (vectorFull (vecSlot c) s = false → s.gated blkBuffer = false → inBuffer (128 * a.toNat) 128 = true →
         (vecUnits p.2 u).2 ≠ [] → (∀ i ∈ (vecUnits p.2 u).2, s.unitUsable (vecUnits p.2 u).1 i = true) →
         (vecCheck p.2 (vecUnits p.2 u).2 d (128 * a.toNat) s).1 = none →
         ∃ (t : State) (x : VecTask), exec p.1 s = .next t
           ∧ tget noVec t.eng.vq (vecSlot c) = tget noVec s.eng.vq (vecSlot c) ++ [x]
           ∧ x.op = p.2 ∧ x.d = d ∧ x.units = u ∧ x.issued = s.clk.cycle ∧ x.job = s.jobOf c ∧ x.id = s.nextId
           ∧ (∀ k, k ≠ vecSlot c → tget noVec t.eng.vq k = tget noVec s.eng.vq k)
           ∧ t = { s with eng := t.eng, nextId := s.nextId + 1 })
       ∧ (vectorFull (vecSlot c) s = true → exec p.1 s = .next (beginStall s)))

/-- A matrix task starts when no earlier task shares its slices and they are ON, in the later of t + 6 and the cycle they
are free; it ends by writing its blocks and signalling one cycle later, with every byte outside the blocks as before.
A vector task starts when no earlier task shares its units, none of them loads a function and all are ON; it ends by
writing its output, its statistics and its scale state, and signalling one cycle later. A CONFIG that loaded a function
leaves it in every section it named. A task that failed writes an exception record. -/
def Obligations.EngineTasksRun : Prop :=
  (∀ (s : State) (slot : Fin 2) (x : MatTask) (rest : List MatTask), s.clk.due = [] →
     (tget noMat s.eng.mq slot.val = x :: rest → x.slot = slot.val → s.earlierShares x = false → s.slicesBusy x = false →
       (∀ i ∈ sliceList x.slices, s.dom (112 + i) = .on) → ∀ scales banks : Nat,
       let k := max (max (x.issued + 6) (s.slicesFree x)) s.clk.cycle
       ∃ t, exec (.matrixTaskStart slot scales banks) s = .next t ∧ t = startMatrix x rest k scales banks s ∧ t.clk.cycle = k
         ∧ tget noMat t.eng.mq slot.val = rest ∧ (∃ y ∈ t.eng.mrun, y.id = x.id ∧ y.start = k)
         ∧ t.mem = s.mem ∧ t.host = s.host ∧ t.sync = s.sync ∧ t.seq = s.seq ∧ t.arr = s.arr ∧ t.ent = s.ent)
     ∧ (s.eng.mrun.find? (fun y => decide (y.id = x.id)) = some x → x.hold = none → x.failed = true → x.fin ≠ 0 →
       (x.op.isX = true → x.header ≠ .unread) →
       ∃ t, exec (.matrixTaskEnd x.id) s = .next t ∧ t.seq.excHead = s.seq.excHead + 1 ∧ (∀ y ∈ t.eng.mrun, y.id ≠ x.id))
     ∧ (s.eng.mrun.find? (fun y => decide (y.id = x.id)) = some x → x.hold = none → x.failed = false → x.fin ≠ 0 →
       (x.op.isX = true → x.header ≠ .unread) →
       let k := max s.clk.cycle x.visible
       ∃ t, exec (.matrixTaskEnd x.id) s = .next t ∧ t.clk.cycle = k
         ∧ t.mem = x.writes.foldl (fun m w => Memory.puts m w.1 w.2) s.mem
         ∧ t.clk.due = (if x.d.syncV then [(k + 1, .signal x.d.sync 1)] else [])
         ∧ (∀ y ∈ t.eng.mrun, y.id ≠ x.id) ∧ t.eng.acc = s.eng.acc
         ∧ t.host = s.host ∧ t.sync = s.sync ∧ t.seq = s.seq ∧ t.arr = s.arr ∧ t.ent = s.ent))
  ∧ (∀ (s : State) (slot : Fin 2) (x : VecTask) (rest : List VecTask), s.clk.due = [] →
     (tget noVec s.eng.vq slot.val = x :: rest → x.slot = slot.val →
       (∀ y ∈ s.eng.vrun, x.shares y = true → y.op ≠ .config) →
       (∀ k, k < 2 → ∀ y ∈ tget noVec s.eng.vq k, y.id < x.id → x.shares y = false) →
       (∀ i ∈ x.unitList, s.dom (unitDomain x.kind i) = .on) → ∀ scales : Nat,
       let free := s.eng.vrun.foldl (fun m y => if x.shares y then max m y.fin else m) 0
       let k := max (max (x.issued + 4) free) s.clk.cycle
       ∃ t, exec (.vectorTaskStart slot scales) s = .next t ∧ t = startVector x rest k scales s ∧ t.clk.cycle = k
         ∧ tget noVec t.eng.vq slot.val = rest ∧ (∃ y ∈ t.eng.vrun, y.id = x.id ∧ y.start = k)
         ∧ t.mem = s.mem ∧ t.host = s.host ∧ t.sync = s.sync ∧ t.seq = s.seq ∧ t.eng.acc = s.eng.acc ∧ t.ent = s.ent)
     ∧ (s.eng.vrun.find? (fun y => decide (y.id = x.id)) = some x → x.fails = true ∨ x.broken = true → x.stats = none →
       ∃ t, exec (.vectorTaskEnd x.id) s = .next t ∧ t.seq.excHead = s.seq.excHead + 1 ∧ (∀ y ∈ t.eng.vrun, y.id ≠ x.id))
     ∧ (∀ im, s.eng.vrun.find? (fun y => decide (y.id = x.id)) = some x → x.op = .config → x.image = some im →
       x.stats = none → x.fails = false → x.broken = false →
       ∃ t, exec (.vectorTaskEnd x.id) s = .next t ∧ t.clk.cycle = max s.clk.cycle x.fin
         ∧ ∀ i ∈ x.unitList, tget noImage t.eng.sect i = some im)
     ∧ (∀ st, s.eng.vrun.find? (fun y => decide (y.id = x.id)) = some x → x.op = .run → x.stats = some st → x.fails = false →
       x.broken = false →
       let wrote := x.writes.foldl (fun m w => Memory.puts m w.1 w.2) s.mem
       clipFails wrote x st = false →
       ∃ t, exec (.vectorTaskEnd x.id) s = .next t ∧ t.mem = (writeStats x st { s with mem := wrote }).mem ∧ t.seq = s.seq)
     ∧ (s.eng.vrun.find? (fun y => decide (y.id = x.id)) = some x → x.op ≠ .config → x.stats = none → x.fails = false →
       x.broken = false →
       let k := max s.clk.cycle x.visible
       ∃ t, exec (.vectorTaskEnd x.id) s = .next t ∧ t.clk.cycle = k
         ∧ t.mem = x.writes.foldl (fun m w => Memory.puts m w.1 w.2) s.mem
         ∧ t.clk.due = (if x.d.syncV then [(k + 1, .signal x.d.sync 1)] else [])
         ∧ (∀ y ∈ t.eng.vrun, y.id ≠ x.id) ∧ t.eng.sect = s.eng.sect
         ∧ t.host = s.host ∧ t.sync = s.sync ∧ t.seq = s.seq ∧ t.eng.acc = s.eng.acc ∧ t.ent = s.ent))

/-- TABLE_LOAD of a whole record, its slot unused and holding another version, its code lengths complete and its check code
right, puts the table into the slot; any other record is refused and counted. TABLE_FREE empties a slot that no task uses; a
slot in use is BUSY and keeps its table. -/
def Obligations.DecodeTables : Prop :=
  ∀ (s : State) (m : Master) (v : DWord) (k : BitVec 8),
    let a := v.toNat % 2 ^ 48
    let bs := Memory.gets s.mem a 144
    let slot := leNat bs % 64
    let tver : BitVec 8 := fld (leNat bs) 8 8
    let ok := a % 64 = 0 ∧ a + 144 ≤ bufferSize ∧ s.tableBusy slot = false ∧ tver ≠ 0
      ∧ (∀ t, s.table slot = some t → t.tver ≠ tver) ∧ lengthsOk (tableLengths bs) = true
      ∧ (crc32 (zeroCheck bs 4)).toNat = bits (leNat bs) 32 32
    (s.entryReady m 0x4300 1 → ok →
      exec (.tableLoad m v) s = .next (({ s with eng := { s.eng with
        tables := tset noTable s.eng.tables slot
          (some { tver := tver, refs := 0, lengths := tableLengths bs }) } } : State).wrote m 0x4300 1 0))
    ∧ (s.entryReady m 0x4300 1 → ¬ ok →
      ∃ c, (c = abRange ∨ c = abBusy) ∧ exec (.tableLoad m v) s = .next ((s.count 0x6007 5 clsFailed).wrote m 0x4300 1 c))
    ∧ (s.entryReady m 0x4300 2 → k.toNat < 64 → s.tableBusy k.toNat = false →
      exec (.tableFree m k) s = .next (({ s with eng := { s.eng with
        tables := tset noTable s.eng.tables k.toNat none } } : State).wrote m 0x4300 2 0))
    ∧ (s.entryReady m 0x4300 2 → k.toNat < 64 → s.tableBusy k.toNat = true →
      exec (.tableFree m k) s = .next (s.wrote m 0x4300 2 abBusy))
    ∧ (s.entryReady m 0x4300 2 → 64 ≤ k.toNat → exec (.tableFree m k) s = .next (s.wrote m 0x4300 2 abRange))

/-- The expander reads the header of the oldest task of its slot whose header is in the fetch buffer unread: one that passes
its checks takes its tables into use, one that fails them or cannot be read fails its task and is counted; TABLE_PENDING
falls by 1, and a started task goes on.
FETCH_BUFFER_FILL brings the next bytes in task order: a task's header first, then each block with its index entry. Bytes whose tier
is held do not come, nor those behind them, and a started task that waits for them enters its hold, once (R526, R574). -/
def Obligations.ExpanderReads : Prop :=
  (∀ (s : State) (slot : Fin 2) (x : MatTask) (front rest : List MatTask) (f : FetchedHdr),
     s.slotTasks slot.val = front ++ x :: rest → (∀ y ∈ front, y.op.isX = false ∨ y.header ≠ .unread) → x.op.isX = true →
     x.header = .unread → x.hdr = some f →
     let pending : State := { s with eng := { s.eng with tablePending := s.eng.tablePending - 1 } }
     let read : MatTask := { x with hdrAt := s.clk.cycle }
     let goOn := fun (y : MatTask) (t : State) => putTasks slot.val (front ++ y :: rest) t
     (∀ bs, f.data = some bs → s.headerOk x.d (objHdr bs) (s.unitGuarded x.d.bAddr 64) = true →
       let sl := ((objHdr bs).listed.map (fun p => p.1)).eraseDups
       exec (.expanderHeaderRead slot) s = .next (goOn { read with header := .passed sl (objHdr bs).listed }
         (pending.addRefs sl (· + 1))))
     ∧ (f.data = none ∨ (∃ bs, f.data = some bs ∧ s.headerOk x.d (objHdr bs) (s.unitGuarded x.d.bAddr 64) = false) →
       exec (.expanderHeaderRead slot) s = .next (goOn { read with header := .failed, failed := true }
         (pending.count 0x6007 3 clsFailed))))
  ∧ (∀ (s : State) (slot : Fin 2) (x : MatTask) (rest : List MatTask) (late : Nat),
     s.waitingFetch slot.val = none → s.slotTasks slot.val = x :: rest → x.op.isX = true →
     let open' := fun (y : MatTask) => ({ y with hold := none } : MatTask)
     let held := ((x :: rest).map open').foldl (fun n y => n + y.heldBytes s.clk.cycle) 0
     (x.hdr = none → s.unitWaits x.d.bAddr 64 = false → held + 64 ≤ fetchBytes →
       exec (.fetchBufferFill slot 64 late) s = .next (putTasks slot.val
         ({ open' x with hdr := some { data := s.unitBytes x.d.bAddr 64 } }
           :: rest.map open') (s.noteUnit x.d.bAddr 64 (ctxStream x.ctx))))
     ∧ (x.hdr = none → s.unitWaits x.d.bAddr 64 = true →
       ∀ n, exec (.fetchBufferFill slot n late) s = .next (putTasks slot.val ((x :: rest).map open') s))
     ∧ (∀ p j c more, x.hdr ≠ none → x.plan.drop x.got.length = (p, j, c) :: more →
       let b := s.fetchBlock (open' x) c j
       s.blockWaits (open' x) c j = false → held + b.size ≤ fetchBytes →
       exec (.fetchBufferFill slot b.size late) s = .next (putTasks slot.val
         ({ open' x with got := x.got ++ [b] } :: rest.map open') (s.noteBlock (open' x) c j b))))
  ∧ (∀ (s : State) (slot : Fin 2) (x : MatTask) (bytes late : Nat), s.waitingFetch slot.val = some x → s.fetchWaits x = true →
     (x.hold = none → s.bulkPaused = false →
       exec (.fetchBufferFill slot bytes late) s = .next (({ s with eng := { s.eng with
         mrun := modBy (fun y => decide (y.id = x.id)) (fun y => { y with hold := some s.clk.ticks }) s.eng.mrun } } : State
           ).count 0x6010 1 clsRecovered))
     ∧ (x.hold ≠ none ∨ s.bulkPaused = true → exec (.fetchBufferFill slot bytes late) s = .next s))

/-- The unit power entries keep the bits written and bring every unit to them; bits above the units are out of range. A
unit whose bit is cleared goes OFF in the cycle after its last task; a waking domain becomes ON, a slice with +0 in every
accumulator and a section with no function, and a cascade port that is DOWN then trains. -/
def Obligations.UnitPower : Prop :=
  ∀ (s : State) (m : Master) (k : UnitKind) (v : BitVec 8) (d i : Nat),
    (s.entryReady m 0x4200 (unitEntry k) → v.toNat < 2 ^ unitCount k →
      let t := ((s.setEnt 0x4200 (unitEntry k) v.toNat).applyKind k).wrote m 0x4200 (unitEntry k) 0
      exec (.unitPowerSet m k v) s = .next t ∧ exec (.unitPowerClear m k v) s = .next t)
    ∧ (s.entryReady m 0x4200 (unitEntry k) → 2 ^ unitCount k ≤ v.toNat →
      exec (.unitPowerSet m k v) s = .next (s.wrote m 0x4200 (unitEntry k) abRange)
      ∧ exec (.unitPowerClear m k v) s = .next (s.wrote m 0x4200 (unitEntry k) abRange))
    ∧ (domainUnit d = some (k, i) → s.eng.offPending.contains d = true → s.unitBusy k i = false →
      exec (.domainOff d) s = .next ((s.passCycles 1).unitOff k i) ∧ ((s.passCycles 1).unitOff k i).dom d = .off)
    ∧ (domainUnit d = some (k, i) → s.dom d = .waking →
      ∃ t, exec (.domainWakeEnd d) s = .next t ∧ t.dom d = .on
        ∧ (k = .slice → ∀ q, q / 4096 = i → tget noWord t.eng.acc q = 0)
        ∧ (k = .vectorSection → t.vectorSection? i = none)
        ∧ t.mem = s.mem ∧ t.sync = s.sync ∧ t.seq = s.seq ∧ t.ent = s.ent ∧ t.clk = s.clk)
    ∧ (domainUnit d = none → s.dom d = .waking →
      let woken : State := { s with pwr := { s.pwr with dom := tset domDefault s.pwr.dom d .on } }
      (¬ (141 ≤ d ∧ d ≤ 144) → exec (.domainWakeEnd d) s = .next woken)
      ∧ (141 ≤ d → d ≤ 144 → woken.portLive (d - 141) = true → (s.port (d - 141)).st = .down →
        exec (.domainWakeEnd d) s = .next (woken.modPort (d - 141) Port.train))
      ∧ (141 ≤ d → d ≤ 144 → woken.portLive (d - 141) = false → exec (.domainWakeEnd d) s = .next woken))

/-- The stream slots. JOB_TAKE of a record at the head that is no marker and not late makes it the current job and gives its
slot back, and the job register block is readable at t + 20; an empty ring clears VALID then; ARG is signalled at t + 20 in
both, seen from t + 21. While a job is current its fault record is visible at t + 20. JOB_DONE closes the job with X[reg]'s
status and FAILED bit; RING_PUSH queues the 64 bytes at X[reg] for the job of the bundle's TAG. With 4 jobs closed by
JOB_DONE still closing, or 4 records queued, the bundle stalls. -/
def Obligations.StreamSlots : Prop :=
  ∀ (s : State) (c : SlotCtx) (q : BitVec 4) (r : BitVec 5) (g : BitVec 14), s.seq.haltOwed = none →
    s.gated blkStream = false →
    let n := q.toNat
    let b := s.stream n
    let read := s.readRing n
    let later := fun (k : Nat) (d : Due) (t : State) => ({ t with clk := { t.clk with
      due := insertDue (s.clk.cycle + k) d t.clk.due } } : State)
    (b.cur = none → b.inb.fill = 0 →
      exec (.jobTake c q g) s = .next (later 21 (.signal g 1) (later 20 (.jobReg n none) s)))
    ∧ (b.cur = none → b.st = .enabled → b.inb.fill ≠ 0 → (read.jobAt n 0).marker = false →
      read.late n (read.jobAt n 0) = false → s.boot.stopped = false →
      let j := read.takenJob n
      exec (.jobTake c q g) s = .next (later 21 (.signal g 1) (later 20
        (.jobReg n (some (takeReg read (read.recordOf n b.inb.head) j)))
        ((popHead n read).modStream n (fun x => { x with cur := some j })))))
    ∧ (b.cur ≠ none → exec (.jobTake c q g) s = .next
        (later 22 (.signal g 1) (later 20 (.exc (s.slotRec c causeRange 0)) s)))
    ∧ (∀ j, b.cur = some j → b.closedByDone < 4 →
      exec (.jobDone c q r) s = .next (s.setStream n { b with
        cur := none
        closing := b.closing ++ [{ j with status := (s.x r).truncate 16, failed := j.failed || (s.x r).getLsbD 16,
                                          closed := s.clk.cycle, byDone := true }] }))
    ∧ (∀ j, b.cur = some j → 4 ≤ b.closedByDone → exec (.jobDone c q r) s = .next (beginStall s))
    ∧ (b.cur = none → exec (.jobDone c q r) s = .next (s.slotFault c causeRange 0).settleHalt)
    ∧ (b.st = .enabled → (s.x r).toNat % 64 = 0 → inBuffer (s.x r).toNat 64 = true → b.pushq.length < 4 →
      exec (.ringPush c q r) s = .next (s.setStream n { b with pushq := b.pushq ++ [{
        issued := s.clk.cycle, job := s.jobOf c, stream := ctxStream c,
        data := Memory.gets s.mem (s.x r).toNat 64, after := s.opsOf (s.jobOf c) }] }))
    ∧ (4 ≤ b.pushq.length → exec (.ringPush c q r) s = .next (beginStall s))

/-- RECORD_PLACED: no earlier than 24 cycles after its issue and 8 after its operations, the oldest push goes to the slot
at TAIL, and TAIL advances; with no receiver its slot frees at once, and the record is counted; the receivers that are
attached have still to get it.
RECORD_DELIVERY takes the first record that waits for an attached receiver whose ring has room, and gives it to a local
ring, to the cascade or to the host ring; a receiver that is detached gets nothing.
RECEIVER_REJOIN attaches a detached receiver again once its ring has REJOIN_FREE free slots, and its next record carries
GAP. -/
def Obligations.RecordsMoveOn : Prop :=
  (∀ (s : State) (q : BitVec 4) (p : Push) (rest : List Push),
     let n := q.toNat
     let b := s.stream n
     b.pushq = p :: rest → s.pushReady n p = true → s.clk.due = [] →
     let k := max (p.issued + 24) (s.clk.cycle + 8)
     exec (.recordPlaced q) s = .next (place n p.data p.stream ((s.toCycle k).setStream n { b with pushq := rest }))
     ∧ (b.placed = [] → (∀ k, k < 4 → (b.recv k).kind = 0) → ∃ t, exec (.recordPlaced q) s = .next t ∧ t.clk.cycle = k
       ∧ t.mem = ((s.toCycle k).writePhys (b.outb.slot b.outb.tail) p.data).mem
       ∧ (t.stream n).pushq = rest ∧ (t.stream n).placed = []
       ∧ (t.stream n).outb = { b.outb with tail := b.outb.next b.outb.tail, head := b.outb.next b.outb.head }
       ∧ t.cnt? 0x6008 8 = min 0xFFFF (s.cnt? 0x6008 8 + 1)
       ∧ (∀ i, i ≠ n → t.stream i = s.stream i)
       ∧ t.sync = s.sync ∧ t.seq = s.seq ∧ t.host = s.host ∧ t.eng = s.eng ∧ t.arr = s.arr))
  ∧ (∀ (s : State) (q : BitVec 4) (k : BitVec 2) (p : Placed) (i : Nat),
     let n := q.toNat
     let r := (s.stream n).recv k.toNat
     (s.stream n).firstFor k.toNat = some (p, i) →
     (r.attached = true → s.recvFree n k.toNat ≠ 0 → r.kind = 1 →
       exec (.recordDelivery q k) s = .next (deliver n k.toNat p i (s.toCycle (s.clk.cycle + 8))))
     ∧ (r.attached = true → s.recvFree n k.toNat ≠ 0 → r.kind = 2 →
       exec (.recordDelivery q k) s = .next (deliver n k.toNat p i s))
     ∧ (r.attached = true → s.recvFree n k.toNat ≠ 0 → r.kind = 3 → s.hostReach = true → s.clk.due = [] →
       ∃ t, exec (.recordDelivery q k) s = .next t
         ∧ t.host = Memory.puts s.host (r.hostBase + 64 * (r.hostTail % r.hostSlots)) (gapCopy p.data r)
         ∧ t.clk.cycle = s.clk.cycle + 1 ∧ ((t.stream n).recv k.toNat).hostTail = (r.hostTail + 1) % (2 * r.hostSlots)
         ∧ t.mem = s.mem ∧ t.sync = s.sync ∧ t.seq = s.seq ∧ t.ent = s.ent)
     ∧ (r.attached = false → exec (.recordDelivery q k) s = .next s))
  ∧ (∀ (s : State) (q : BitVec 4) (k : BitVec 2),
     let n := q.toNat
     let r := (s.stream n).recv k.toNat
     (r.kind ≠ 0 → r.rst = .detached → max 1 r.rejoinFree ≤ s.recvFree n k.toNat →
       exec (.receiverRejoin q k) s = .next (s.setStream n
         ((s.stream n).modRecv k.toNat (fun x => { x with rst := .attached, gapNext := true }))))
     ∧ (r.rst ≠ .detached → exec (.receiverRejoin q k) s = .next s))

/-- The receiver entries, the host ring's HEAD and the inbound TAIL as masters write them: an accepted write changes the one
stream and succeeds on its path; a refused one changes nothing and fails there. An attached entry of a stream that is not
DISABLED takes only KIND = 0, which releases what waits for it.
STREAM_ENABLE without cascade receivers enables and disables at once; with some it asks for their rings first and enables
nothing yet; a value that a stream's settings do not allow is refused and changes nothing. -/
def Obligations.StreamWrites : Prop :=
  (∀ (s : State) (m : Master) (q : BitVec 4) (k : BitVec 2) (v : BitVec 256) (w : BitVec 16), s.gated blkStream = false →
     let n := q.toNat
     let b := s.stream n
     let r := b.recv k.toNat
     let failed := if m = .host then (s.emit (.pathFail m)).count 0x600D 1 clsFailed else s.emit (.pathFail m)
     let entry := fun (x : StreamBlk) =>
       exec (.receiverEntryWrite m q k v) s = .next ((s.setStream n x).emit (.pathOk m))
     (s.recvOk v.toNat = true → b.st = .disabled → v.toNat % 4 ≠ 0 →
       entry (b.modRecv k.toNat (fun x => { recvWrite v.toNat x with rewritten := decide (x.rst ≠ .attached) })))
     ∧ (s.recvOk v.toNat = true → b.st ≠ .disabled ∨ v.toNat % 4 = 0 → r.rst ≠ .attached →
       entry (b.modRecv k.toNat (fun x => { recvWrite v.toNat x with rewritten := true })))
     ∧ (s.recvOk v.toNat = true → v.toNat % 4 = 0 → r.rst = .attached →
       entry ((b.dropWaits k.toNat).modRecv k.toNat (recvWrite v.toNat)).free)
     ∧ (b.st ≠ .disabled → v.toNat % 4 ≠ 0 → r.rst = .attached → exec (.receiverEntryWrite m q k v) s = .next failed)
     ∧ (s.recvOk v.toNat = false → exec (.receiverEntryWrite m q k v) s = .next failed)
     ∧ (r.kind = 3 → w.toNat < 2 * r.hostSlots →
       (w.toNat + 2 * r.hostSlots - r.hostHead) % (2 * r.hostSlots) ≤ r.hostFill →
       exec (.hostHeadWrite m q k w) s = .next ((s.setStream n (b.modRecv k.toNat (fun x => { x with
         hostHead := w.toNat }))).emit (.pathOk m)))
     ∧ (r.kind ≠ 3 → b.st = .disabled ∨ r.rst ≠ .attached → v.toNat = ({ r with hostHead := w.toNat } : Receiver).written →
       exec (.hostHeadWrite m q k w) s = exec (.receiverEntryWrite m q k v) s)
     ∧ (r.kind ≠ 3 → b.st ≠ .disabled → r.rst = .attached → exec (.hostHeadWrite m q k w) s = .next failed)
     ∧ (let nf := ({ b.inb with tail := w.toNat } : Ring).fill
       b.st = .enabled → s.boot.stopped = false → s.localProducer n = false → s.remoteProducer n = false →
       w.toNat < 2 * b.inb.slots → b.inb.fill ≤ nf → nf ≤ b.inb.slots →
       exec (.inboundTailWrite m q w) s = .next ((s.setStream n { b with
         inb := { b.inb with tail := w.toNat }
         enqueued := b.enqueued + BitVec.ofNat 32 (nf - b.inb.fill) }).emit (.pathOk m)))
     ∧ (b.st ≠ .enabled → exec (.inboundTailWrite m q w) s = .next failed))
  ∧ (∀ (s : State) (m : Master) (v : BitVec 16), s.entryReady m 0x4400 3 →
     let set := s.streamEnable ||| v
     let clear := s.streamEnable &&& ~~~v
     let fine := fun (w : BitVec 16) => ∀ n, n < 16 → w.getLsbD n = true → (s.stream n).st ≠ .enabled →
       enableRefused n w s = 0 ∧ (s.stream n).ofKind 2 = []
     (s.str.enable = none → fine set →
       exec (.streamEnableSet m v) s = .next ((applyEnable set s).wrote m 0x4400 3 0))
     ∧ (s.str.enable = none → fine clear →
       exec (.streamEnableClear m v) s = .next ((applyEnable clear s).wrote m 0x4400 3 0))
     ∧ (let binds := (streamNums.filter (fun n => set.getLsbD n && decide ((s.stream n).st ≠ .enabled))).flatMap
         (fun n => ((s.stream n).ofKind 2).map (fun k => (n, k)))
       s.str.enable = none → binds ≠ [] →
       (∀ n, n < 16 → set.getLsbD n = true → (s.stream n).st ≠ .enabled → enableRefused n set s = 0) →
       ∃ t, exec (.streamEnableSet m v) s = .next t ∧ t.str = { s.str with
         enable := some { master := m, value := set, since := s.clk.ticks, waits := binds } })
     ∧ ((∃ n, n < 16 ∧ set.getLsbD n = true ∧ (s.stream n).st ≠ .enabled ∧ enableRefused n set s ≠ 0) →
       ∃ code, (code = abRange ∨ code = abBusy) ∧ exec (.streamEnableSet m v) s = .next (s.wrote m 0x4400 3 code)))

/-- JOB_RECORD_READ keeps a record of the ring as it stands, once; LATE_JOB_SKIP and MARKER_CLOSING read the ring's records
and move the head to CLOSING while no job is current. -/
def Obligations.HeadRecords : Prop :=
  ∀ (s : State) (q : BitVec 4) (i : BitVec 16),
    let n := q.toNat
    let b := s.stream n
    let read := s.readRing n
    let j := read.jobAt n 0
    (b.indexes.contains i.toNat = true → tget noRec b.readRecs i.toNat = none →
      exec (.jobRecordRead q i) s = .next ((s.noteTier (b.inb.slot i.toNat) 64 0 none).setStream n { b with
        readRecs := tset noRec b.readRecs i.toNat (some (recordAt s.mem (b.inb.slot i.toNat))) }))
    ∧ (tget noRec b.readRecs i.toNat ≠ none → exec (.jobRecordRead q i) s = .next s)
    ∧ (b.st = .enabled → b.cur = none → b.inb.fill ≠ 0 → j.marker = true → b.closedOther < 64 →
      exec (.markerClosing q) s = .next ((popHead n read).modStream n (fun x => { x with
        closing := x.closing ++ [{ j with closed := s.clk.cycle, skipped := false, failed := j.failed || false }] })))
    ∧ (b.st = .enabled → b.cur = none → b.inb.fill ≠ 0 → j.marker = false → b.skipLate = true → j.deadlineV = true →
      b.closedOther < 64 → s.passed j.deadline = true →
      exec (.lateJobSkip q) s = .next (((popHead n read).modStream n (fun x => { x with
        closing := x.closing ++ [{ j with closed := s.clk.cycle, skipped := true, failed := true }] })).count
          0x6008 2 clsFailed))

/-- JOB_COMPLETE of the oldest closing job, no earlier than 24 cycles after it closed and 16 after its operations: its
status record goes to its place, DONE_SYNC rises one cycle later, and a STOPPING stream that holds no other job is DISABLED.
DEADLINE_MISS of a job of a real-time stream: its record goes to the miss ring, MISSES counts it up to 0xFFFFFFFF,
MISS_SYNC rises one cycle later, the job is marked missed, and with MISS_FAILS failed; a job without a deadline is left. -/
def Obligations.JobsEnd : Prop :=
  (∀ (s : State) (q : BitVec 4) (j : Job) (rest : List Job),
     let n := q.toNat
     let b := s.stream n
     b.closing = j :: rest → s.jobReady n j = true → s.clk.due = [] → (j.deadlineV = false ∨ b.rt = false) →
     let k := max (j.closed + 24) (s.clk.cycle + 16)
     ∃ t, exec (.jobComplete q) s = .next t ∧ t.clk.cycle = k
       ∧ t.stream n = { b with
           closing := rest, st := if b.st = .stopping ∧ b.cur = none ∧ rest = [] then .disabled else b.st }
       ∧ (∀ i, i ≠ n → t.stream i = s.stream i)
       ∧ t.clk.due = (if b.doneSyncV then [(k + 1, .signal (BitVec.ofNat 14 b.doneSync) 1)] else [])
       ∧ (j.statusV = false → t.mem = s.mem ∧ t.host = s.host)
       ∧ (j.statusV = true → j.statusHost = true → j.statusAddr % 16 = 0 → s.hostReach = true →
           t.mem = s.mem ∧ t.host = Memory.puts s.host j.statusAddr (statusBytes j t.tick32))
       ∧ (j.statusV = true → j.statusHost = false → j.statusAddr % 16 = 0 → s.inTier j.statusAddr 16 = true →
           t.mem = Memory.puts s.mem j.statusAddr (statusBytes j t.tick32) ∧ t.host = s.host)
       ∧ (b.msixV = false → t.out = s.out)
       ∧ t.sync = s.sync ∧ t.seq = s.seq ∧ t.arr = s.arr ∧ t.ent = s.ent)
  ∧ (∀ (s : State) (q : BitVec 4) (k : Word) (j : Job) (queued : Bool),
     let n := q.toNat
     let b := s.stream n
     let read := s.readRing n
     let told := insertDue (s.clk.cycle + 1) (.signal (BitVec.ofNat 14 b.missSync) 1) s.clk.due
     read.findJob n k.toNat = some (j, queued) →
     (b.rt = true → j.deadlineV = true → j.missed = false → s.passed j.deadline = true →
       ∃ t, exec (.deadlineMiss q k) s = .next t
         ∧ t.mem = Memory.puts s.mem (streamBase + 0xA000 + 16 * (s.str.missHead.toNat % 64)) (missBytes n queued j)
         ∧ t.str.missHead = s.str.missHead + 1
         ∧ (t.stream n).misses = (if b.misses = 0xFFFFFFFF then b.misses else b.misses + 1)
         ∧ (queued = true → j.num ∈ (t.stream n).missDone)
         ∧ (queued = false → ∀ y ∈ (t.stream n).cur.toList ++ (t.stream n).closing, y.num = j.num →
             y.missed = true ∧ (b.missFails = true → y.failed = true))
         ∧ t.cnt? 0x6008 1 = min 0xFFFF (s.cnt? 0x6008 1 + 1)
         ∧ t.clk = { s.clk with due := if b.missSyncV then told else s.clk.due }
         ∧ t.sync = s.sync ∧ t.seq = s.seq ∧ t.host = s.host ∧ t.arr = s.arr ∧ t.ent = s.ent)
     ∧ (j.deadlineV = false ∨ b.rt = false → exec (.deadlineMiss q k) s = .next read))

/-- Waits that cannot end, and starved requests: after the detection window a local cycle, and after WAIT_LIMIT a wait that
is not met before, is treated as held and recorded; a cycle that leads to other devices sends them probes, once; a tier grant
takes one block of the next request, and one to a starved request is counted; a request that waited STARVE_LIMIT is
marked. -/
def Obligations.WaitsAndGrants : Prop :=
  ∀ (s : State) (x : Stall) (t : TierCtl) (n : Nat) (r : TierReq),
    let limit := x.tick + usTicks (s.ent? 0x4100 6)
    let tested := s.toTick (x.tick + usTicks x.window)
    let read := s.readRings 0xFFFF
    let q := s.tierQ t
    (s.seq.stall = some x → s.seq.st = .stalled → x.held = false → s.ent? 0x4100 6 ≠ 0 → s.waitsOn = true →
      (∀ e, s.waitEnds = some e → limit < e) → exec .waitLimit s = .next (endWait 0 (s.toTick limit)))
    ∧ (∀ e, s.seq.stall = some x → s.waitEnds = some e → e ≤ limit → exec .waitLimit s = .next s)
    ∧ (s.seq.stall = some x → s.ent? 0x4100 6 = 0 → exec .waitLimit s = .next s)
    ∧ (s.seq.stall = some x → s.seq.st = .stalled → x.held = false → tested.localCycle = true →
      exec .detectWindowExpiry s = .next (endWait 1 tested))
    ∧ (s.seq.stall = some x → s.seq.st = .stalled → x.held = false → tested.localCycle = false → tested.remoteEdges ≠ [] →
      x.probed = false → tested.isRankMaster = true →
      exec .detectWindowExpiry s = .next ((tested.remoteEdges.foldl (fun u e =>
        u.sendProbe e.2.1 tested.probeId tested.probeId) tested).modSeq
          (fun q => { q with stall := q.stall.map (fun y => { y with probed := true }) })))
    ∧ (s.seq.stall = none → exec .detectWindowExpiry s = .next s)
    ∧ (read.nextReq t = some r → (read.tierQ t).grants + 1 < 16 →
      let given := read.setTierQ t {
        reqs := (modBy (fun y => decide (y.id = r.id)) (fun y => { y with blocks := y.blocks - 1 })
          (read.tierQ t).reqs).filter (fun y => decide (y.blocks ≠ 0))
        given := setAt (read.tierQ t).given r.cls ((read.tierQ t).given.getD r.cls 0 + 1)
        grants := (read.tierQ t).grants + 1 }
      exec (.tierGrant t) s = .next (if r.starved then given.addCnt 0x6008 6 1 else given))
    ∧ (q.reqs.find? (fun y => decide (y.id = n)) = some r → r.arrival + usTicks (s.ent? 0x4400 5) ≤ s.clk.ticks →
      exec (.requestStarved t n) s = .next (s.setTierQ t { q with
        reqs := modBy (fun y => decide (y.id = n)) (fun y => { y with starved := true }) q.reqs }))

/-- Sensors and periods: a sample of a ring sensor and of a bank's temperature replaces that bank's reading alone, a logic
temperature above the grade's maximum by more than 15 °C trips the device; the backing copy's transaction, which waits for
the store plane, takes the active sets of the arrays that changed; the status region shows the arrays that convert; a period
or REPLAN_NOW = 1 starts a pass over every array that can be measured, or queues one behind the pass that runs. -/
def Obligations.SensorsAndPeriods : Prop :=
  ∀ (s : State) (m : Master) (b : BitVec 6) (f : Nat) (q : Int) (k : Fin 16) (v : BitVec 8),
    (∃ t, exec (.ringSensorSample b f) s = .next t ∧ t.agePeri b.toNat = min 255 (128 * f / 30000)
      ∧ (∀ c, c ≠ b.toNat → t.agePeri c = s.agePeri c) ∧ t = { s with arr := t.arr, cnt := t.cnt })
    ∧ (∃ t, exec (.bankTempSample b q) s = .next t ∧ t.bankTemp b.toNat = q
      ∧ (∀ c, c ≠ b.toNat → t.bankTemp c = s.bankTemp c) ∧ t.mem = s.mem ∧ t.host = s.host ∧ t.sync = s.sync
      ∧ t.clk = s.clk ∧ t.disp = s.disp ∧ t.dma = s.dma ∧ t.mig = s.mig ∧ t.ent = s.ent ∧ t.pending = s.pending)
    ∧ (s.junctionMax + 60 < q → s.pwr.tripped = false →
      ∃ t, exec (.logicTempSample k q) s = .next t ∧ t.pwr.tripped = true ∧ t.dom 135 = .off ∧ t.dom 147 = .off
        ∧ t.seq.st = .halted ∧ t.boot.stopped = true ∧ t.mem = s.mem ∧ t.host = s.host ∧ t.sync = s.sync)
    ∧ (let read : State := { s with pwr := { s.pwr with logicT := tset tempDefault s.pwr.logicT k.val q } }
      read.tAll ≤ s.junctionMax → s.pwr.hold = false → exec (.logicTempSample k q) s = .next read)
    ∧ exec .arrayStatusSample s = .next { s with arr := { s.arr with
        shown := (s.arr.phys.filter (fun p => decide (p.2.st = .converting))).map (fun p => p.1) } }
    ∧ exec .backingIntervalExpiry s = .next { s with
        media := { s.media with waiting := s.media.waiting ++ [s.backingWrite] }, arr := { s.arr with dirty := [] }
        nextId := s.nextId + 1 }
    ∧ (∃ sets ages, s.backingWrite.data = .backing sets ages s.clk.powered
      ∧ (∀ n ∈ s.arr.dirty, ∀ g, g < 32 → (n * 32 + g, BitVec.ofNat 64 (s.activeSet n g)) ∈ sets)
      ∧ (∀ n ∈ s.arr.dirty, (n, s.ageRecord n) ∈ ages))
    ∧ (∃ t, exec .replanPeriodExpiry s = .next t ∧ t.arr.pass.running = true
      ∧ (s.arr.pass.running = true → s.arr.pass.left.any (fun n => s.measurable n) = true → t.arr.pass.queued = true)
      ∧ (s.arr.pass.running = false → t.arr.pass.left = allArrays.filter (fun n => s.measurable n))
      ∧ t.mem = s.mem ∧ t.host = s.host ∧ t.sync = s.sync
      ∧ t.seq = s.seq ∧ t.clk = s.clk ∧ t.disp = s.disp ∧ t.eng = s.eng ∧ t.ent = s.ent ∧ t.pending = s.pending)
    ∧ (s.entryReady m 0x3100 10 →
      (v = 1 → exec (.replanNow m v) s = .next ((s.startPass false).wrote m 0x3100 10 0))
      ∧ (v ≠ 1 → exec (.replanNow m v) s = .next (s.wrote m 0x3100 10 abRange)))

/-- MAINTENANCE_PHASE_END. A phase that is not the last adds its codes, and the next follows unless an operation waits
for the array, SEQ_CLK does not meet R503 or the ceiling has fallen below the count; the last rebuilds the array's
margins and turns its MARGIN_GEN; an array that may be measured no more drops the measurement, and a silent one is
declared dead. MARGIN_SET_REWRITE writes an invalid active set from the backing copy, and operations in service keep the
set that they were admitted with. -/
def Obligations.MeasurementsRun : Prop :=
  ∀ (s : State) (n : Nat) (codes : List Int) (g : BitVec 5),
    let p := s.array n
    let before := if p.measured = [] then [[s.bankTemp (n / 264)]] else p.measured
    let taken := before ++ [phaseCodes (before.length - 1) codes]
    let goes := !s.wantedBy n && s.seqFull && decide (s.convertingAt s.clk.cycle ≤ s.ceiling)
    let which := b2n p.gen
    (s.mayMeasure n = true ∨ p.maint = true → s.measurable n = true → before.length < 16 →
      exec (.maintenancePhaseEnd n codes false) s = .next (s.modArray n (fun q => { q with
        measured := taken, maint := goes, st := if goes then .converting else .idle })).settle)
    ∧ (s.mayMeasure n = true ∨ p.maint = true → s.measurable n = true → before.length = 16 →
      ∃ t, exec (.maintenancePhaseEnd n codes false) s = .next t
        ∧ t = s.finishMeasurement n ((before.headD []).headD 0) (taken.drop 1)
        ∧ (t.array n).gen = !p.gen ∧ t.mem = s.mem ∧ t.sync = s.sync ∧ t.seq = s.seq ∧ t.clk = s.clk ∧ t.ent = s.ent)
    ∧ (p.maint = true → s.measurable n = false →
      exec (.maintenancePhaseEnd n codes false) s = .next (s.dropMeasurement n))
    ∧ (s.mayMeasure n = true ∨ p.maint = true →
      exec (.maintenancePhaseEnd n codes true) s = .next ((s.declareArrayDead n 2).leavePass n))
    ∧ (s.mayMeasure n = false → p.maint = false → ∀ ok, exec (.maintenancePhaseEnd n codes ok) s = .next s)
    ∧ (setValid (s.activeSet n g.toNat) = false →
      exec (.marginSetRewrite n g) s = .next ((s.keepSets n g.toNat which).setMset n g.toNat which
        (tget backingDefault s.arr.backing (n * 32 + g.toNat))))
    ∧ (setValid (s.activeSet n g.toNat) = true → exec (.marginSetRewrite n g) s = .next s)

/-- A set whose mirrors are ready and clean hands over when no admitted operation names it and none waits for it, or it is
forced: each address is then SERVED on its mirror. HANDOVER_WAIT_EXPIRY forces it. An old home that is owed an erase holds
level 0 afterwards, or is RETIRED when its erase-verify fails. An UNAVAILABLE address with a library tile takes the lowest
array of its bank that R62 allows, which starts to be programmed with the tile; without a library tile it stays. -/
def Obligations.HandoversAndRebuilds : Prop :=
  ∀ (s : State) (n : Nat) (ok : Bool) (a : BitVec 14) (h : HandoverSet),
    (s.getMove n = some h → h.allReady = true → s.setClean h = true → s.setAdmitted h = false →
      (h.forced = true ∨ s.setWaiting h = false) → (h.members.map (fun p => p.1)).Nodup →
      ∃ t, exec (.handover n) s = .next t
        ∧ (∀ p ∈ h.members, t.mapOf p.1 = { phys := p.2, st := .served })
        ∧ (∀ x, x ∉ h.members.map (fun p => p.1) → t.mapOf x = s.mapOf x)
        ∧ t.getMove n = none ∧ t = { s with
          arr := t.arr, awr := t.awr, cnt := t.cnt, cntRem := t.cntRem, disp := t.disp, holdMax := t.holdMax })
    ∧ (s.getMove n = some h → h.allReady = false ∨ s.setClean h = false ∨ s.setAdmitted h = true
        ∨ (h.forced = false ∧ s.setWaiting h = true) → exec (.handover n) s = .next s)
    ∧ (∀ t0, s.getMove n = some h → h.since = some t0 → h.forced = false → s.clk.due = [] →
      ∃ t, exec (.handoverWaitExpiry n) s = .next t ∧ t.getMove n = some { h with forced := true }
        ∧ t.cnt? 0x6003 6 = min 0xFFFF (s.cnt? 0x6003 6 + 1)
        ∧ t = { s with clk := t.clk, arr := t.arr, cnt := t.cnt })
    ∧ ((s.array n).st = .idle → (s.array n).mapped = false → (s.array n).eraseOpen = true → s.warned = false →
      s.eraseCommitted n = true → s.hvOpen (n / 264) = true →
      ∃ t, exec (.oldHomeErase n ok) s = .next t
        ∧ (∀ r c, r < 512 → c < 512 → t.cell n r c = 0) ∧ (∀ r c, r < 512 → c < 4 → t.refCode n r c = 0)
        ∧ (t.array n).eraseOpen = false ∧ (t.array n).erases = (s.array n).erases + 1
        ∧ (t.array n).st = (if ok then .idle else .retired)
        ∧ t.mem = s.mem ∧ t.host = s.host ∧ t.sync = s.sync ∧ t.seq = s.seq ∧ t.clk = s.clk ∧ t.ent = s.ent)
    ∧ (∀ tile, s.libTile a.toNat = some tile → (s.mapOf a.toNat).st = .unavailable → s.moveOf a.toNat = none →
      s.awBusy a.toNat = false → s.rebuildOf a.toNat = none →
      let usable := fun k => (s.array k).free && !s.taken k && !(s.array k).barred (a.toNat % 256)
      (∀ k ∈ bankArrays (a.toNat / 256), usable k = true → (∀ j ∈ bankArrays (a.toNat / 256), j < k → usable j = false) →
        ∃ t, exec (.addressRebuild a) s = .next t
          ∧ t.rebuildOf a.toNat = some { addr := a.toNat, array := k, tile := some tile, ready := false }
          ∧ (t.array k).st = .programming ∧ (t.array k).source = some tile ∧ (t.array k).progOpen = true
          ∧ (∀ j, j ≠ k → t.array j = s.array j) ∧ (∀ x, t.mapOf x = s.mapOf x) ∧ t = { s with arr := t.arr, cnt := t.cnt })
      ∧ ((∀ k ∈ bankArrays (a.toNat / 256), usable k = false) →
        exec (.addressRebuild a) s = .next (s.count 0x6002 6 clsDegraded).grantHv))
    ∧ (s.libTile a.toNat = none → exec (.addressRebuild a) s = .next s)

/-- SHADE_RECHECK of a quarantined array that its bank's high-voltage unit serves, its ERASE_OPEN mark committed, where the limits
of maintenance phases leave room: a new epoch tag, an erase, the test pattern, margins from the measurement and the eight read-back phases. An array that programs, reads
back within the fresh bound and erases again is IDLE and free; any other is RETIRED with QREASON 4, and one whose codes read
back wrong keeps the pattern; every other cell of it is at level 0. No other array changes. Without one of these the command
changes nothing. -/
def Obligations.ShadesAreRechecked : Prop :=
  ∀ (s : State) (n : Nat) (programs erases : Bool) (phases codes : List (List Int)), n < 16896 →
    let starts := (s.array n).st = .quarantined ∧ s.arr.hv.contains n = true ∧ s.eraseCommitted n = true
      ∧ s.roomToMeasure (n / 264) = true
    (starts →
      let begun : State := { s with arr := { s.arr with rechecks := s.arr.rechecks.filter (fun x => !decide (x.1 = n)) } }
      let blank := (begun.modArray n (fun q => { q with redEpoch := q.redEpoch + 1, epoch := q.redEpoch + 1 })).erased n
      let measured := (blank.writeTile n testTile).rebuildFrom n
        ((List.range 16).map (fun k => phaseCodes k (phases.getD k [])))
      let passes := programs = true ∧ measured.recheckPasses n codes = true ∧ erases = true
      ∃ t, exec (.shadeRecheck n programs phases codes erases) s = .next t
        ∧ (t.array n).st = (if passes then .idle else .retired) ∧ (t.array n).qreason = (if passes then 0 else 4)
        ∧ (∀ r c, r < 512 → c < 512 → t.cell n r c =
            (if programs = true ∧ measured.recheckPasses n codes = false then measured.cell n r c else 0))
        ∧ (t.array n).redEpoch = (s.array n).redEpoch + 1 ∧ (t.array n).epoch = (s.array n).redEpoch + 1
        ∧ (∀ k, k ≠ n → t.array k = s.array k)
        ∧ t.mem = s.mem ∧ t.host = s.host ∧ t.sync = s.sync ∧ t.seq = s.seq ∧ t.clk = s.clk ∧ t.ent = s.ent)
    ∧ (¬ starts → exec (.shadeRecheck n programs phases codes erases) s = .next s)

/-- MASTER_ACCESS of the buffer tier and of the sync region, and the accesses that fail: a byte that belongs to no region,
and a write of the exception ring; a failed read shows PCI Express bytes of 0xFF. While a clock ratio that it crosses is broken an
access may be lost, repeated or altered. -/
def Obligations.MasterAccesses : Prop :=
  ∀ (s : State) (m : Master) (a : BitVec 48) (n : Nat) (bs : List Byte) (o : BitVec 14) (v : Word),
    let broken := s.clk.ratioLost &&& s.ratios m a.toNat ≠ 0
    (broken → ∀ x : Access,
      ∃ t, exec (.masterAccess m a x) s = .next t ∧ Crossed s (accessPath m a.toNat x) (alteredAccess m x) t)
    ∧ (¬ broken → s.gated blkBuffer = false →
      (n ≠ 0 → inBuffer a.toNat n = true →
        exec (.masterAccess m a (.read n)) s = .next (s.emit (.readData m (Memory.gets s.mem a.toNat n))))
      ∧ (bs ≠ [] → inBuffer a.toNat bs.length = true →
        exec (.masterAccess m a (.write bs)) s = .next ((s.putMem a.toNat bs).emit (.pathOk m))))
    ∧ (¬ broken → s.gated blkSeq = false →
      (a.toNat = syncBase + 8 * o.toNat →
        exec (.masterAccess m a (.write (leBytes 4 v.toNat))) s = .next ((s.ySet o.toNat v).emit (.pathOk m))
        ∧ exec (.masterAccess m a (.read 4)) s = .next (s.emit (.readData m (leBytes 4 (s.y o.toNat).toNat))))
      ∧ (a.toNat = syncBase + 8 * o.toNat + 4 →
        exec (.masterAccess m a (.write (leBytes 4 v.toNat))) s =
          .next ((s.ySet o.toNat (s.y o.toNat + v)).emit (.pathOk m))))
    ∧ (¬ broken → n ≠ 0 → s.region a.toNat = .nowhere →
      (m ≠ .host → exec (.masterAccess m a (.read n)) s = .next (s.emit (.pathFail m)))
      ∧ (m = .host → exec (.masterAccess m a (.read n)) s =
        .next ((s.emit (.readData .host (List.replicate n 0xFF))).count 0x600D 1 clsFailed)))
    ∧ (¬ broken → bs ≠ [] → s.region a.toNat = .nowhere ∨ s.region a.toNat = .exc →
      exec (.masterAccess m a (.write bs)) s = .next (pathFails m s))

/-- Move records: MOVE_SUBMIT accepts a record of the buffer tier while fewer than 32 are held, MIGRATE and PREFETCH queue
up to 8, and MOVE_ACCEPT takes the oldest of them. -/
def Obligations.MoveRecordsAccepted : Prop :=
  ∀ (s : State) (m : Master) (v : DWord) (c : SlotCtx) (r : BitVec 5),
    let a := bits v.toNat 0 48
    let x := (s.x r).toNat
    (s.entryReady m 0x4500 5 →
      (moveAddrOk a = false → exec (.moveSubmit m v) s = .next (s.wrote m 0x4500 5 abRange))
      ∧ (moveAddrOk a = true → 32 ≤ s.mig.recs.length → exec (.moveSubmit m v) s = .next (s.wrote m 0x4500 5 abBusy))
      ∧ (moveAddrOk a = true → s.mig.recs.length < 32 → s.acceptsWork = true →
        ∃ (t : State) (q : MoveRec), exec (.moveSubmit m v) s = .next (t.wrote m 0x4500 5 0) ∧ t.mig.recs = s.mig.recs ++ [q]
          ∧ q.raw = recordAt s.mem a ∧ q.addr = a ∧ q.started = s.moveBad q ∧ q.status = (if q.started then 4 else 0)
          ∧ t = { s with mig := t.mig, nextId := s.nextId + 1 }))
    ∧ (s.seq.haltOwed = none → s.seq.moveQ.length < 8 → s.gated blkMigration = false → moveAddrOk x = true →
      let queued : State := { s with
        seq := { s.seq with moveQ := s.seq.moveQ ++ [{
          id := s.nextId, ctx := c, job := s.jobOf c, addr := x, issued := s.clk.cycle }] }
        nextId := s.nextId + 1 }
      exec (.migrate c r) s = .next queued
      ∧ (bits (numAt s.mem x 8) 0 4 = mkPromote → exec (.prefetch c r) s = .next queued)
      ∧ (bits (numAt s.mem x 8) 0 4 ≠ mkPromote → s.ent? 0x4100 5 = 0 →
        ∃ t, exec (.prefetch c r) s = .next t ∧ t.mig = s.mig
          ∧ t.seq = { s.seq with excHead := s.seq.excHead + 1, taking := t.seq.taking }))
    ∧ (8 ≤ s.seq.moveQ.length → exec (.migrate c r) s = .next (beginStall s)
      ∧ exec (.prefetch c r) s = .next (beginStall s))
    ∧ (∀ b rest, s.seq.moveQ = b :: rest → s.mig.recs.length < 32 → s.acceptsWork = true → s.clk.due = [] →
      ∃ t q, exec .moveAccept s = .next t ∧ t.seq.moveQ = rest ∧ t.mig.recs = s.mig.recs ++ [q]
        ∧ q.addr = b.addr ∧ q.job = b.job ∧ q.raw = recordAt s.mem b.addr
        ∧ t.clk.cycle = max s.clk.cycle (b.issued + 16)
        ∧ t.sync = s.sync ∧ t.host = s.host ∧ t.arr = s.arr ∧ t.eng = s.eng ∧ t.ent = s.ent)
    ∧ (s.seq.moveQ = [] → exec .moveAccept s = .next s)

/-- The record that starts next. CREATE places an object's tiles, and zeroes them unless it adopts what DST_ADDR names;
DESTROY ends the object and its tile entries; PROMOTE and EVICT class every named tile, or end the record with the reason;
SET_HINTS replaces HINTS, a PIN waiting for the tiles that are MOVING. No home changes, and no other object. -/
def Obligations.MoveRecordsRun : Prop :=
  ∀ (s : State) (id : Nat) (r : MoveRec),
    let o := s.obj r.obj
    let n := ceilDiv r.size tileSize
    let allowed := o.exist = true ∧ (o.domain = r.domain ∨ o.hints.getLsbD 1 = true)
    (s.nextStartRec id mkCreate = some r →
      (o.exist = true → exec (.create id) s = .next (finishRec r.id 4 s))
      ∧ (∀ mf ls, o.exist = false → s.overQuota r.domain r.dstTier n = false → s.mapRun n = some mf →
        createLocs r n s = some ls → s.mig.bulkSize ≠ 0 →
        ∃ t, exec (.create id) s = .next t
          ∧ (t.obj r.obj).exist = true ∧ (t.obj r.obj).size = r.size ∧ (t.obj r.obj).domain = r.domain
          ∧ (t.obj r.obj).held = false
          ∧ (∀ k l, ls[k]? = some l → t.tileEnt (mf + k) = { tileDefault 0 with tier := r.dstTier, home := l })
          ∧ (r.absDst = true → t.mem = s.mem)
          ∧ (r.absDst = false → ∀ l ∈ ls, ∀ b, b < tileSize → Memory.byte t.mem (tierBase r.dstTier + l * tileSize + b) = 0)
          ∧ (∀ k, k ≠ r.obj → t.obj k = s.obj k) ∧ t = { s with mig := t.mig, mem := t.mem, media := t.media }))
    ∧ (s.nextStartRec id mkDestroy = some r →
      (allowed → ∃ t, exec (.destroy id) s = .next t ∧ t.obj r.obj = objDefault 0
        ∧ (∀ i ∈ o.entries, t.tileEnt i = tileDefault i) ∧ (∀ k, k ≠ r.obj → t.obj k = s.obj k)
        ∧ t = { s with
          arr := t.arr, awr := t.awr, mem := t.mem, mig := t.mig, media := t.media, cnt := t.cnt, out := t.out, bulkQ := t.bulkQ
          deepQ := t.deepQ, nextId := t.nextId })
      ∧ (o.exist = false → exec (.destroy id) s = .next (finishRec r.id 8 s))
      ∧ (o.exist = true → o.domain ≠ r.domain → o.hints.getLsbD 1 = false →
        exec (.destroy id) s = .next (finishRec r.id 5 s)))
    ∧ (∀ p ∈ ([(.promote id, mkPromote), (.evict id, mkEvict)] : List (Instr × Nat)), s.nextStartRec id p.2 = some r →
      (s.moveRefused r ≠ 0 → exec p.1 s = .next (finishRec r.id (s.moveRefused r) s))
      ∧ (s.moveRefused r = 0 → ∃ t q, exec p.1 s = .next t ∧ t.getRec id = some q ∧ q.started = true
        ∧ (q.status ≠ 0 ∨ q.tiles.map (fun k => k.1) = r.named)
        ∧ (∀ i, (t.tileEnt i).tier = (s.tileEnt i).tier ∧ (t.tileEnt i).home = (s.tileEnt i).home)
        ∧ t = { s with
          mem := t.mem, mig := t.mig, media := t.media, cnt := t.cnt, out := t.out, bulkQ := t.bulkQ
          deepQ := t.deepQ, nextId := t.nextId }))
    ∧ (s.nextStartRec id mkSetHints = some r →
      (allowed → exec (.setHints id) s = .next (finishRec r.id 0 (s.setObj r.obj { o with
        hints := r.hints
        pinWait := if r.hints.getLsbD 0 = false then [] else if o.hints.getLsbD 0 then o.pinWait
          else o.entries.filter (fun i => (s.tileEnt i).moving) })))
      ∧ (o.exist = true → o.domain ≠ r.domain → o.hints.getLsbD 1 = false →
        exec (.setHints id) s = .next (finishRec r.id 5 s))
      ∧ (o.exist = false → exec (.setHints id) s = .next (finishRec r.id 8 s)))

/-- Tiles move, records end and holds end. A tile that starts to copy is MOVING and keeps its home; a clean copy commits,
a dirty one is copied again, a lost source poisons the tile, a failed destination is replaced once; tiles for the array tier
go to one array write. A settled record writes its result word and signals one cycle later. A hold ends when its sync object
is reached or at HOLD_LIMIT. -/
def Obligations.TilesMoveAndCommit : Prop :=
  ∀ (s : State) (r : MoveRec) (o : BitVec 14) (k : BitVec 13) (d : Nat) (again : Bool) (tier : BitVec 2) (l : Nat),
    let i := s.entryOf r k.toNat
    let e := s.tileEnt i
    let next := s.mig.recs.find? (fun q => (q.nextTile.isSome || decide (q.resubmitted ≠ [])) && !(decide (q.dstTier = 0) &&
      s.awr.ws.any (fun w => decide (w.byMove = some q.id))))
    let unread := fun (p : Nat × Nat) => (s.homeBytes (s.tileEnt (s.entryOf r p.1))).isNone
    (next = some r → s.copyingTiles < 32 → s.warned = false → r.dstTier ≠ 0 → r.nextTile = some (k.toNat, d) →
      (s.obj r.obj).pinned i = false → reach r.kind r.dstTier r.obj k.toNat d s = .reserved d →
      ∃ t, exec .tileCopyStart s = .next t
        ∧ t.tileEnt i = { e with moving := true, dirty := false, dstTier := r.dstTier, dst := d }
        ∧ (∀ j, j ≠ i → t.tileEnt j = s.tileEnt j)
        ∧ t = { s with mig := t.mig, bulkQ := t.bulkQ, deepQ := t.deepQ, nextId := t.nextId })
    ∧ (next = some r → r.dstTier ≠ 0 → 32 ≤ s.copyingTiles → exec .tileCopyStart s = .next s)
    ∧ (next = some r → r.dstTier = 0 → s.warned = false →
      ((r.reservedTiles ++ r.resubmitted).find? unread = none → exec .tileCopyStart s = .next (submitToArrays r s))
      ∧ (∀ p, (r.reservedTiles ++ r.resubmitted).find? unread = some p → exec .tileCopyStart s = .next (poisonTile r p.1 s)))
    ∧ (s.mover o.toNat k.toNat = some (r, .copying d again) → r.dstTier = 0 → s.warned = false →
      s.reachLoc e.tier e.home false = .ok →
      (s.homeBytes e ≠ none → exec (.tileCopyEnd o k .done) s = .next (endArrayCopy r k.toNat d s))
      ∧ (s.homeBytes e = none → exec (.tileCopyEnd o k .done) s = .next (poisonArrayTile r k.toNat s))
      ∧ exec (.tileCopyEnd o k .sourceLost) s = .next (poisonArrayTile r k.toNat s))
    ∧ (s.mover o.toNat k.toNat = some (r, .copying d again) → r.dstTier ≠ 0 → s.warned = false →
      s.reachLoc e.tier e.home false = .ok → s.reachLoc r.dstTier d true = .ok →
      (∀ bs, s.homeBytes e = some bs → e.dirty = false →
        ∃ t, exec (.tileCopyEnd o k .done) s = .next t ∧ (t.tileEnt i).tier = r.dstTier ∧ (t.tileEnt i).home = d
          ∧ (t.tileEnt i).moving = false ∧ t.cnt? 0x6009 1 = min 0xFFFF (s.cnt? 0x6009 1 + 1)
          ∧ t.host = s.host ∧ t.clk = s.clk ∧ t.eng = s.eng ∧ t.disp = s.disp ∧ t.ent = s.ent)
      ∧ (∀ bs, s.homeBytes e = some bs → e.dirty = true →
        exec (.tileCopyEnd o k .done) s =
          .next (((s.noteCopy r k.toNat d).setTile i { e with dirty := false, recopies := e.recopies + 1 }).addCnt 0x6009 2 1))
      ∧ (∃ t, exec (.tileCopyEnd o k .sourceLost) s = .next t ∧ (t.tileEnt i).poisoned = true
          ∧ t.cnt? 0x6009 8 = min 0xFFFF (s.cnt? 0x6009 8 + 1))
      ∧ (∀ n rest, again = false → s.freeLocs r.dstTier 1 = some (n :: rest) →
        exec (.tileCopyEnd o k .destinationFailed) s =
          .next (((s.setMove r.id k.toNat (.copying n true)).setTile i { e with dst := n, dirty := false }).noteCopy r k.toNat n)))
    ∧ (s.mover o.toNat k.toNat = none → exec (.tileCopyEnd o k .done) s = .next s)
    ∧ exec (.oldLocationRelease tier l) s =
        .next { s with mig := { s.mig with oldLocs := s.mig.oldLocs.erase (tier.toNat, l) } }
    ∧ (∀ id, s.getRec id = some r →
      let told := insertDue (s.clk.cycle + 1) (.signal (BitVec.ofNat 14 (r.f 64 14)) 1) s.clk.due
      (r.settled = true → ∃ t, exec (.moveResultWrite id) s = .next t
        ∧ t.mem = (if r.resultV = true ∧ s.inBufBulk r.resultAddr 16 = true
            then Memory.puts s.mem r.resultAddr (r.word s.tick32) else s.mem)
        ∧ t.clk = (if bit r.raw.toNat 78 = true then { s.clk with due := told } else s.clk)
        ∧ t.mig = { s.mig with recs := s.mig.recs.filter (fun q => decide (q.id ≠ r.id)) }
        ∧ t = { s with mem := t.mem, clk := t.clk, mig := t.mig, media := t.media, cnt := t.cnt })
      ∧ (r.settled = false → exec (.moveResultWrite id) s = .next s))
    ∧ (let x := s.obj o.toNat
      (x.held = true → Word.reached (s.y x.holdSync.toNat) x.holdValue = true →
        ∃ t, exec (.holdEnd o) s = .next t
          ∧ t.obj o.toNat = { x.unheld with pinWait := (t.obj o.toNat).pinWait } ∧ (∀ j, j ≠ o.toNat → t.obj j = s.obj j)
          ∧ t = { s with
            mem := t.mem, mig := t.mig, media := t.media, cnt := t.cnt, out := t.out, bulkQ := t.bulkQ
            deepQ := t.deepQ, nextId := t.nextId })
      ∧ (x.held = true → s.clk.due = [] → ∃ t, exec (.holdLimitExpiry o) s = .next t
          ∧ t.obj o.toNat = { x.unheld with pinWait := (t.obj o.toNat).pinWait }
          ∧ t.cnt? 0x6009 6 = min 0xFFFF (s.cnt? 0x6009 6 + 1) ∧ s.holdLimitTick x ≤ t.clk.ticks
          ∧ t = { s with
            clk := t.clk, mem := t.mem, mig := t.mig, media := t.media, cnt := t.cnt, out := t.out, bulkQ := t.bulkQ
            deepQ := t.deepQ, nextId := t.nextId })
      ∧ (x.held = false → exec (.holdEnd o) s = .next s ∧ exec (.holdLimitExpiry o) s = .next s))

/-- Array writes. ARRAY_WRITE of a record that passes its checks adds a write that names the record's addresses; a refused
one changes nothing. On an array that its bank's high-voltage unit serves, its mark committed, a loop on a row whose codes fall in their windows
holds the source's codes and moves to the next row, and the last row ends the program; one that does not counts a loop, and
the sixteenth is a row failure; the third failure of a tile retires the array. An erase leaves level 0 in every cell. A
write that the MEDIA partition has committed, or that has nothing to commit, leaves the engine, writes its result word and signals
one cycle later. -/
def Obligations.ArraysAreWritten : Prop :=
  ∀ (s : State) (m : Master) (v : DWord) (n : Nat) (id : Nat) (w : ArrayWrite),
    let a := bits v.toNat 0 48
    let p := s.array n
    let runs := p.st = .programming ∧ p.source.isSome = true ∧ p.eraseOpen = false ∧ s.warned = false
      ∧ s.arr.hv.contains n = true ∧ s.programCommitted n = true
    (s.entryReady m 0x3200 1 → ∀ c ∈ ([.arrayWriteInstall m v, .arrayWriteRewrite m v] : List Instr),
      (s.awRefused a ≠ 0 → exec c s = .next (s.wrote m 0x3200 1 (s.awRefused a)))
      ∧ (s.awRefused a = 0 → ∃ (t : State) (x : ArrayWrite), exec c s = .next (t.wrote m 0x3200 1 0)
        ∧ x ∈ t.awr.ws ∧ x.id = s.nextId ∧ x.install = awInstall (numAt s.mem a 64)
        ∧ x.addrs.map (fun y => y.addr) = awAddrs s.mem (numAt s.mem a 64)
        ∧ t.awr.ws.length = s.awr.ws.length + 1
        ∧ t = { s with
          arr := t.arr, awr := t.awr, media := t.media, cnt := t.cnt, cntRem := t.cntRem, disp := t.disp, holdMax := t.holdMax
          nextId := t.nextId, bulkQ := t.bulkQ, deepQ := t.deepQ }))
    ∧ (runs → p.loops ≠ 0 ∨ p.rowsOpen ≤ p.rowsDone →
      (p.rowsDone + 1 < 512 → ∃ t, exec (.pulseVerifyLoop n true) s = .next t
        ∧ (t.array n).rowsDone = p.rowsDone + 1 ∧ (t.array n).loops = 0
        ∧ (∀ src c, p.source = some src → src.length = 262144 → c < 512 →
            t.cell n p.rowsDone c = src.getD (512 * p.rowsDone + c) 0)
        ∧ (∀ k, k ≠ n → t.array k = s.array k) ∧ t = { s with arr := t.arr })
      ∧ (p.rowsDone + 1 = 512 → ∃ t, exec (.pulseVerifyLoop n true) s = .next t
        ∧ (t.array n).st = .idle ∧ (t.array n).progOpen = false ∧ (t.array n).source = none
        ∧ (∀ k, k ≠ n → t.array k = s.array k) ∧ t = { s with arr := t.arr, awr := t.awr })
      ∧ (p.loops + 1 < 16 → exec (.pulseVerifyLoop n false) s = .next (s.modArray n (fun q => { q with
          loops := q.loops + 1, rowsOpen := q.rowsDone + 1 })))
      ∧ (p.loops + 1 = 16 → ∃ t, exec (.pulseVerifyLoop n false) s = .next t
        ∧ t.cnt? 0x600A 1 = min 0xFFFF (s.cnt? 0x600A 1 + 1)
        ∧ (p.failures < 2 → (t.array n).eraseOpen = true ∧ (t.array n).failures = p.failures + 1)
        ∧ (2 ≤ p.failures → (t.array n).st = .retired)))
    ∧ (¬ runs → exec (.pulseVerifyLoop n true) s = .next s ∧ exec (.pulseVerifyLoop n false) s = .next s)
    ∧ (p.st = .programming → p.eraseOpen = true → s.arr.hv.contains n = true → s.eraseCommitted n = true →
      (p.source ≠ none → ∃ t, exec (.arrayEraseEnd n true) s = .next t ∧ (∀ r c, r < 512 → c < 512 → t.cell n r c = 0)
        ∧ t.array n = { p with
            erases := p.erases + 1, eraseOpen := false, progOpen := true, rowsDone := 0, rowsOpen := 0, loops := 0,
            ageRet := 0, baseline := 0, measured := [], maint := false }
        ∧ (∀ k, k ≠ n → t.array k = s.array k) ∧ t = { s with arr := t.arr })
      ∧ (p.source = none → ∃ t, exec (.arrayEraseEnd n true) s = .next t ∧ (∀ r c, r < 512 → c < 512 → t.cell n r c = 0)
        ∧ (t.array n).st = .idle ∧ (t.array n).eraseOpen = false
        ∧ (∀ k, k ≠ n → t.array k = s.array k) ∧ t = { s with arr := t.arr })
      ∧ (∃ t, exec (.arrayEraseEnd n false) s = .next t ∧ (t.array n).st = .retired))
    ∧ (s.awr.ws.find? (fun x => decide (x.id = id)) = some w →
      let told := insertDue (s.clk.cycle + 1) (.signal w.sync 1) s.clk.due
      (w.ends = true → w.byMove = none → ∃ t, exec (.arrayWriteResult id) s = .next t
        ∧ t.mem = (if w.resultV then Memory.puts s.mem w.resultAddr (w.word s.tick32) else s.mem)
        ∧ t.clk = (if w.syncV then { s.clk with due := told } else s.clk)
        ∧ t.awr.ws = s.awr.ws.filter (fun x => decide (x.id ≠ w.id))
        ∧ t.media.map = s.media.map ∧ t.media.index = s.media.index
        ∧ t = { s with mem := t.mem, clk := t.clk, awr := t.awr, media := t.media, cnt := t.cnt, bulkQ := t.bulkQ
                       deepQ := t.deepQ, nextId := t.nextId })
      ∧ (∀ k r, w.ends = true → w.byMove = some k → s.getRec k = some r →
        exec (.arrayWriteResult id) s = .next (endArrayMove w r (endWrite w s)))
      ∧ (w.ends = false → exec (.arrayWriteResult id) s = .next s))

/-- The store plane. A page programs at the block's write pointer, for the transaction under way or the next that waits, and the
last page of a transaction commits it: what it holds becomes readable; one that fails its status ends the use of the block, whose
transactions are rewritten elsewhere; one below the write pointer is refused and counted. A read with 37 to 72 corrected bits
moves the transaction and is counted, one with more loses the page; the erases in its plane resume. An erase of a block without
committed data, its mark committed, empties it, a failed one makes it bad; a suspended one keeps its mark. The scrub starts a day
after the last. -/
def Obligations.StorePlaneOperations : Prop :=
  ∀ (s : State) (k : Nat) (part : Partition) (item bitsN : Nat) (ok last : Bool),
    let b := s.storeBlk k
    let open' := b.bad = false ∧ b.eraseOpen = false ∧ b.erasing = false ∧ s.markedErase k = false ∧ s.partOf k ≠ none
    let items := fun (t : State) => t.media.trans.map (fun z => z.item)
    (∀ x, open' → s.storeTx k = some x → b.wp < s.blockPages k → s.mayProgram = true →
      let y : Transact := { x with pages := x.pages + 1 }
      (y.ends last = false → ∃ t, exec (.storePageProgramEnd k b.wp true last) s = .next t
        ∧ t.storeBlk k = { b with wp := b.wp + 1 } ∧ t.media.writing = some y ∧ t.media.trans = s.media.trans
        ∧ t.media.pageRuns = false ∧ (∀ j, j ≠ k → t.storeBlk j = s.storeBlk j) ∧ t = { s with media := t.media })
      ∧ (y.ends last = true → ∃ t, exec (.storePageProgramEnd k b.wp true last) s = .next t
        ∧ t.media.writing = none
        ∧ (∃ z ∈ t.media.trans, z.part = y.part ∧ z.item = y.item ∧ z.blocks = y.blocks ∧ z.data = y.data ∧ z.committed = true)
        ∧ (∀ i codes, y.data = .tile i codes → tget (fun _ => []) t.media.lib i = codes)
        ∧ (∀ sets ages secs, y.data = .backing sets ages secs → t.media.savedSecs = secs)
        ∧ (∀ maps arrs ix ws bl, y.data = .media maps arrs ix ws bl → t.media.map = maps ∧ t.media.arrs = arrs)
        ∧ (∀ vals m, y.data = .settings vals m → t.media.stored = vals)
        ∧ (∀ r alt, y.data = .ledger r alt → t.boot.ring.getLast? = some r ∧ t.boot.ringAlt = alt)
        ∧ t.mem = s.mem ∧ t.host = s.host ∧ t.sync = s.sync ∧ t.clk = s.clk ∧ t.disp = s.disp ∧ t.eng = s.eng
        ∧ t.mig = s.mig ∧ t.dma = s.dma ∧ t.pwr = s.pwr ∧ t.ent = s.ent ∧ t.nextId = s.nextId + 1)
      ∧ (∃ t, exec (.storePageProgramEnd k b.wp false last) s = .next t ∧ (t.storeBlk k).bad = true
        ∧ (∀ w, t.media.writing = some w → k ∉ w.blocks) ∧ items t = items s ∧ t = { s with media := t.media }))
    ∧ (∀ page, open' → page < b.wp → ∃ t, exec (.storePageProgramEnd k page ok last) s = .next t
      ∧ t.cnt? 0x600A 11 = min 0xFFFF (s.cnt? 0x600A 11 + 1) ∧ items t = items s
      ∧ t = { s with media := t.media, cnt := t.cnt })
    ∧ (∀ page, ¬ open' ∨ (b.wp ≤ page ∧ (s.storeTx k = none ∨ b.wp < page ∨ s.blockPages k ≤ page ∨ s.mayProgram = false)) →
      exec (.storePageProgramEnd k page ok last) s = .next s)
    ∧ (s.planeErases k = false → b.eraseOpen = false →
      (bitsN ≤ 36 → exec (.storePageReadEnd part k item bitsN false) s = .next (s.resumeErases k))
      ∧ (36 < bitsN → bitsN ≤ 72 → ∃ t, exec (.storePageReadEnd part k item bitsN false) s = .next t
        ∧ t.cnt? 0x600A 7 = min 0xFFFF (s.cnt? 0x600A 7 + 1) ∧ items t = items s
        ∧ (∀ x, s.media.trans.find? (fun z => z.lies k && decide (z.item = item)) = some x → k ∈ x.blocks → k ∉ x.twins →
          let n := ceilDiv x.pages (partPages (some x.part))
          n ≤ ((s.resumeErases k).freshBlocks x.part
              (if x.part = .media then (x.blocks.head?).map blockDie else none) n).length →
          ∀ z ∈ t.media.trans, z.part = x.part → z.item = item → k ∉ z.blocks)
        ∧ t = { s with media := t.media, cnt := t.cnt })
      ∧ (72 < bitsN ∨ ok = true → ∃ t, exec (.storePageReadEnd part k item bitsN ok) s = .next t
        ∧ t.cnt? 0x600A 6 = min 0xFFFF (s.cnt? 0x600A 6 + 1)
        ∧ (∀ x ∈ s.media.trans, x.lies k = true → x.item = item →
          (part = .library → ∀ n, x.tile? = some n → ∀ p ∈ t.media.index, p.2 ≠ some n)
          ∧ (part = .margin → ∀ n ∈ x.backs, n ∈ t.media.marginLost))
        ∧ (part = .firmware → t.boot.imageLost = true)
        ∧ t = { s with media := t.media, boot := t.boot, cnt := t.cnt }))
    ∧ (s.planeErases k = true ∨ b.eraseOpen = true → exec (.storePageReadEnd part k item bitsN ok) s = .next s)
    ∧ (let erases := b.bad = false ∧ b.suspended = false ∧ s.mediaHeld = false ∧ s.holdsData k = false ∧ b.eraseOpen = true
        ∧ s.markedErase k = true
      (erases →
        exec (.storeBlockEraseEnd k true) s = .next (s.modBlk k (fun q => { q with
          erases := q.erases + 1, eraseOpen := false, wp := 0, erasing := false, suspends := 0 }))
        ∧ ∃ t, exec (.storeBlockEraseEnd k false) s = .next t ∧ (t.storeBlk k).bad = true ∧ t = { s with media := t.media })
      ∧ (¬ erases → exec (.storeBlockEraseEnd k ok) s = .next s))
    ∧ (let stops := b.bad = false ∧ b.suspended = false ∧ b.suspends < 16 ∧ b.erasing = true
      (stops → exec (.storeEraseSuspend k) s = .next (s.modBlk k (fun q => { q with
        suspended := true, suspends := q.suspends + 1 })))
      ∧ (¬ stops → exec (.storeEraseSuspend k) s = .next s))
    ∧ (s.clk.due = [] → ∃ t, exec .storeScrub s = .next t ∧ t.media = { s.media with lastScrub := t.clk.ticks }
      ∧ s.media.lastScrub + dayTicks ≤ t.clk.ticks ∧ t = { s with clk := t.clk, media := t.media })

/-- The deep tier and its NAND. A write completes when its bytes are held, and no other byte changes; while a clock ratio is
broken it may be lost, repeated or altered. A merge, due from 16 logged tiles on or on an idle tier, a move of wear or of reads
that disturb a block, due from READ_DISTURB_LIMIT on or after a weak read, makes an extent RELOCATING with a free block, and the end of the merge maps the extent there whole; a block that fails its status is bad from then on. -/
def Obligations.DeepTierOperations : Prop :=
  ∀ (s : State) (m : Master) (a : BitVec 48) (bs : List Byte) (e : BitVec 18) (k b : Nat) (er weak : Bool),
    let x := s.ext e.toNat
    let broken := s.clk.ratioLost &&& s.ratios m a.toNat ≠ 0
    (broken → ∃ t, exec (.deepWrite m a bs) s = .next t ∧ Crossed s
      (fun u => if s.inDeep a.toNat bs.length then accessPath m a.toNat (.write bs) u else pathFails m u)
      (alteredAccess m (.write bs)) t)
    ∧ (¬ broken → s.inDeep a.toNat bs.length = false → exec (.deepWrite m a bs) s = .next (pathFails m s))
    ∧ (¬ broken → bs ≠ [] → s.inDeep a.toNat bs.length = true → s.mig.deepSize ≤ 2 ^ 40 →
      s.bulkEnd ≤ deepBase → s.media.deepLost = false → s.media.roDeep = false → s.gated blkDeep = false →
      s.media.deepHold = false → s.warned = false →
      ∃ t, exec (.deepWrite m a bs) s = .next t ∧ t.mem = Memory.puts s.mem a.toNat bs ∧ t.out = s.out ++ [.pathOk m]
        ∧ t = { s with mem := t.mem, media := t.media, deepQ := t.deepQ, nextId := t.nextId, out := t.out })
    ∧ (x.st = .logged → s.ftlRuns = true → (16 ≤ x.log.length ∨ s.deepQ.reqs = []) → s.freeBlock false = some b →
      ∃ t, exec (.ftlMerge e) s = .next t ∧ t.ext e.toNat = { x with st := .relocating, next := some b }
        ∧ (∀ j, j ≠ e.toNat → t.ext j = s.ext j) ∧ t = { s with media := t.media })
    ∧ (x.st = .relocating → s.ftlRuns = true → x.next = some b →
      ∃ t, exec (.ftlMerge e) s = .next t
        ∧ t.ext e.toNat = { x with
          st := .mapped, log := [], merging := [], based := true, block := b, next := none }
        ∧ (x.based = true → (t.nandBlk x.block).erasing = true)
        ∧ (∀ j, j ≠ e.toNat → t.ext j = s.ext j) ∧ t = { s with media := t.media })
    ∧ (x.st = .logged → x.log.length < 16 → s.deepQ.reqs ≠ [] → exec (.ftlMerge e) s = .next s)
    ∧ (x.st ≠ .logged → x.st ≠ .relocating → exec (.ftlMerge e) s = .next s)
    ∧ (let l := s.usedErases
      (s.oldestExtent = some k → s.ent? 0x4600 7 < l.foldl max 0 - l.foldl min (l.headD 0) → s.ftlRuns = true →
        (s.ext k).st ≠ .relocating → s.freeBlock true = some b →
        ∃ t, exec .wearLevelMove s = .next t ∧ t.ext k = { s.ext k with st := .relocating, next := some b }
          ∧ (∀ j, j ≠ k → t.ext j = s.ext j)
          ∧ t = { s with media := t.media, bulkQ := t.bulkQ, deepQ := t.deepQ, nextId := t.nextId })
      ∧ (l.foldl max 0 - l.foldl min (l.headD 0) ≤ s.ent? 0x4600 7 → exec .wearLevelMove s = .next s))
    ∧ (s.ftlRuns = true → s.extentsIn k ≠ [] → weak = true ∨ s.ent? 0x4600 5 ≤ (s.nandBlk k).reads →
      ∃ t, exec (.readDisturbRelocate k weak none) s = .next t
      ∧ t = ((s.extentsIn k).foldl (fun u j => u.relocate false j) s).addCnt 0x600A 8 1
      ∧ t.cnt? 0x600A 8 = min 0xFFFF (s.cnt? 0x600A 8 + 1) ∧ (∀ j, j ∉ s.extentsIn k → t.ext j = s.ext j)
      ∧ t = { s with media := t.media, cnt := t.cnt })
    ∧ ((s.nandBlk k).reads < s.ent? 0x4600 5 → exec (.readDisturbRelocate k false none) s = .next s)
    ∧ (s.extentsIn k = [] → exec (.readDisturbRelocate k weak none) s = .next s
      ∧ ∀ j i y, s.mig.tiles.find? (fun p => decide (p.2.tier = 3) && decide (p.2.home = j)) = some (i, y) →
        exec (.readDisturbRelocate k weak (some j)) s =
          .next (((s.setTile i { y with poisoned := true }).addCnt 0x6009 8 1).count 0x600A 10 clsFailed))
    ∧ ((s.nandBlk k).bad = false → k < s.media.nandBlocks → ∃ t, exec (.nandStatusFail k er) s = .next t
      ∧ (t.nandBlk k).bad = true ∧ t.cnt? 0x600A 9 = min 0xFFFF (s.cnt? 0x600A 9 + 1)
      ∧ t = { s with media := t.media, cnt := t.cnt })
    ∧ ((s.nandBlk k).bad = true ∨ s.media.nandBlocks ≤ k → exec (.nandStatusFail k er) s = .next s)

/-- R392. A trim returns its extent to UNMAPPED, with no location of its own, and the extent reads zero; the other extents
keep theirs. A trim of an extent that holds the home of a MOVING tile is refused as busy, and a number beyond the extents
as out of range. -/
def Obligations.DeepTrim : Prop :=
  ∀ (s : State) (m : Master) (v : Word), s.entryReady m 0x4600 6 →
    (262144 ≤ v.toNat → exec (.deepTrim m v) s = .next (s.wrote m 0x4600 6 abRange))
    ∧ (v.toNat < 262144 → s.extentMoving v.toNat = true → exec (.deepTrim m v) s = .next (s.wrote m 0x4600 6 abBusy))
    ∧ (v.toNat < 262144 → s.extentMoving v.toNat = false →
      let lo := deepBase + v.toNat * 0x400000
      ∃ t : State, exec (.deepTrim m v) s = .next (t.wrote m 0x4600 6 0)
        ∧ t.ext v.toNat = extDefault v.toNat ∧ (t.ext v.toNat).st = .unmapped ∧ (t.ext v.toNat).based = false
        ∧ (t.ext v.toNat).log = [] ∧ (∀ j, j ≠ v.toNat → t.ext j = s.ext j)
        ∧ (∀ x, Memory.byte t.mem x = if lo ≤ x ∧ x < lo + 0x400000 then 0 else Memory.byte s.mem x)
        ∧ t = { s with mem := t.mem, media := t.media })

/-- The cascade ports: training steps, LINK_UP and LINK_DOWN, flits accepted in order or answered by NAK once, replay,
retraining, training records that a peer forwards, links further on, and the end of the wait after a route changed. Device
memory, host memory, the sync objects and the sequencer stay. -/
def Obligations.CascadePorts : Prop :=
  ∀ (s : State) (f : Fin 4) (r : TrainRec) (d : BitVec 8) (role : BitVec 5) (w : BitVec 1024) (ack : BitVec 12) (l : FarLink)
    (n : Word) (pt : BitVec 2),
    let k := f.val
    let p := s.port k
    let kept := fun (t : State) => t.mem = s.mem ∧ t.host = s.host ∧ t.sync = s.sync ∧ t.seq = s.seq ∧ t.clk = s.clk
      ∧ t.arr = s.arr ∧ t.eng = s.eng ∧ t.ent = s.ent
    let cut := fun (t : State) (x : Nat → Prop) => ∀ q e, q < 16 → e < 4 →
      ((s.stream q).recv e).kind = 2 → x ((s.stream q).recv e).device → ((s.stream q).recv e).rst = .attached →
      ((t.stream q).recv e).rst = .detached ∧ t.credit q e = 0
    (p.st = .down → s.portLive k = true → exec (.cascadePortRetry f) s = .next (s.modPort k (fun x => { x with
      st := .training, step := 0, attempt := if s.slowPorts then 3 else 0 })))
    ∧ (p.st ≠ .down ∨ s.portLive k = false → exec (.cascadePortRetry f) s = .next s)
    ∧ (p.st = .training →
      (p.step < 4 → exec (.linkTraining f .pass) s = .next (s.modPort k (fun x => { x with step := x.step + 1 })))
      ∧ (p.step = 4 → exec (.linkTraining f .pass) s =
          .next ((s.modPort k (fun x => { x with step := x.step + 1 })).emit (.training k (s.selfRec k))))
      ∧ (p.step = 5 → exec (.linkTraining f (.record r d)) s =
          .next (s.modPort k (fun x => { x with step := 6, peer := some r, delay := d })))
      ∧ (p.step < 6 → p.attempt < 5 → exec (.linkTraining f .fail) s =
          .next (s.modPort k (fun x => { x with attempt := x.attempt + 1 })))
      ∧ (p.step < 6 → 5 ≤ p.attempt → ∃ t, exec (.linkTraining f .fail) s = .next t ∧ (t.port k).st = .down ∧ kept t))
    ∧ (p.st ≠ .training → exec (.linkTraining f .fail) s = .next s ∧ exec (.linkUp (.own f)) s = .next s)
    ∧ (p.peer = some r → p.st = .training → p.step = 6 → ∃ t, exec (.linkUp (.own f)) s = .next t
      ∧ (t.port k).st = (if s.staleRecord r = true then .quarantine else .up)
      ∧ (t.port k).lanes = (if p.attempt % 3 = 0 then 8 else 4) ∧ (t.port k).slow = decide (3 ≤ p.attempt) ∧ kept t)
    ∧ (p.st ≠ .down → ∃ t, exec (.linkDown (.own f)) s = .next t ∧ (t.port k).st = .down ∧ (t.port k).replay = []
      ∧ (t.port k).retrains = p.retrains
      ∧ (p.peer.isSome = true → cut t (fun x => tget noRoute s.casc.routes x = some k)) ∧ kept t)
    ∧ (p.st = .down → exec (.linkDown (.own f)) s = .next s)
    ∧ (p.st ≠ .up → exec (.linkTraining f (.forwarded r n pt d)) s = .next s)
    ∧ (p.st = .up → r.serial ≠ s.ident.identity → n ≠ s.myNode → s.boot.st ≠ .booting →
      (∀ x ∈ s.records, x.2.serial = r.serial → x.2.port ≠ r.port) →
      let link : FarLink := { serialA := r.serial.truncate 32, portA := r.port, serialB := n, portB := pt, delay := d }
      exec (.linkTraining f (.forwarded r n pt d)) s = .next { s with casc := { s.casc with
        links := s.casc.links.filter (fun x => !FarLink.same x.1 link) ++ [(link, .up)]
        heard := s.casc.heard ++ [(k, r)] } })
    ∧ (∃ t, exec (.linkDown (.far l)) s = .next t ∧ (l, PortState.down) ∈ t.casc.links ∧ cut t (fun x => s.crosses l x = true)
      ∧ kept t)
    ∧ (∃ t, exec (.linkUp (.far l)) s = .next t ∧ (l, PortState.up) ∈ t.casc.links ∧ kept t)
    ∧ (let next : Nat := match p.rxSeq with | some x => (x + 1) % 4096 | none => 0
      let ok := crc32 (leBytes 124 w.toNat) = w.extractLsb' 992 32
      let ftype := w.toNat % 4
      let seq := w.toNat / 4 % 4096
      let refused := fun (i : Instr) => (p.nakOwed = true → exec i s = .next s)
        ∧ (p.nakOwed = false → ∃ t, exec i s = .next t ∧ t.out = s.out ++ [.flit k (flitBytes p 0 0 0 true [])]
          ∧ t.port k = { p with nakOwed := true, back := p.back.rest } ∧ t = { s with casc := t.casc, out := t.out })
      s.linked k = true →
      (ok → ftype = 1 → seq = next → ∃ t, exec (.dataFlit f w) s = .next t
        ∧ (t.port k).rxSeq = some next ∧ (t.port k).nakOwed = false
        ∧ (t.port k).rxLeft = ((flitUnits w).foldl Port.takeUnit p).rxLeft
        ∧ (s.casc.sendWait = [] → (t.port k).held = ((flitUnits w).foldl Port.takeUnit p).held)
        ∧ (w.getLsbD 27 = false → (t.port k).st = p.st) ∧ kept t)
      ∧ (ok → ftype = 1 → seq ≠ next → refused (.dataFlit f w))
      ∧ (¬ ok → refused (.dataFlit f w) ∧ refused (.idleFlit f w))
      ∧ (ok → ftype = 0 → ∃ t, exec (.idleFlit f w) s = .next t ∧ (t.port k).rxSeq = p.rxSeq
        ∧ (w.getLsbD 27 = false → (t.port k).st = p.st) ∧ kept t)
      ∧ (p.replay = [] → exec (.replayTimeout f) s = .next s)
      ∧ (p.replay ≠ [] → p.replays < 4 → ∃ (t : State) (bs : List (List Byte)), exec (.replayTimeout f) s = .next t
        ∧ t.out = s.out ++ bs.map (fun b => Emit.flit k b) ∧ bs.length = p.replay.length
        ∧ (∀ (i : Nat) (x : SentFlit) (b : List Byte), p.replay[i]? = some x → bs[i]? = some b →
          leNat (b.take 8) % 2 ^ 14 = (1 + 4 * x.seq) % 2 ^ 14 ∧ (b.drop 8).take x.units.length = x.units)
        ∧ (t.port k).replays = p.replays + 1
        ∧ (t.port k).replay = p.replay ∧ t.cnt? 0x600B 1 = min 0xFFFF (s.cnt? 0x600B 1 + 1) ∧ kept t)
      ∧ (p.replay ≠ [] → 4 ≤ p.replays → ∃ t, exec (.replayTimeout f) s = .next t ∧ (t.port k).st = .training ∧ kept t)
      ∧ (∃ t, exec (.nak f ack) s = .next t ∧ (∀ x ∈ (t.port k).replay, x ∈ p.replay) ∧ kept t)
      ∧ (∃ t, exec (.retrain f) s = .next t ∧ (t.port k).st = .training ∧ (t.port k).step = 0
        ∧ (t.port k).retrains = (if p.retrains = 255 then 255 else p.retrains + 1)
        ∧ t.cnt? 0x600B 2 = min 0xFFFF (s.cnt? 0x600B 2 + 1) ∧ kept t))
    ∧ (s.linked k = false → exec (.dataFlit f w) s = .next s
      ∧ exec (.idleFlit f w) s = .next s ∧ exec (.nak f ack) s = .next s
      ∧ exec (.replayTimeout f) s = .next s ∧ exec (.retrain f) s = .next s)
    ∧ (∀ z, s.casc.routeWait.find? (fun x => decide (x.1 = role.toNat)) = some z → s.clk.due = [] →
      ∃ t, exec (.routeChangeWaitEnd role) s = .next t ∧ z.2 + usTicks 50 ≤ t.clk.ticks
        ∧ t.casc.routeWait = s.casc.routeWait.filter (fun v => decide (v.1 ≠ role.toNat))
        ∧ t.mem = s.mem ∧ t.host = s.host ∧ t.sync = s.sync ∧ t.seq = s.seq)

/-- What leaves as bytes is whole. A flit has 128 bytes with the header's fields, the packets, zeros behind them, the credits that it
returns and a CRC that its receiver accepts (R407, R411). A lockstep word leaves over each port of its way in the LOCKSTEP field of
the next flit, an IDLE flit: TYPE, the origin and VALUE (R417); of a port only the credits still to return change. READY goes on over
a port once every holder whose words leave there is ready, and names the latest cycle; until then HOLD of one that is not goes
instead. A frame of a raw encapsulation is accepted by its receiver with its addresses, tag and EtherType, and the segment in it is
the one sent, whatever padding follows (R437, R438, R441). -/
def Obligations.FlitsAndFramesAreWhole : Prop :=
  (∀ (p : Port) (ftype seq lock : Nat) (nak : Bool) (units : List Byte), ftype < 4 → seq < 4096 → lock < 2 ^ 32 →
    units.length ≤ 112 → (∀ x, p.rxSeq = some x → x < 4096) →
    let b := flitBytes p ftype seq lock nak units
    let w : BitVec 1024 := BitVec.ofNat 1024 (leNat b)
    b.length = 128 ∧ flitOk w = true ∧ w.toNat % 4 = ftype ∧ w.toNat / 4 % 4096 = seq
    ∧ w.getLsbD 26 = p.rxSeq.isSome ∧ (∀ x, p.rxSeq = some x → w.extractLsb' 14 12 = BitVec.ofNat 12 x)
    ∧ w.getLsbD 27 = nak ∧ w.extractLsb' 32 32 = BitVec.ofNat 32 lock
    ∧ (b.drop 8).take units.length = units ∧ (∀ z ∈ (b.drop (8 + units.length)).take (112 - units.length), z = 0)
    ∧ w.extractLsb' 960 8 = BitVec.ofNat 8 (min 255 p.back.ctrl) ∧ w.extractLsb' 968 12 = BitVec.ofNat 12 (min 4095 p.back.req)
    ∧ w.extractLsb' 980 12 = BitVec.ofNat 12 (min 4095 p.back.rsp))
  ∧ (∀ (s : State) (t : BitVec 3) (o : BitVec 5) (v k : Nat),
    let field := t.toNat + o.toNat * 2 ^ 3 + v % 2 ^ 24 * 2 ^ 8
    (∀ ports : List Nat, ports.Nodup →
      let u := s.putLock ports t o v
      u.out = s.out ++ ports.map (fun j => .flit j (flitBytes (s.port j) 0 0 field false []))
      ∧ u = { s with casc := { s.casc with ports := u.casc.ports }, out := u.out }
      ∧ ∀ j, u.port j = (if j ∈ ports then { s.port j with back := (s.port j).back.rest } else s.port j))
    ∧ ((∀ r ∈ s.holdersAt k, r ∈ s.casc.lock.readies) →
      s.passReady [k] o = s.putLock [k] 3 o (s.casc.lock.latest % 2 ^ 24))
    ∧ (∀ r rest, (s.holdersAt k).filter (fun x => !s.casc.lock.readies.contains x) = r :: rest →
      s.passReady [k] o = s.putLock [k] 2 r (s.rankCycle % 2 ^ 24)))
  ∧ (∀ (mac : BitVec 48) (e : Encap) (et : BitVec 16) (g : Segment) (pad : List Byte), g.payload.length ≤ 240 →
    decSegment (encSegment g ++ pad) = some g
    ∧ (e.net = .raw et → et ≠ 0x8100 → ∃ y, parseFrame (encapFrame mac e (encSegment g)) = some y
      ∧ y.dst = e.mac ∧ y.src = mac ∧ y.vlan = e.vlan ∧ y.etype = et.toNat ∧ decSegment y.body = some g))

/-- Packets of accesses and signals, for this role and in its epoch, over a port that is not in QUARANTINE. A WRITE stores its bytes
and is acknowledged, a READ is answered with them, and an access that fails is answered so; an answer or REMOTE_TIMEOUT ends the
access it names; a SIGNAL adds its amount, seen from the next cycle on; the units of a packet leave the receive buffer with it; a
packet of another epoch is discarded and counted; and a packet leaves when its route, its credits and the replay buffer allow it.
A failed READ of the host is answered with bytes of 0xFF, and while a clock ratio that it crosses is broken a WRITE or READ may be
lost, repeated or altered. -/
def Obligations.CascadeAccesses : Prop :=
  ∀ (s : State) (p : Pkt) (data : List Byte) (f : Fin 4) (r : Remote) (m : Master) (n : Word) (j : BitVec 2),
    let u := s.freeUnits f.val (chanOf p.ptype) (1 + p.units.toNat)
    let here := fun (t : BitVec 4) => p.ptype = t ∧ p.units.toNat ≤ 16 ∧ s.stalePkt p = false ∧ p.dst = s.casc.role
      ∧ (s.port f.val).st ≠ .quarantine
    let a := p.addr.toNat
    let bs := data.take (16 * p.units.toNat)
    let broken := s.clk.ratioLost &&& s.pktRatios p ≠ 0
    let ended := fun (t : State) => t.casc.remote = s.casc.remote.filter (fun x => decide (x.tag ≠ r.tag))
      ∧ t.mem = s.mem ∧ t.host = s.host ∧ t.sync = s.sync ∧ t.seq = s.seq ∧ t.dma = s.dma
    let failed : Emit := if m = .host then .readData .host (List.replicate r.want 0xFF) else .pathFail m
    (broken →
      (∃ t, exec (.cascadeWrite f p data) s = .next t ∧ Crossed s
        (fun u => recvPkt f.val ptWrite p data (writeHere p data u) u)
        (fun u => recvPkt f.val ptWrite p data (writeHere (movedPkt u p) (u.freeBytes data.length) u)
          (u.takeFrees (1 + data.length))) t)
      ∧ (∃ t, exec (.cascadeRead f p) s = .next t ∧ Crossed s (fun u => recvPkt f.val ptRead p [] (readHere p u) u)
        (fun u => recvPkt f.val ptRead p [] (readHere (movedPkt u p) u) u.takeFree) t))
    ∧ (¬ broken → s.gated blkBuffer = false →
      (here ptWrite → bs ≠ [] → inBuffer a bs.length = true →
        exec (.cascadeWrite f p data) s = .next ((u.putMem a bs).reply ptWriteAck p 0))
      ∧ (here ptRead → p.arg ≠ 0 → p.arg.toNat ≤ 16 → inBuffer a (16 * p.arg.toNat) = true →
        exec (.cascadeRead f p) s = .next (u.reply ptReadRsp p 0 (Memory.gets s.mem a (16 * p.arg.toNat)))))
    ∧ (¬ broken → s.region a = .nowhere →
      (here ptWrite → bs ≠ [] → exec (.cascadeWrite f p data) s = .next (u.reply ptWriteAck p 1))
      ∧ (here ptRead → p.arg ≠ 0 → p.arg.toNat ≤ 16 → exec (.cascadeRead f p) s = .next (u.reply ptReadRsp p 1)))
    ∧ (¬ broken → here ptRead → p.arg = 0 → (s.roleOf p.src.toNat).head = true →
      exec (.cascadeRead f p) s = .next (u.restartWatch.reply ptReadRsp p 0))
    ∧ (here ptReadRsp → s.remoteOf p false = some r → r.who = .master m → r.write = false → bits p.arg.toNat 0 8 = 0 →
      ∃ t, exec (.readRsp f p data) s = .next t ∧ t.out = u.out ++ [.readData m (data.take r.want)] ∧ ended t)
    ∧ (here ptReadRsp → s.remoteOf p false = some r → r.who = .master m → r.write = false → bits p.arg.toNat 0 8 ≠ 0 →
      ∃ t, exec (.readRsp f p data) s = .next t ∧ t.out = u.out ++ [failed] ∧ ended t)
    ∧ (here ptWriteAck → s.remoteOf p true = some r → r.who = .master m → r.write = true → bits p.arg.toNat 0 8 = 0 →
      ∃ t, exec (.writeAck f p) s = .next t ∧ t.out = u.out ++ [.pathOk m] ∧ ended t)
    ∧ (here ptWriteAck → s.remoteOf p true = some r → r.who = .master m → r.write = true → bits p.arg.toNat 0 8 ≠ 0 →
      ∃ t, exec (.writeAck f p) s = .next t ∧ t.out = u.out ++ [.pathFail m] ∧ ended t)
    ∧ (here ptReadRsp → s.remoteOf p false = none → exec (.readRsp f p data) s = .next u)
    ∧ (here ptWriteAck → s.remoteOf p true = none → exec (.writeAck f p) s = .next u)
    ∧ (s.casc.remote.find? (fun x => decide (x.tag = r.tag)) = some r → r.who = .master m → s.clk.due = [] →
      ∃ t, exec (.remoteTimeout r.tag) s = .next t ∧ t.out = s.out ++ [if r.write then .pathFail m else failed] ∧ ended t
        ∧ r.sent + usTicks (s.ent? 0x7000 7) ≤ t.clk.ticks)
    ∧ (here ptSignal → exec (.cascadeSignal f p) s = .next { u with clk := { s.clk with
      due := insertDue (s.clk.cycle + 1) (.signal (BitVec.ofNat 14 a) (p.arg.zeroExtend 32)) s.clk.due } })
    ∧ (s.stalePkt p = true → ∃ t, exec (.staleEpochPacket (.own f) p) s = .next t
      ∧ t.cnt? 0x600B 4 = min 0xFFFF (s.cnt? 0x600B 4 + 1)
      ∧ ((s.port f.val).st = .up → (t.port f.val).st = .quarantine)
      ∧ t = { s with casc := t.casc, out := t.out, cnt := t.cnt })
    ∧ (s.stalePkt p = false → exec (.staleEpochPacket (.own f) p) s = .next s)
    ∧ (s.casc.isHead = false → exec (.staleEpochPacket (.far n j) p) s = .next s)
    ∧ (s.casc.isHead = true → ∃ t, exec (.staleEpochPacket (.far n j) p) s = .next t
      ∧ (∀ x ∈ t.casc.links, (x.1.serialA = n ∧ x.1.portA = j) ∨ (x.1.serialB = n ∧ x.1.portB = j) → x.2 = .quarantine)
      ∧ t.cnt? 0x600B 4 = s.cnt? 0x600B 4 ∧ t = { s with casc := t.casc, out := t.out, cnt := t.cnt })
    ∧ (∀ x : Outgoing, s.casc.sendWait = [] →
      (∀ y, s.trySend x = some y → s.sendPkt x = y)
      ∧ (s.trySend x = none → s.sendPkt x = { s with casc := { s.casc with sendWait := [x] } }))

/-- Packets of stream rings and probes. A record of a bound ring with a free slot enters it; RING_BIND binds a ring that
no other producer feeds, and unbinds it; a credit answers the waiting enable, or adds to its receiver, or binds one that a
link had cut off; an enable that no answer comes to is refused; a probe that returns with its initiator's identity breaks the cycle,
any other goes on along the edges to other devices, each to the master of its rank, and a member hands it to its master. -/
def Obligations.CascadeRings : Prop :=
  ∀ (s : State) (p : Pkt) (data : List Byte) (q : BitVec 4) (w : EnableWait) (x : Stall) (f : Fin 4),
    let u := s.freeUnits f.val (chanOf p.ptype) (1 + p.units.toNat)
    let here := fun (t : BitVec 4) => p.ptype = t ∧ p.units.toNat ≤ 16 ∧ s.stalePkt p = false ∧ p.dst = s.casc.role
      ∧ (s.port f.val).st ≠ .quarantine
    let n := ringTo p
    let b := s.stream n
    let e := ringFrom p * 4 + ringEntry p
    let g := (s.stream (ringFrom p)).recv (ringEntry p)
    let far := tget farRing0 s.casc.credits e
    (here ptRingRec → s.casc.rbinds.contains (bindOf p) = true → s.freeSlots n ≠ 0 →
      ∃ t, exec (.ringRec f p data) s = .next t
        ∧ t.stream n = { b with inb := { b.inb with tail := b.inb.next b.inb.tail }, enqueued := b.enqueued + 1 }
        ∧ t.mem = Memory.puts s.mem (b.inb.slot b.inb.tail) (leBytes 64 (leNat data))
        ∧ (∀ i, i ≠ n → t.stream i = s.stream i) ∧ t = { u with
          mem := t.mem, str := t.str, media := t.media, bulkQ := t.bulkQ, deepQ := t.deepQ, nextId := t.nextId })
    ∧ (here ptRingRec → s.casc.rbinds.contains (bindOf p) = false ∨ s.freeSlots n = 0 →
      exec (.ringRec f p data) s = .next (u.addCnt 0x600B 3 1))
    ∧ (here ptRingBind →
      (p.arg = 1 → exec (.ringBind f p) s = .next { u with casc := { u.casc with
        rbinds := s.casc.rbinds.filter (fun y => y != bindOf p) } })
      ∧ (p.arg = 0 → s.casc.rbinds.contains (bindOf p) = true →
        exec (.ringBind f p) s = .next (u.send ptRingCredit p.src n p.rtag.toNat (s.freeSlots n)))
      ∧ (p.arg ≠ 0 → p.arg ≠ 1 → exec (.ringBind f p) s = .next u)
      ∧ (p.arg = 0 → s.casc.rbinds.contains (bindOf p) = false → s.localProducer n = false → s.remoteProducer n = false →
        exec (.ringBind f p) s = .next (({ u with casc := { u.casc with rbinds := s.casc.rbinds ++ [bindOf p] } } : State).send
          ptRingCredit p.src n p.rtag.toNat (s.freeSlots n)))
      ∧ (p.arg = 0 → s.casc.rbinds.contains (bindOf p) = false →
        s.localProducer n = true ∨ s.remoteProducer n = true →
        exec (.ringBind f p) s = .next (u.send ptRingCredit p.src n p.rtag.toNat 0xFFFF)))
    ∧ (here ptRingCredit → g.kind = 2 → g.device = p.src.toNat → g.stream = n →
      (s.str.enable = none → p.arg = 0xFFFF → exec (.ringCredit f p) s = .next u)
      ∧ (s.str.enable = none → p.arg ≠ 0xFFFF → ∃ t, exec (.ringCredit f p) s = .next t
        ∧ tget farRing0 t.casc.credits e = (if far.cut then
            { free := p.arg.toNat, slots := max far.slots p.arg.toNat, cut := false }
          else { far with free := far.free + p.arg.toNat })
        ∧ (∀ i, i ≠ e → tget farRing0 t.casc.credits i = tget farRing0 s.casc.credits i)
        ∧ t = { u with casc := t.casc })
      ∧ (s.str.enable = some w → w.waits.contains (ringFrom p, ringEntry p) = true →
        (p.arg = 0xFFFF → exec (.ringCredit f p) s = .next (refuseEnable w u))
        ∧ (p.arg ≠ 0xFFFF → (∃ y ∈ w.waits, y ≠ (ringFrom p, ringEntry p)) → ∃ t, exec (.ringCredit f p) s = .next t
          ∧ t.str.enable = some { w with waits := w.waits.filter (fun y => y != (ringFrom p, ringEntry p)) }
          ∧ tget farRing0 t.casc.credits e = { free := p.arg.toNat, slots := p.arg.toNat, cut := false }
          ∧ t.str.blk = s.str.blk ∧ t = { u with casc := t.casc, str := t.str })))
    ∧ (here ptRingCredit → g.kind ≠ 2 ∨ g.device ≠ p.src.toNat ∨ g.stream ≠ n → exec (.ringCredit f p) s = .next u)
    ∧ (s.str.enable = some w → (∃ y ∈ w.waits, y.1 = q.toNat) → s.clk.due = [] → w.master ≠ some .bundle →
      ∃ t, exec (.ringBindTimeout q) s = .next t ∧ t.str = { s.str with enable := none }
        ∧ w.since + usTicks 100 ≤ t.clk.ticks ∧ t.mem = s.mem ∧ t.sync = s.sync ∧ t.seq = s.seq ∧ t.host = s.host)
    ∧ (s.str.enable = none → exec (.ringBindTimeout q) s = .next s)
    ∧ (here ptProbe →
      (s.isRankMaster = true → s.seq.stall = none → exec (.probe f p) s = .next u)
      ∧ (s.seq.stall = some x → s.seq.st = .stalled → x.held = false → s.isRankMaster = true → x.probed = true →
        (p.addr.toNat % 512) = s.probeId → bits p.arg.toNat 0 9 = s.probeId → exec (.probe f p) s = .next (endWait 1 u))
      ∧ (s.isRankMaster = true → s.seq.stall = some x → (p.addr.toNat % 512) = s.probeId →
        x.probed = false ∨ bits p.arg.toNat 0 9 ≠ s.probeId → exec (.probe f p) s = .next u)
      ∧ (s.isRankMaster = true → s.seq.stall = some x → s.seq.st ≠ .stalled ∨ x.held = true → exec (.probe f p) s = .next u)
      ∧ (s.isRankMaster = false →
        exec (.probe f p) s = .next (u.sendProbe s.casc.role.toNat (p.addr.toNat % 512) (bits p.arg.toNat 0 9)))
      ∧ (s.seq.stall = some x → s.seq.st = .stalled → x.held = false → s.isRankMaster = true → (p.addr.toNat % 512) ≠ s.probeId →
        exec (.probe f p) s = .next (s.remoteEdges.foldl (fun t e =>
          t.sendProbe e.2.1 (p.addr.toNat % 512) (max (bits p.arg.toNat 0 9) s.probeId)) u)))
    ∧ (∀ k id high, k < 32 →
      ((s.roleOf k).st ≠ .active → s.rolePresent k = false → s.sendProbe k id high = s.addCnt 0x600B 3 1)
      ∧ (∀ v, (s.roleOf k).st = .active → s.masterOf (s.roleOf k).rank = some v →
        s.sendProbe k id high = s.send ptProbe (BitVec.ofNat 5 v) id 0 high))

/-- Fencing and roles. A role that stays silent for DEAD_TIME, or is named in DECLARE_DEAD, is DEAD in its next epoch; a
device that hears nothing from the chain head for DEAD_TIME stops; EPOCH sets a role's epoch and state in the copy of the
map; a recheck empties the shade's rings and sync objects and ends in the chain head's count; ROLE_ASSIGN makes a standby
ACTIVE in a role that is DEAD or VACANT; a fifth member of a rank is refused as busy, which is the model's reading (log 96). -/
def Obligations.RolesAndFencing : Prop :=
  ∀ (s : State) (m : Master) (p : Pkt) (role : BitVec 5) (v : BitVec 8) (w : BitVec 16) (pass : Bool) (f : Fin 4),
    let u := s.freeUnits f.val (chanOf p.ptype) (1 + p.units.toNat)
    let r := role.toNat
    let here := fun (t : BitVec 4) => p.ptype = t ∧ p.units.toNat ≤ 16 ∧ s.stalePkt p = false ∧ p.dst = s.casc.role
      ∧ (s.port f.val).st ≠ .quarantine
    let declared := fun (k : Nat) (t : State) => (t.roleOf k).st = .dead ∧ (t.roleOf k).epoch = (s.roleOf k).epoch + 1
      ∧ t.cnt? 0x600B 5 = min 0xFFFF (s.cnt? 0x600B 5 + 1)
      ∧ barOf k (s.roleOf k).serial ∈ t.casc.shades ∧ (∀ j, j ≠ k → (t.roleOf j).st = (s.roleOf j).st)
    let since := tget zeroNat s.casc.silent r
    (s.casc.isHead = true → r ≠ s.me → s.rolePresent r = true → since ≠ 0 → s.casc.suspended.contains r = false →
      s.clk.due = [] → ∃ t, exec (.deadTimeExpiry role) s = .next t ∧ declared r t
        ∧ since - 1 + s.deadTicks ≤ t.clk.ticks)
    ∧ (s.casc.isHead = false → exec (.deadTimeExpiry role) s = .next s ∧ exec .livenessReadPeriod s = .next s)
    ∧ (s.entryReady m 0x7000 11 →
      (31 < v.toNat → exec (.declareDead m v) s = .next (s.wrote m 0x7000 11 abRange))
      ∧ (v.toNat ≤ 31 → s.casc.isHead = false ∨ v.toNat = s.me ∨ s.rolePresent v.toNat = false →
        exec (.declareDead m v) s = .next (s.wrote m 0x7000 11 abBusy))
      ∧ (v.toNat ≤ 31 → s.casc.isHead = true → v.toNat ≠ s.me → s.rolePresent v.toNat = true →
        ∃ t : State, exec (.declareDead m v) s = .next (t.wrote m 0x7000 11 0) ∧ declared v.toNat t))
    ∧ (s.casc.isHead = true → ∃ t, exec .livenessReadPeriod s = .next t
      ∧ (∀ k ∈ s.others, s.casc.suspended.contains k = false →
          (∃ x ∈ t.casc.remote, x.role.toNat = k ∧ x.who = .liveness ∧ x.write = false) ∧ tget zeroNat t.casc.silent k ≠ 0)
      ∧ t = { s with casc := t.casc, out := t.out, nextId := t.nextId, cnt := t.cnt })
    ∧ (∀ k, s.casc.watch = some k → s.casc.isHead = false → s.casc.shade = .none → s.upPorts ≠ [] → s.pwr.mode ≠ 4 →
      s.boot.stopped = false → s.clk.due = [] →
      ∃ t, exec .chainHeadLost s = .next t ∧ t.boot.stopped = true ∧ t.boot.fatal.toNat % 256 = 4 ∧ t.seq.st = .halted
        ∧ k + s.deadTicks ≤ t.clk.ticks ∧ t.mem = s.mem ∧ t.sync = s.sync ∧ t.host = s.host)
    ∧ (s.casc.watch = none → exec .chainHeadLost s = .next s)
    ∧ (here ptEpoch → (s.roleOf p.src.toNat).head = true →
      ∃ t, exec (.epoch f p) s = .next t ∧ (t.roleOf (p.addr.toNat % 32)).epoch = p.arg
        ∧ (t.roleOf (p.addr.toNat % 32)).st = roleStateOf (p.addr.toNat / 32 % 4)
        ∧ (∀ j, j ≠ p.addr.toNat % 32 → (t.roleOf j).epoch = (s.roleOf j).epoch)
        ∧ t.sync = s.sync ∧ t.host = s.host ∧ t.arr = s.arr ∧ t.eng = s.eng)
    ∧ (here ptEpoch → (s.roleOf p.src.toNat).head = false → exec (.epoch f p) s = .next u)
    ∧ (p.ptype = ptRecheck → p.units.toNat ≤ 16 → p.dst = s.casc.role →
      (p.addr.toNat % 16 = 0 → (s.roleOf p.src.toNat).head = true → s.casc.isHead = false → s.casc.shade = .none →
        ∃ t, exec (.recheck f p) s = .next t ∧ t.casc.shade = .testing ∧ t.casc.rbinds = [] ∧ (∀ k, t.y k = 0)
          ∧ t.seq.st = .halted ∧ (∀ n, n < 16 → (t.stream n).st ≠ .enabled) ∧ t.mem = s.mem ∧ t.host = s.host)
      ∧ (p.addr.toNat % 16 = 1 → s.casc.isHead = true → ∃ t, exec (.recheck f p) s = .next t
        ∧ t.cnt? 0x600B 6 = min 0xFFFF (s.cnt? 0x600B 6 + 1)
        ∧ t = { s with casc := t.casc, out := t.out, cnt := t.cnt })
      ∧ (p.addr.toNat % 16 = 2 → s.casc.isHead = true → exec (.recheck f p) s = .next (u.count 0x600B 7 clsFailed)))
    ∧ (s.casc.shade = .testing → ∃ t, exec (.recheckEnd pass w) s = .next t
      ∧ t.casc.shade = (if pass then .none else .failed) ∧ (pass = true → t.casc.roleV = false)
      ∧ t = { s with casc := t.casc, out := t.out, cnt := t.cnt })
    ∧ (s.casc.shade ≠ .testing → exec (.recheckEnd pass w) s = .next s)
    ∧ (s.entryReady m 0x7000 10 →
      let n := w.toNat % 32
      let k := w.toNat / 32 % 32
      let ok := s.casc.isHead = true ∧ ((s.roleOf n).st = .dead ∨ (s.roleOf n).st = .vacant) ∧ (s.roleOf k).st = .standby
        ∧ s.rankTaken (s.roleOf n).rank = false
      let barred := barOf n (s.roleOf k).serial ∈ s.casc.bars
      (¬ ok → exec (.roleAssign m w) s = .next (s.wrote m 0x7000 10 abBusy))
      ∧ (ok → barred → exec (.roleAssign m w) s = .next (s.wrote m 0x7000 10 abRange))
      ∧ (ok → ¬ barred → ∃ t : State, exec (.roleAssign m w) s = .next (t.wrote m 0x7000 10 0)
        ∧ (t.roleOf n).st = .active ∧ (t.roleOf n).serial = (s.roleOf k).serial
        ∧ (t.roleOf k).st = .vacant ∧ (t.roleOf k).serial = 0 ∧ t = { s with casc := t.casc, out := t.out }))

/-- Dictionary requests that nothing holds: an entry that no row names is refused, a request with a breach of its row is
refused with the first breach of R455's order, a READ of a fixed-size entry answers its value, and a WRITE has the
entry's own effect; STORE_SETTINGS hands the Stored entries to a transaction whose commit answers it; a counter is cleared by 0 alone;
WINDOW_DATA reads and writes at WINDOW_ADDR and moves it on, and may be lost, repeated or altered while a clock ratio is
broken. -/
def Obligations.DictionaryRequests : Prop :=
  ∀ (s : State) (m : Master) (r : DictReq) (row : Row) (n : Nat) (v : BitVec 8) (c : BitVec 16) (bs : List Byte),
    s.answers = true → s.umbraMove = false → s.coreHolds = false → s.net.held = [] → s.behind m = false →
    let i := r.index.toNat
    let j := r.sub.toNat
    let none' := if indexExists i = true then abNoSub else abNoEntry
    let broken := s.clk.ratioLost &&& s.ratios (.core 0) (s.windowAddr m) ≠ 0
    let win : DictReq := { index := 0x1200, sub := 2, type := 0, want := n, data := [] }
    let put : DictReq := { index := 0x1200, sub := 2, type := 0, want := 0, data := bs }
    (rowOf i j = none → exec (.read m r) s = .next (s.answer m none' 0 svcRead [])
      ∧ exec (.write m r) s = .next (s.answer m none' 0 svcWrite []))
    ∧ (rowOf i j = some row →
      (breach s m r false row ≠ 0 → exec (.read m r) s = .next (s.answer m (breach s m r false row) row.typ svcRead []))
      ∧ (breach s m r true row ≠ 0 → exec (.write m r) s = .next (s.answer m (breach s m r true row) row.typ svcWrite []))
      ∧ (breach s m r false row = 0 → typeSize row.typ = some n →
        exec (.read m r) s = .next (s.answer m 0 row.typ svcRead (leBytes n (s.readNat m i j))))
      ∧ (breach s m r true row = 0 → typeSize row.typ = some n → ¬ (i = 0x1100 ∧ j = 10) →
        exec (.write m r) s = .next (answerWrite m row.typ (writeNat m i j (leNat r.data) s))
        ∧ (r.type = 0 → r.want = 0 → exec (.dictionaryWrite m r.index r.sub r.data) s =
            .next (answerWrite m row.typ (writeNat m i j (leNat r.data) s)))))
    ∧ (s.entryOpen 0x1100 10 = true →
      (v = 1 → ∃ x vals, x.part = .media ∧ x.committed = false ∧ x.data = .settings vals (some m)
        ∧ (∀ k ∈ storedKeys, tget entDefault vals k = tget entDefault s.ent k)
        ∧ exec (.storeSettings m v) s =
          .next { s with media := { s.media with waiting := s.media.waiting ++ [x] }, nextId := s.nextId + 1 })
      ∧ (v ≠ 1 → exec (.storeSettings m v) s = .next (s.wrote m 0x1100 10 abRange)))
    ∧ (isCounter i j = true → s.entryOpen i j = true →
      (c = 0 → ∃ t : State, exec (.counterClear m r.index r.sub c) s = .next (t.wrote m i j 0) ∧ t.cnt? i j = 0
        ∧ (∀ k, k ≠ ekey i j → tget zeroNat t.cnt k = tget zeroNat s.cnt k)
        ∧ t = { s with cnt := t.cnt, cntRem := t.cntRem })
      ∧ (c ≠ 0 → exec (.counterClear m r.index r.sub c) s = .next (s.wrote m i j abRange)))
    ∧ (broken →
      (∃ t, exec (.windowDataRead m n) s = .next t ∧ Crossed s (dictRequest m win false) (alteredWindow m win false) t)
      ∧ (∃ t, exec (.windowDataWrite m bs) s = .next t ∧ Crossed s (dictRequest m put true) (alteredWindow m put true) t))
    ∧ (¬ broken → m ≠ .bundle → s.entryOpen 0x1200 2 = true → s.gated blkBuffer = false →
      let a := s.windowAddr m
      (0 < n → n ≤ 4096 → inBuffer a n = true →
        exec (.windowDataRead m n) s = .next ((s.setWindow m (a + n)).answer m 0 tDom svcRead (Memory.gets s.mem a n)))
      ∧ (bs ≠ [] → bs.length ≤ 4096 → inBuffer a bs.length = true →
        exec (.windowDataWrite m bs) s =
          .next (((s.putMem a bs).setWindow m (a + bs.length)).answer m 0 tDom svcWrite []))
      ∧ (4096 < n → exec (.windowDataRead m n) s = .next (s.answer m abType tDom svcRead [])))

/-- The 1000BASE-T1 link and its frames. Ends of different roles link while the port is powered and clocked, T1_ROLE drops the link
after its answer, and nothing is taken while the link is down or a test mode is set; a frame that breaks the rules is discarded
and counted; a raw frame for this device, or a broadcast READ of areas 0x1000 and 0x1100, hands its segment on, and so does a UDP
datagram; ARP and ICMP echo requests for IPV4_ADDRESS are answered to their sender, in its tag (R434 to R439). -/
def Obligations.FieldNetworkFrames : Prop :=
  ∀ (s : State) (m : Master) (pm : Bool) (q : BitVec 3) (v : BitVec 8) (f : List Byte) (mac : BitVec 48) (theirs ip : BitVec 32)
    (rest : List Byte),
    let up := s.net.link = true ∧ s.ent? 0x1100 3 = 0
    let lost := s.addCnt 0x600C 1 1
    (pm ≠ s.net.master → s.t1Live = true →
      exec (.t1LinkUp pm q) s = .next { s with net := { s.net with link := true, sqi := q } })
    ∧ (pm = s.net.master ∨ s.t1Live = false → exec (.t1LinkUp pm q) s = .next s)
    ∧ exec .t1LinkDown s = .next { s with net := { s.net with link := false, sqi := 0 } }
    ∧ (s.entryReady m 0x1100 1 → s.net.held = [] →
      (v.toNat ≤ 2 → ∃ t, exec (.t1RoleWrite m v) s = .next t ∧ t.net.link = false
        ∧ t.net.master = (if v = 0 then s.net.strapMs else decide (v = 1)) ∧ t.ent? 0x1100 1 = v.toNat
        ∧ t.mem = s.mem ∧ t.sync = s.sync ∧ t.clk = s.clk)
      ∧ (2 < v.toNat → exec (.t1RoleWrite m v) s = .next (s.wrote m 0x1100 1 abRange)))
    ∧ (¬ up → exec (.frameReceive f) s = .next s ∧ exec (.arpRequest mac theirs ip) s = .next s
      ∧ exec (.icmpEcho mac theirs ip rest) s = .next s)
    ∧ (up →
      (parseFrame f = none → exec (.frameReceive f) s = .next lost)
      ∧ (∀ x, parseFrame f = some x →
        (∀ g, x.etype = s.ent? 0x1100 5 → decSegment x.body = some g →
          (x.dst = s.ident.mac → x.dst ≠ broadcastMac → exec (.frameReceive f) s = .next
            (fieldSegment (.t1 (x.src.zeroExtend 64)) { mac := x.src, vlan := x.vlan, net := .raw (BitVec.ofNat 16 x.etype) } g s))
          ∧ (x.dst = broadcastMac → g.service = 1 → (segEntry g).1 = 0x1000 ∨ (segEntry g).1 = 0x1100 →
            exec (.frameReceive f) s = .next
              (fieldSegment (.t1 (x.src.zeroExtend 64)) { mac := x.src, vlan := x.vlan, net := .raw (BitVec.ofNat 16 x.etype) } g s))
          ∧ (x.dst = broadcastMac → s.ident.mac ≠ broadcastMac → x.etype ≠ 0x0806 →
            g.service ≠ 1 ∨ ((segEntry g).1 ≠ 0x1000 ∧ (segEntry g).1 ≠ 0x1100) → exec (.frameReceive f) s = .next lost))
        ∧ (∀ a, s.rawIn x = none → s.udpIn x = some a →
          exec (.frameReceive f) s = .next (fieldSegment (.t1 a.1) a.2.1 a.2.2 s))
        ∧ (s.rawIn x = none → s.udpIn x = none →
          (x.etype ≠ 0x0800 → x.etype ≠ 0x0806 → exec (.frameReceive f) s = .next lost)
          ∧ (x.etype = 0x0806 → x.dst = s.ident.mac ∨ x.dst = broadcastMac → s.ip ≠ 0 → arpAsk x.body s.ip = some (mac, theirs) →
            exec (.frameReceive f) s = .next (s.emit (.frame (arpFrame s.ident.mac s.ip x.vlan mac theirs))))
          ∧ (∀ d, x.etype = 0x0800 → x.dst = s.ident.mac → s.ip ≠ 0 → ipData x.body 1 s.ip = some (theirs, d) →
            echoRest d = some rest → exec (.frameReceive f) s =
              .next (s.emit (.frame (echoFrame s.ident.mac s.ip x.vlan x.src theirs rest)))))))
    ∧ (up → ip = s.ip → ip ≠ 0 →
      exec (.arpRequest mac theirs ip) s = .next (s.emit (.frame (arpFrame s.ident.mac s.ip none mac theirs)))
      ∧ exec (.icmpEcho mac theirs ip rest) s = .next (s.emit (.frame (echoFrame s.ident.mac s.ip none mac theirs rest))))
    ∧ (up → ip ≠ s.ip ∨ ip = 0 → exec (.arpRequest mac theirs ip) s = .next lost ∧ exec (.icmpEcho mac theirs ip rest) s = .next lost)

/-- Segments and sessions. A segment for this device is taken by its master's session: LAST again sends the stored answer,
a number out of order is answered SEQUENCE, a CANCEL of the request in reassembly ends it with an answer that names the request's
entry; a request that is not whole in time is dropped; a segment for another role is forwarded by the chain head, of whatever master
of its own; a forwarded request that nothing answers ends; an answer that comes back goes to its master, to one on the field
network in a frame of the request's encapsulation. -/
def Obligations.SessionsAndForwarding : Prop :=
  ∀ (s : State) (m : Master) (g : Segment) (x : Session) (a : Answer) (r : Reasm) (f : Fin 4) (p : Pkt) (w : Fwd) (src : BitVec 64)
    (role : BitVec 5) (n : BitVec 16),
    let u := s.freeUnits f.val (chanOf p.ptype) (1 + p.units.toNat)
    let here := fun (t : BitVec 4) => p.ptype = t ∧ p.units.toNat ≤ 16 ∧ s.stalePkt p = false ∧ p.dst = s.casc.role
      ∧ (s.port f.val).st ≠ .quarantine
    let cancelSeg : Segment := { version := 1, sync := false, service := 3, seq := n, segIndex := 0, segCount := 1,
                                 target := 0, targetV := false, payload := List.replicate 8 0 }
    let via : Via := { tag := 0, enc := s.plainEncap m }
    let peer : Master := .peer (p.arg &&& 0x1FFF)
    (s.t1Stopped m = true → exec (.segmentReceive m g) s = .next s ∧ exec (.cancel m n) s = .next s)
    ∧ (s.t1Stopped m = false →
      (s.elsewhere g = false → exec (.segmentReceive m g) s = .next (takeSegment m via g s))
      ∧ (s.elsewhere g = true → s.casc.isHead = true → (∀ k, m ≠ .peer k) →
        exec (.segmentReceive m g) s = .next (forwardSegment m (s.plainEncap m) g s))
      ∧ (s.elsewhere g = true → s.casc.isHead = false → exec (.segmentReceive m g) s = .next s)
      ∧ (s.answers = false → exec (.segmentReceive m { g with targetV := false }) s = .next s)
      ∧ (s.answers = true → s.session m = some x → s.elsewhere g = false → g.version = 1 → g.service = 1 ∨ g.service = 2 →
        g.sync = false →
        (g.seq.toNat = x.last → x.answered = true → x.answer = some a →
          exec (.segmentReceive m g) s = .next (sendAnswer m via x.last x.index x.sub a (s.addCnt 0x600C 2 1)))
        ∧ (g.seq.toNat ≠ x.last → g.seq.toNat ≠ seqNext x.last → ∃ t, exec (.segmentReceive m g) s = .next t
          ∧ t.cnt? 0x600C 4 = min 0xFFFF (s.cnt? 0x600C 4 + 1) ∧ t.net = s.net ∧ t.mem = s.mem ∧ t.ent = s.ent
          ∧ t.sync = s.sync ∧ t.seq = s.seq ∧ t.clk = s.clk))
      ∧ (s.answers = true → s.session m = some x → x.reasm = some r → r.seq = n.toNat → x.answered = false →
        x.last = n.toNat → m ≠ .bundle → (∀ k, m ≠ .mailbox k) → ∃ t, exec (.cancel m n) s = .next t
        ∧ (∃ y, t.session m = some y ∧ y.reasm = none ∧ y.answered = true ∧ y.last = x.last
          ∧ (y.index, y.sub) = r.entry cancelSeg
          ∧ y.answer = some { service := svcRead, abort := abCancelled, type := entryType y.index.toNat y.sub.toNat, data := [] })
        ∧ t.mem = s.mem ∧ t.ent = s.ent ∧ t.sync = s.sync ∧ t.seq = s.seq ∧ t.clk = s.clk)
      ∧ (s.answers = true → s.session m = none → exec (.cancel m n) s = .next (seqAbort m via cancelSeg s)))
    ∧ (here ptDict → p.arg.toNat / 32 % 8 < 4 → u.elsewhere g = false →
      exec (.dict f p g) s = .next (takeSegment peer { tag := p.rtag, enc := u.plainEncap (.peer p.arg) } g u))
    ∧ (here ptDict → u.elsewhere g = true → p.arg.toNat / 32 % 8 < 4 → exec (.dict f p g) s = .next u)
    ∧ (here ptDict → 4 ≤ p.arg.toNat / 32 % 8 → exec (.dict f p g) s = .next (u.addCnt 0x600B 3 1))
    ∧ (s.session m = some x → x.reasm = some r → s.clk.due = [] → m ≠ .bundle →
      ∃ t, exec (.segTimeout m) s = .next t ∧ (∀ y, t.session m = some y → y.reasm = none)
        ∧ t.cnt? 0x600C 5 = min 0xFFFF (s.cnt? 0x600C 5 + 1) ∧ r.since + s.ent? 0x1100 9 * 25000 ≤ t.clk.ticks
        ∧ t.mem = s.mem ∧ t.sync = s.sync ∧ t.seq = s.seq ∧ t.ent = s.ent)
    ∧ (s.session m = none → exec (.segTimeout m) s = .next s)
    ∧ (s.fwdOf (.t1 src) role.toNat = some w → w.got = false → s.net.mbWait = [] → s.clk.due = [] →
      w.master = .t1 src → ∃ t, exec (.forwardTimeout (.t1 src) role) s = .next t
        ∧ t.net.fwd = s.net.fwd.filter (fun y => decide (y.tag ≠ w.tag))
        ∧ w.since + usTicks (s.ent? 0x7000 7) ≤ t.clk.ticks ∧ t.mem = s.mem ∧ t.sync = s.sync ∧ t.seq = s.seq)
    ∧ (s.fwdOf m role.toNat = some w → w.got = true → exec (.forwardTimeout m role) s = .next s)
    ∧ (here ptDictRsp → s.net.fwd.find? (fun y => decide (y.tag = p.rtag) && decide (y.role = p.src.toNat)) = some w →
      w.master = .t1 src → s.net.link = true → s.ent? 0x1100 3 = 0 →
      ∃ t, exec (.dictRsp f p g) s = .next t ∧ t.out = u.out ++ [.frame (encapFrame s.ident.mac w.enc (encSegment g))]
        ∧ t = { s with net := t.net, casc := t.casc, out := t.out })
    ∧ (here ptDictRsp → (∀ y ∈ s.net.fwd, y.tag ≠ p.rtag) → exec (.dictRsp f p g) s = .next u)

/-- The PCI Express port: its resets leave the registers of the functions at reset and every channel that needs the host
disabled, PERST with its indexes and those of the completion queue at 0; the link is usable with Bus Master Enable and D0, within
the capped generation; no message leaves while MSI-X is not enabled or its vector is masked; mailboxes take one request at a
time, doorbells act or fail on the path, and an access of a BAR that the function lacks is an unsupported request. Until its boot
step ends the port answers configuration requests with Retry Status; then the functions give their class codes and the part
identity as Device Serial Number, and a reset begun in Device Control is a Function Level Reset (where these stand is log 130's).
An access through a BAR that crosses clock domains may be lost, repeated or altered while a clock ratio is broken. -/
def Obligations.PciePort : Prop :=
  ∀ (s : State) (mb : BitVec 3) (q : BitVec 4) (v : Word) (vec : BitVec 6) (off : BitVec 32) (a : Access) (bar : BitVec 3)
    (fn : PcieFn) (x : Byte),
    let noHost := fun (t : State) => t.sync = s.sync ∧ t.host = s.host ∧ t.arr = s.arr ∧ t.eng = s.eng
      ∧ (∀ k, k < 16 → s.chHostRing k = true ∨ s.chGk8 k = true → (t.chan k).st = .disabled)
      ∧ (∀ k, k < 16 → t.ent? 0x5101 (k + 1) < 2 ^ 31)
    let queues := fun (t : State) => t.dma.cqOn = false ∧ t.dma.cqHead = 0 ∧ t.dma.cqTail = 0
      ∧ (∀ k, k < 16 → s.chHostRing k = true ∨ s.chGk8 k = true → (t.chan k).head = 0 ∧ (t.chan k).tail = 0)
    let broken := fun (b : BitVec 3) => s.clk.ratioLost &&& s.barRatios .pf0 b off.toNat ≠ 0
    (∃ t, exec .perst s = .next t ∧ t.pcie = { Pcie.reset with trained := s.pcie.trained } ∧ queues t ∧ noHost t
      ∧ t.cnt? 0x600D 6 = (if s.pcie.up then min 0xFFFF (s.cnt? 0x600D 6 + 1) else s.cnt? 0x600D 6))
    ∧ (∃ t, exec (.functionLevelReset .pf0) s = .next t ∧ t.pcie.bme = false ∧ t.pcie.msixOn = false ∧ t.pcie.up = s.pcie.up
      ∧ t.pcie.d3b = s.pcie.d3b ∧ queues t ∧ noHost t)
    ∧ (twf mailboxDefault s.pcie.mb = true → ∃ t, exec (.functionLevelReset .pf1) s = .next t
      ∧ (∀ n, 4 ≤ n → t.mb n = mailboxDefault n) ∧ (∀ n, n < 4 → t.mb n = s.mb n) ∧ t.cfg .pf0 = s.cfg .pf0
      ∧ t = { s with net := t.net, pcie := t.pcie, pwr := { s.pwr with modeWait := t.pwr.modeWait },
                     clk := { s.clk with srcWait := t.clk.srcWait }, str := { s.str with enable := t.str.enable },
                     media := { s.media with waiting := t.media.waiting, writing := t.media.writing } })
    ∧ (s.pcie.up = true → ∃ t, exec (.pcieLinkNotUsable .linkDown) s = .next t
      ∧ t.pcie = { Pcie.reset with trained := s.pcie.trained } ∧ queues t ∧ noHost t)
    ∧ (s.pcie.up = false → exec (.pcieLinkNotUsable .linkDown) s = .next s)
    ∧ (s.pcie.bme = true → ∃ t, exec (.pcieLinkNotUsable .busMasterOff) s = .next t ∧ t.pcie.bme = false
      ∧ t.pcie.up = s.pcie.up ∧ noHost t)
    ∧ (s.pcie.d3 = false → ∃ t, exec (.pcieLinkNotUsable .d3hot) s = .next t ∧ t.pcie.d3 = true
      ∧ t.pcie.up = s.pcie.up ∧ noHost t)
    ∧ (s.portReady = true → ∃ t, exec .pcieLinkUsable s = .next t ∧ t.pcie.up = true ∧ t.pcie.bme = true
      ∧ t.pcie.d3 = false ∧ (s.pcie.up = false → 1 ≤ s.topGen → 1 ≤ t.pcie.gen ∧ t.pcie.gen ≤ s.topGen)
      ∧ t.eng = s.eng ∧ t.arr = s.arr ∧ t.dma = s.dma)
    ∧ (s.portReady = false → exec .pcieLinkUsable s = .next s)
    ∧ (s.pcie.up = true →
      (s.pcie.fmask = false → s.pcie.msixOn = true → s.pcie.pend.contains vec.toNat = true →
        ∃ t, exec (.msixUnmask (.vector vec)) s = .next t
        ∧ t.out = s.out ++ [.msix vec.toNat] ∧ vec.toNat ∉ t.pcie.pend ∧ vec.toNat ∉ t.pcie.mask
        ∧ t = { s with pcie := t.pcie, out := t.out })
      ∧ (s.pcie.fmask = true ∨ s.pcie.msixOn = false ∨ s.pcie.pend.contains vec.toNat = false →
        exec (.msixUnmask (.vector vec)) s =
          .next { s with pcie := { s.pcie with mask := s.pcie.mask.filter (fun x => x != vec.toNat) } })
      ∧ exec (.msixUnmask (.function true)) s = .next { s with pcie := { s.pcie with fmask := true } }
      ∧ exec (.msixUnmask (.enable false)) s = .next { s with pcie := { s.pcie with msixOn := false } }
      ∧ (s.pcie.mask = [] → s.pcie.pend.Nodup →
        (s.pcie.msixOn = true → exec (.msixUnmask (.function false)) s =
          .next { s with pcie := { s.pcie with fmask := false, pend := [] }, out := s.out ++ s.pcie.pend.map .msix })
        ∧ (s.pcie.fmask = false → exec (.msixUnmask (.enable true)) s =
          .next { s with pcie := { s.pcie with msixOn := true, pend := [] }, out := s.out ++ s.pcie.pend.map .msix })))
    ∧ (let b := s.mb mb.toNat
      (s.hostReach = false → exec (.mbGo mb v) s = .next s)
      ∧ (s.hostReach = true → s.mbServed mb.toNat = false → exec (.mbGo mb v) s = .next (pathFails .host s))
      ∧ (s.hostReach = true → s.mbServed mb.toNat = true → b.st = 1 → exec (.mbGo mb v) s = .next (s.addCnt 0x600D 2 1))
      ∧ (s.hostReach = true → s.mbServed mb.toNat = true → v.toNat % 2 = 0 → b.st ≠ 1 → exec (.mbGo mb v) s = .next s)
      ∧ (s.hostReach = true → s.mbServed mb.toNat = true → v.toNat % 2 = 1 → b.st ≠ 1 → s.mbElsewhere b = false →
        exec (.mbGo mb v) s = .next (dictRequest (.mailbox mb) b.request b.write (s.setMb mb.toNat { b with st := 1 })))
      ∧ (s.hostReach = true → s.mbServed mb.toNat = true → v.toNat % 2 = 1 → b.st ≠ 1 → s.mbElsewhere b = true →
        s.casc.isHead = false → exec (.mbGo mb v) s =
          .next ((s.setMb mb.toNat { b with st := 1 }).answer (.mailbox mb) abNoRole 0 svcRead [])))
    ∧ (s.pcie.up = false → exec (.streamTail q v) s = .next s ∧ exec (.chTail q v) s = .next s
      ∧ exec (.cqHead v) s = .next s ∧ exec (.barAccess fn (.bar bar) off a) s = .next s)
    ∧ (s.pcie.up = true → s.pcie.d3 = true → exec (.streamTail q v) s = .next (unsupported .pf0 s)
      ∧ exec (.chTail q v) s = .next (unsupported .pf0 s) ∧ exec (.cqHead v) s = .next (unsupported .pf0 s))
    ∧ (s.pcie.up = true → s.pcie.d3 = false → s.gated blkPcie = false → s.boot.st ≠ .recovery →
      (s.gated blkStream = false →
        exec (.streamTail q v) s = .next (pathAnswer .host s (tailWrite q.toNat (v.toNat % 2 ^ 16) s)))
      ∧ (s.gated blkDma = false →
        exec (.chTail q v) s = .next (pathAnswer .host s (chTailWrite q.toNat (v.toNat % 2 ^ 16) s))
        ∧ exec (.cqHead v) s = .next (pathAnswer .host s (cqHeadWrite (v.toNat % 2 ^ 16) s))))
    ∧ (s.pcie.up = true →
      (s.pcie.d3 = true ∨ (bar ≠ 0 ∧ bar ≠ 2) → ¬ broken bar →
        exec (.barAccess .pf0 (.bar bar) off a) s = .next (unsupported .pf0 s))
      ∧ (s.pcie.d3b = true ∨ bar ≠ 0 → exec (.barAccess .pf1 (.bar bar) off a) s = .next (unsupported .pf1 s))
      ∧ (broken bar → ∃ t, exec (.barAccess .pf0 (.bar bar) off a) s = .next t
        ∧ Crossed s (barDo .pf0 bar off.toNat a) (alteredAccess .host a) t)
      ∧ (s.gated blkPcie = false → s.pcie.d3b = false → exec (.barAccess .pf1 (.bar 0) 0x10 (.read 8)) s =
          .next (s.emit (.readData .host (leBytes 8 (s.mb 4).status))))
      ∧ (¬ broken 2 → s.pcie.d3 = false → s.boot.st ≠ .recovery → s.gated blkPcie = false →
        let e := s.ent? 0x5101 (off.toNat / 2 ^ 28 + 1)
        let o := off.toNat % 2 ^ 28
        (bit e 31 = true → bit e 25 = false → o + accessLen a ≤ 2 ^ 28 →
          exec (.barAccess .pf0 (.bar 2) off a) s = .next (accessPath .host (e % 2 ^ 20 * 2 ^ 28 + o) a s))
        ∧ (bit e 31 = false → exec (.barAccess .pf0 (.bar 2) off a) s = .next (hostFails a s))
        ∧ (bit e 31 = true → bit e 25 = true → e / 2 ^ 20 % 32 ≠ s.casc.role.toNat → s.rolePresent (e / 2 ^ 20 % 32) = true →
          o + accessLen a ≤ 2 ^ 28 → exec (.barAccess .pf0 (.bar 2) off a) s =
            .next (remoteAccess (e / 2 ^ 20 % 32) (e % 2 ^ 20 * 2 ^ 28 + o) a s))))
    ∧ (s.boot.st = .booting → s.boot.step ≤ 9 → exec (.barAccess fn .config off a) s = .next (s.emit .pcieCrs))
    ∧ (s.boot.st ≠ .booting → s.pcie.up = true →
      exec (.barAccess .pf0 .config 9 (.read 3)) s = .next (s.emit (.cfgData .pf0 [0x00, 0x00, 0x12]))
      ∧ exec (.barAccess .pf1 .config 9 (.read 3)) s = .next (s.emit (.cfgData .pf1 [0x00, 0x80, 0x08]))
      ∧ exec (.barAccess fn .config 0x154 (.read 4)) s =
          .next (s.emit (.cfgData fn ((leBytes 8 s.ident.identity.toNat).take 4)))
      ∧ exec (.barAccess fn .config 0x158 (.read 4)) s =
          .next (s.emit (.cfgData fn ((leBytes 8 s.ident.identity.toNat).drop 4)))
      ∧ (x.toNat / 128 = 1 → exec (.barAccess fn .config 0x79 (.write [x])) s = exec (.functionLevelReset fn) s))

/-- The DMA engine: SUBMIT copies a descriptor to an enabled bundle channel; a ring channel reads its ring; the idle
engine takes a channel; COPY and FILL between buffer ranges write exactly the destination, and may be lost, repeated or
altered while a clock ratio that it crosses is broken; a COPY whose deep-tier read is retried enters its hold (R492); MARKER ends
at once; a descriptor that has ended is completed at its own bytes 56 to
63, with its sync object in the cycle after, and one that failed is counted. -/
def Obligations.DmaTransfers : Prop :=
  ∀ (s : State) (c : SlotCtx) (q : BitVec 4) (g : BitVec 5) (r : DmaRun) (d : Desc) (k n : Nat) (he dr : Option Nat),
    let x := (s.x g).toNat
    let ch := s.chan q.toNat
    let broken := s.clk.ratioLost &&& s.dmaRatios ≠ 0
    (s.seq.haltOwed = none → s.gated blkDma = false → s.chBundle q.toNat = true → ch.st = .enabled → ch.acc.length < 8 →
      x % 64 = 0 → inBuffer x 64 = true →
      ∃ t y, exec (.submit c q g) s = .next t ∧ (t.chan q.toNat).acc = ch.acc ++ [y] ∧ y.data = recordAt s.mem x
        ∧ y.job = s.jobOf c ∧ y.id = s.nextId ∧ y.status = (if s.descBad y then 1 else 0)
        ∧ (∀ j, j ≠ q.toNat → t.chan j = s.chan j) ∧ t = { s with dma := t.dma, nextId := s.nextId + 1 })
    ∧ (s.chBundle q.toNat = true → 8 ≤ ch.acc.length → exec (.submit c q g) s = .next (beginStall s))
    ∧ (s.seq.haltOwed = none → s.gated blkDma = false → s.chBundle q.toNat = false → s.ent? 0x4100 5 = 0 →
      ∃ t, exec (.submit c q g) s = .next t ∧ t.seq = { s.seq with excHead := s.seq.excHead + 1 } ∧ t.dma = s.dma
        ∧ Memory.gets t.mem (excBase + 32 * (s.seq.excHead.toNat % 256)) 32 = (s.slotRec c causeRange 0x102).bytes)
    ∧ (ch.st = .enabled → s.chBundle q.toNat = false → s.acceptsWork = true → s.gated blkDma = false →
      s.chHostRing q.toNat = false ∨ s.hostReach = true →
      ∃ t, exec (.descriptorRead q) s = .next t ∧ ch.acc <+: (t.chan q.toNat).acc
        ∧ (ch.acc.length < 8 → ch.read ≠ ch.tail → ch.acc.length < (t.chan q.toNat).acc.length)
        ∧ (ch.acc.length ≤ 8 → (t.chan q.toNat).acc.length ≤ 8)
        ∧ (∀ j, j ≠ q.toNat → t.chan j = s.chan j) ∧ t = { s with dma := t.dma, nextId := t.nextId })
    ∧ (ch.st ≠ .enabled → exec (.descriptorRead q) s = .next s)
    ∧ (s.dma.run = none → s.gated blkDma = false → s.nextChan = some k → (∀ y ∈ (s.chan k).acc.head?, y.ctx = none ∨ y.lone = false) →
      ∃ t, exec .channelTake s = .next t ∧ t.dma.takes = s.dma.takes + 1
        ∧ t.dma.run = some { chan := k, left := s.batch k, hold := none, tag := none, data := none }
        ∧ (t.chan k).acc = (s.chan k).acc ∧ (t.chan k).waits = none ∧ t = { s with dma := t.dma })
    ∧ (s.dma.run.isSome = true ∨ s.nextChan = none → exec .channelTake s = .next s)
    ∧ (broken →
      (∃ t, exec (.copy he dr) s = .next t
        ∧ Crossed s (transfer 0 { hostError := he, deepRetry := dr }) (alteredTransfer 0 { hostError := he, deepRetry := dr }) t)
      ∧ (∃ t, exec .fill s = .next t ∧ Crossed s (transfer 1 noEvents) (alteredTransfer 1 noEvents) t))
    ∧ (s.dmaFront = none → exec (.copy he dr) s = .next s ∧ exec .fill s = .next s
      ∧ exec .marker s = .next s ∧ exec .descriptorComplete s = .next s ∧ exec (.hostCompletionTimeout n) s = .next s)
    ∧ (s.dmaFront = some (r, d) → d.moved = false → r.tag = none → r.data = none → r.hold = none → ¬ broken →
      d.done = 0 → d.dstSpace = 0 → inBuffer d.dst d.len = true → s.gated blkBuffer = false →
      let ended := fun (t : State) => (t.chan r.chan).acc = { d with done := d.len, moved := true } ::
          (s.chan r.chan).acc.drop 1 ∧ t = { s with mem := t.mem, dma := t.dma }
      (d.op = 0 → d.srcSpace = 0 → inBuffer d.src d.len = true → d.src + d.len ≤ d.dst ∨ d.dst + d.len ≤ d.src →
        ∃ t, exec (.copy he dr) s = .next t ∧ t.mem = Memory.puts s.mem d.dst (Memory.gets s.mem d.src d.len) ∧ ended t)
      ∧ (d.op = 1 → ∃ t, exec .fill s = .next t ∧ t.mem = Memory.puts s.mem d.dst (d.fillBytes 0 d.len) ∧ ended t))
    ∧ (s.dmaFront = some (r, d) → d.moved = false → r.tag = none → r.data = none → ¬ broken → d.op = 0 → d.srcSpace = 0 →
      d.done < d.len → s.inDeep (d.src + d.done) d.block = true → d.done ≤ n → n < d.done + d.block →
      exec (.copy he (some n)) s = .next (dmaHold s))
    ∧ (s.dmaFront = some (r, d) → d.moved = false →
      (d.op = 2 → exec .marker s = .next (s.modFront (fun y => { y with moved := true })))
      ∧ (d.op ≠ 2 → exec .marker s = .next s) ∧ exec .descriptorComplete s = .next s
      ∧ (d.op = 0 → d.srcSpace = 1 → d.done < d.len → n < d.done + (64 - (d.dst + d.done) % 64) → r.hold = none →
        exec (.hostCompletionTimeout n) s = .next ((s.dropTickets .host).modFront (fun y => { y with status := 4, moved := true }))))
    ∧ (s.dmaFront = some (r, d) → d.moved = true → d.status = 0 → r.hold = none →
      let told := fun (t : State) => t.sync = s.sync
        ∧ t.clk = (if bit d.data.toNat 23 = true then s.signal (BitVec.ofNat 14 (d.f 24 14)) else s).clk
      (s.chGk8 r.chan = false → ∃ t, exec .descriptorComplete s = .next t
        ∧ t.mem = (if d.inHost then s.mem else Memory.puts s.mem (d.addr + 56) (nativeBytes d))
        ∧ t.host = (if d.inHost then Memory.puts s.host (d.addr + 56) (nativeBytes d) else s.host)
        ∧ told t ∧ (t.chan r.chan).acc = (s.chan r.chan).acc.drop 1 ∧ t.seq = s.seq ∧ t.ent = s.ent)
      ∧ (s.chGk8 r.chan = true → ∃ t, exec .descriptorComplete s = .next t ∧ t.mem = s.mem
        ∧ t.host = Memory.puts s.host (s.ent? 0x5100 5 + 16 * s.dma.cqTail) (gk8Bytes r.chan s.dma.cqPhase s.tick32 d)
        ∧ t.dma.cqTail = (s.dma.cqTail + 1) % s.ent? 0x5100 6 ∧ told t
        ∧ (t.chan r.chan).acc = (s.chan r.chan).acc.drop 1 ∧ t.seq = s.seq ∧ t.ent = s.ent))
    ∧ (s.dmaFront = some (r, d) → d.moved = true → d.status ≠ 0 → d.ctx = none → ∃ t, exec .descriptorComplete s = .next t
      ∧ t.cnt? 0x600D 4 = min 0xFFFF (s.cnt? 0x600D 4 + 1) ∧ (t.chan r.chan).acc = (s.chan r.chan).acc.drop 1
      ∧ t.sync = s.sync ∧ t.seq = s.seq ∧ t.arr = s.arr ∧ t.eng = s.eng)

/-- The switches of the DMA engine as masters write them: a channel is enabled with its ring and what it needs of the
host, and disabled at once while it holds no descriptor; CQ_ENABLE starts the queue at slot 0 and is BUSY while a channel
uses it. -/
def Obligations.DmaSwitches : Prop :=
  ∀ (s : State) (m : Master) (q : BitVec 4) (v : BitVec 8),
    let k := q.toNat
    let ch := s.chan k
    let base := s.ent? 0x5100 5
    (s.entryReady m (0x5110 + k) 1 →
      (ch.st = .enabled → exec (.chEnableSet m q) s = .next (s.wrote m (0x5110 + k) 1 0))
      ∧ (ch.st ≠ .enabled → s.chRingOk k = false →
        exec (.chEnableSet m q) s = .next (s.wrote m (0x5110 + k) 1 abRange))
      ∧ (ch.st = .stopping → s.chRingOk k = true → exec (.chEnableSet m q) s = .next (s.wrote m (0x5110 + k) 1 abBusy))
      ∧ (ch.st = .disabled → s.chRingOk k = true → (s.chGk8 k = true → s.dma.cqOn = true) →
        (s.chGk8 k = true ∨ s.chHostRing k = true → s.hostReach = true) → s.acceptsWork = true →
        exec (.chEnableSet m q) s =
          .next ((s.modChan k (fun x => { x with st := .enabled, read := x.head })).wrote m (0x5110 + k) 1 0))
      ∧ (ch.st ≠ .enabled → exec (.chEnableClear m q) s = .next (s.wrote m (0x5110 + k) 1 0))
      ∧ (ch.st = .enabled → ∃ t : State, exec (.chEnableClear m q) s = .next (t.wrote m (0x5110 + k) 1 0)
        ∧ (t.chan k).st = (if ch.acc = [] then .disabled else .stopping)
        ∧ (t.chan k).acc.length = ch.acc.length ∧ (∀ j, j ≠ k → t.chan j = s.chan j) ∧ t = { s with dma := t.dma }))
    ∧ (s.entryReady m 0x5100 9 →
      (1 < v.toNat → exec (.cqEnable m v) s = .next (s.wrote m 0x5100 9 abRange))
      ∧ (v = 1 → base = 0 ∨ base % 16 ≠ 0 → exec (.cqEnable m v) s = .next (s.wrote m 0x5100 9 abRange))
      ∧ (v = 1 → base ≠ 0 → base % 16 = 0 → exec (.cqEnable m v) s =
          .next (({ s with dma := { s.dma with cqOn := true, cqTail := 0, cqPhase := true } } : State).wrote m 0x5100 9 0))
      ∧ (v = 0 → (∃ j, j < 16 ∧ s.chGk8 j = true ∧ (s.chan j).st = .enabled) →
        exec (.cqEnable m v) s = .next (s.wrote m 0x5100 9 abBusy))
      ∧ (v = 0 → (∀ j, j < 16 → s.chGk8 j = true → (s.chan j).st ≠ .enabled) →
        exec (.cqEnable m v) s = .next (({ s with dma := { s.dma with cqOn := false } } : State).wrote m 0x5100 9 0)))

/-- Clock sources: a write outside the entry's fields is refused, one during a switch, in Steady mode or onto a faulty
source is BUSY, any other is written; a ramp takes one step a microsecond. The crystal is stable, or late at 20 ms. A
fault of a good clock is latched and counted, and that of the lantern oscillator or PCIE_REFCLK may end; a relock restores
its PLL, and the third failure of SEQ_PLL stops the device; a latched fault that persists is not cleared. -/
def Obligations.ClockSourcesAndFaults : Prop :=
  ∀ (s : State) (m : Master) (k : Fin 4) (v : BitVec 8) (w : BitVec 16) (b : Fin 12),
    let d := s.domClk k.val
    let src := v.toNat % 4
    let bad := src = 3 ∨ 6 < v.toNat / 4 % 8
    let busy := d.sw ≠ .steady ∨ s.pwr.mode = 2 ∨ s.clk.faultNow.getLsbD (srcFault k.val src) = true
    let p := s.pll (b.val - 2)
    (s.entryReady m 0x2000 (6 + k.val) →
      (bad → exec (.clkSrcWrite m k v) s = .next (s.wrote m 0x2000 (6 + k.val) abRange))
      ∧ (¬ bad → busy → exec (.clkSrcWrite m k v) s = .next (s.wrote m 0x2000 (6 + k.val) abBusy))
      ∧ (¬ bad → ¬ busy → k ≠ 0 ∨ s.wavesRun = false →
        ∃ t : State, exec (.clkSrcWrite m k v) s = .next (t.wrote m 0x2000 (6 + k.val) 0)
          ∧ (t.domClk k.val).written = BitVec.ofNat 8 (v.toNat % 32) ∧ (t.domClk k.val).src = d.src ∧ (t.domClk k.val).code = d.code
          ∧ (∀ j, j ≠ k.val → t.domClk j = s.domClk j)
          ∧ t.clk.ratioLost = s.clk.ratioLost ||| t.ratiosBroken ∧ t = { s with clk := t.clk })
      ∧ (¬ bad → ¬ busy → k = 0 → s.wavesRun = true → src ≠ d.src.toNat →
        ∃ t, exec (.clkSrcWrite m k v) s = .next t ∧ t.clk.srcWait = some (some m)
          ∧ (t.domClk 0).written = BitVec.ofNat 8 (v.toNat % 32) ∧ (t.domClk 0).src = d.src
          ∧ t = { s with clk := t.clk }))
    ∧ (d.sw ≠ .steady → s.clkWaits k.val = false → k ≠ 0 → s.clk.due = [] →
      ∃ t, exec (.clkRampStep k) s = .next t ∧ t.domClk k.val = d.rampStep ∧ s.clk.ticks + 25 ≤ t.clk.ticks
        ∧ (∀ j, j ≠ k.val → t.domClk j = s.domClk j) ∧ t = { s with clk := t.clk })
    ∧ (d.sw = .steady → exec (.clkRampStep k) s = .next s)
    ∧ (s.clk.crystal = false → ∃ t, exec .crystalStable s = .next t ∧ t.clk.crystal = true ∧ t.clk.onLantern = false
      ∧ t.clk.faultNow.getLsbD 0 = false ∧ 15520000 ≤ t.clk.lanternHz.toNat ∧ t.clk.lanternHz.toNat ≤ 16480000
      ∧ t.freeIx = s.freeIx + 1 ∧ t.mem = s.mem ∧ t.host = s.host ∧ t.sync = s.sync ∧ t.seq = s.seq ∧ t.ent = s.ent)
    ∧ (s.clk.crystal = true → exec .crystalStable s = .next s ∧ exec .crystalTimeout s = .next s)
    ∧ (s.clk.crystal = false → s.clk.crystalLate = false → s.boot.st = .booting → s.clk.due = [] →
      ∃ t, exec .crystalTimeout s = .next t ∧ t.clk.crystalLate = true ∧ 500000 ≤ t.clk.ticks ∧ t = { s with clk := t.clk })
    ∧ (s.faultChecked b.val = true → s.clk.faultNow.getLsbD b.val = false → s.clockRuns b.val = true →
      ∃ t, exec (.clockFault b false) s = .next t ∧ t.clk.faults.getLsbD b.val = true ∧ t.clk.faultNow.getLsbD b.val = true
        ∧ t.cnt? 0x600E 1 = min 0xFFFF (s.cnt? 0x600E 1 + 1)
        ∧ (2 ≤ b.val → b.val ≠ 11 → (t.pll (b.val - 2)).locked = false ∧ (t.pll (b.val - 2)).lost = true)
        ∧ t.host = s.host ∧ t.sync = s.sync ∧ t.eng = s.eng ∧ t.mig = s.mig)
    ∧ (s.clk.faultNow.getLsbD b.val = true → exec (.clockFault b false) s = .next s)
    ∧ (b.val = 1 ∨ b.val = 11 → s.faultChecked b.val = true → exec (.clockFault b true) s =
        .next { s with clk := { s.clk with faultNow := s.clk.faultNow &&& ~~~(1#12 <<< b.val) } })
    ∧ (b.val ≠ 1 → b.val ≠ 11 → exec (.clockFault b true) s = .next s)
    ∧ (2 ≤ b.val → b.val ≠ 11 → p.lost = true → p.tries < 3 → s.clk.due = [] →
      (∃ t, exec (.relockAttempt b true) s = .next t ∧ (t.pll (b.val - 2)).locked = true
        ∧ (t.pll (b.val - 2)).lost = false ∧ t.clk.faultNow.getLsbD b.val = false
        ∧ t.cnt? 0x600E 2 = min 0xFFFF (s.cnt? 0x600E 2 + 1)
        ∧ t.mem = s.mem ∧ t.host = s.host ∧ t.sync = s.sync ∧ t.seq = s.seq)
      ∧ (p.tries < 2 → ∃ t, exec (.relockAttempt b false) s = .next t
        ∧ t.pll (b.val - 2) = { p with tries := p.tries + 1 } ∧ t = { s with clk := t.clk })
      ∧ (p.tries = 2 → b.val = 2 → ∃ t, exec (.relockAttempt b false) s = .next t ∧ t.boot.stopped = true
        ∧ t.boot.fatal.toNat % 256 = 1 ∧ t.seq.st = .halted ∧ t.mem = s.mem ∧ t.sync = s.sync))
    ∧ (p.lost = false → exec (.relockAttempt b true) s = .next s ∧ exec (.relockAttempt b false) s = .next s)
    ∧ (s.entryReady m 0x2000 12 → exec (.clockFaultClear m w) s = .next (({ s with clk := { s.clk with
        faults := s.clk.faults &&& ~~~(BitVec.ofNat 12 w.toNat &&& ~~~s.clk.faultNow) } } : State).wrote m 0x2000 12 0))

/-- Clock output, enables and port power: CLK_OUT_SEL and CLOCK_ENABLE take their fields or answer OUT_OF_RANGE, a block
whose bit is clear is gated once its work has ended, and CASC_PORT_POWER takes a port's link and domain down or wakes the
domain.
Supplies. A warning is latched and counted and suspends every medium; with the last one gone the actions end; a latched
bit is cleared by 1 (what goes on when the actions end is held work; memory changes by held writes alone). -/
def Obligations.EnablesAndSupplies : Prop :=
  (∀ (s : State) (m : Master) (v : BitVec 8) (w : BitVec 16) (b : Fin 11),
     (s.entryReady m 0x2000 11 →
       (5 < v.toNat % 8 → exec (.clkOutSel m v) s = .next (s.wrote m 0x2000 11 abRange))
       ∧ (v.toNat % 8 ≤ 5 → exec (.clkOutSel m v) s = .next (({ s with clk := { s.clk with
           outSel := BitVec.ofNat 8 (v.toNat % 64) } } : State).wrote m 0x2000 11 0)))
     ∧ (s.entryReady m 0x2000 4 →
       (2 ^ 11 ≤ w.toNat → exec (.clockEnable m w) s = .next (s.wrote m 0x2000 4 abRange))
       ∧ (w.toNat < 2 ^ 11 → exec (.clockEnable m w) s = .next (({ s with clk := { s.clk with
           enable := BitVec.ofNat 11 w.toNat, running := s.clk.running ||| BitVec.ofNat 11 w.toNat } } : State).wrote
             m 0x2000 4 0)))
     ∧ (s.clk.running.getLsbD b.val = true → s.clk.enable.getLsbD b.val = false → s.blockBusy b.val = false →
       ∃ t, exec (.blockGated b) s = .next t ∧ t.gated b.val = true
         ∧ (∀ j, j ≠ b.val → t.clk.running.getLsbD j = s.clk.running.getLsbD j)
         ∧ t = { s with clk := { s.clk with running := t.clk.running } })
     ∧ (s.clk.enable.getLsbD b.val = true ∨ s.blockBusy b.val = true → exec (.blockGated b) s = .next s)
     ∧ (s.entryReady m 0x2000 20 →
       (16 ≤ v.toNat → exec (.cascPortPower m v) s = .next (s.wrote m 0x2000 20 abRange))
       ∧ (v.toNat < 16 → ∃ t : State, exec (.cascPortPower m v) s = .next (t.wrote m 0x2000 20 0)
         ∧ t.ent? 0x2000 20 = v.toNat
         ∧ (∀ k, k < 4 → v.getLsbD k = false → t.dom (141 + k) = .off ∧ (t.port k).st = .down)
         ∧ (∀ k, k < 4 → v.getLsbD k = true → s.dom (141 + k) = .off → s.pwr.mode ≠ 4 → t.dom (141 + k) = .waking)
         ∧ (∀ k, k < 4 → v.getLsbD k = true → s.dom (141 + k) ≠ .off → t.dom (141 + k) = s.dom (141 + k))
         ∧ t.mem = s.mem ∧ t.host = s.host ∧ t.sync = s.sync ∧ t.seq = s.seq ∧ t.clk = s.clk)))
  ∧ (∀ (s : State) (m : Master) (r : Fin 8) (v : BitVec 8),
     (s.pwr.warn.getLsbD r.val = false → ∃ t, exec (.supplyWarning r) s = .next t
       ∧ t.pwr.warn = s.pwr.warn ||| 1#8 <<< r.val ∧ t.pwr.latched = s.pwr.latched ||| 1#8 <<< r.val
       ∧ t.cnt? 0x600E (5 + r.val) = min 0xFFFF (s.cnt? 0x600E (5 + r.val) + 1)
       ∧ (s.pwr.acts = 0 → t.media.suspendAll = true)
       ∧ t = { s with arr := t.arr, disp := t.disp, media := t.media, pwr := t.pwr, cnt := t.cnt, cntRem := t.cntRem,
                      awr := t.awr, nextId := t.nextId, holdMax := t.holdMax })
     ∧ (s.pwr.warn.getLsbD r.val = true → exec (.supplyWarning r) s = .next s)
     ∧ (s.pwr.warn = 1#8 <<< r.val → ∃ t, exec (.supplyWarningClear r) s = .next t ∧ t.pwr.warn = 0 ∧ t.pwr.acts = 0
       ∧ t.media.suspendAll = false ∧ t.pwr.latched = s.pwr.latched
       ∧ (s.mig.held = [] → t.mem = s.mem ∧ t.out = s.out)
       ∧ t = { s with arr := t.arr, disp := t.disp, media := t.media, pwr := t.pwr, holdMax := t.holdMax, cnt := t.cnt,
                      cntRem := t.cntRem, mig := t.mig, mem := t.mem, bulkQ := t.bulkQ, deepQ := t.deepQ, out := t.out,
                      nextId := t.nextId })
     ∧ (s.pwr.warn.getLsbD r.val = true → s.pwr.warn ≠ 1#8 <<< r.val →
       exec (.supplyWarningClear r) s = .next { s with pwr := { s.pwr with warn := s.pwr.warn &&& ~~~(1#8 <<< r.val) } })
     ∧ (s.pwr.warn.getLsbD r.val = false → exec (.supplyWarningClear r) s = .next s)
     ∧ (s.entryReady m 0x2000 17 → exec (.supplyLatchedClear m v) s = .next (({ s with pwr := { s.pwr with
         latched := s.pwr.latched &&& ~~~v } } : State).wrote m 0x2000 17 0)))

/-- Modes. MODE takes a serving mode at once and answers when the change is applied, refuses one during a change, and
starts the entry into Umbra mode, which is refused while the sequencer runs; at its end the domains are OFF and what they
held is lost; a wake event that is enabled is latched or starts the way out, which ends in the mode it names. -/
def Obligations.ModesAndUmbra : Prop :=
  ∀ (s : State) (m : Master) (v : BitVec 8) (ns : Nat),
    let free := s.boot.stopped = false ∧ s.pwr.changing = false
    let started : State := ({ s with pwr := { s.pwr with entering := true, noNew := true, wakeLatch := [] } } : State).addCnt 0x600E 14 1
    let wakes := fun (c : Instr) (bit : Nat) =>
      (s.pwr.entering = true → exec c s = .next { s with pwr := { s.pwr with wakeLatch := s.pwr.wakeLatch ++ [(bit, none)] } })
      ∧ (s.pwr.entering = false → s.pwr.mode = 4 → s.pwr.waking = false → exec c s = .next { s with pwr := { s.pwr with
          waking := true, wakeLatch := [(bit, none)], wakeCause := 1#8 <<< bit } })
      ∧ (s.pwr.entering = false → s.pwr.mode ≠ 4 → exec c s = .next s)
    (s.entryReady m 0x2000 1 →
      (¬ free → exec (.modeWrite m v) s = .next (s.wrote m 0x2000 1 abBusy)
        ∧ exec (.umbraEntry m) s = .next (s.wrote m 0x2000 1 abBusy))
      ∧ (free → v.toNat = s.pwr.mode → exec (.modeWrite m v) s = .next (s.wrote m 0x2000 1 0))
      ∧ (free → v.toNat ≠ s.pwr.mode → 4 < v.toNat → exec (.modeWrite m v) s = .next (s.wrote m 0x2000 1 abRange))
      ∧ (free → s.pwr.mode ≠ 4 → s.umbraBusy = true → exec (.umbraEntry m) s = .next (s.wrote m 0x2000 1 abBusy))
      ∧ (free → s.pwr.mode ≠ 4 → s.umbraBusy = false → exec (.umbraEntry m) s = .next (started.wrote m 0x2000 1 0)
        ∧ (v = 4 → exec (.modeWrite m v) s = .next (started.wrote m 0x2000 1 0)))
      ∧ (free → s.pwr.mode = 4 → s.pwr.entering = false → s.pwr.waking = false → v.toNat < 4 →
        exec (.modeWrite m v) s = .next (((startWake [(2, some v.toNat)] s).addCnt 0x600E 14 1).wrote m 0x2000 1 0))
      ∧ (free → v.toNat < 4 → v.toNat ≠ s.pwr.mode → s.pwr.mode ≠ 4 → ∃ t, exec (.modeWrite m v) s = .next t
        ∧ t.pwr.mode = v.toNat ∧ t.pwr.changing = true ∧ t.pwr.modeWait = some m
        ∧ t.cnt? 0x600E 14 = min 0xFFFF (s.cnt? 0x600E 14 + 1)
        ∧ t = { s with pwr := t.pwr, arr := t.arr, eng := t.eng, cnt := t.cnt }))
    ∧ (s.pwr.changing = true → s.pwr.modeWait = some m → s.net.held = [] → exec .modeChangeApplied s = .next (({ s with pwr := { s.pwr with
        changing := false, bulkPause := false, modeWait := none } } : State).answer m 0 tU8 svcWrite []))
    ∧ (s.pwr.changing = false → exec .modeChangeApplied s = .next s)
    ∧ (1000 ≤ ns → Nat.testBit (s.ent? 0x2000 21) 0 = true → wakes (.wakeN ns) 0)
    ∧ (ns < 1000 ∨ Nat.testBit (s.ent? 0x2000 21) 0 = false → exec (.wakeN ns) s = .next s)
    ∧ (s.net.link = false → Nat.testBit (s.ent? 0x2000 21) 1 = true → wakes .t1LinkEnergy 1)
    ∧ (s.net.link = true → exec .t1LinkEnergy s = .next s)
    ∧ (s.pwr.entering = true → s.quiet = true → s.pwr.wakeLatch = [] → s.net.held = [] →
      ∃ t, exec .umbraEntryEnd s = .next t ∧ t.pwr.mode = 4 ∧ t.pwr.entering = false ∧ (∀ n, t.y n = 0)
        ∧ t.seq = Seq.reset ∧ (∀ n, (t.stream n).st = .disabled) ∧ t.dma = Dma.reset ∧ (∀ d, t.dom d = domDefault d)
        ∧ t.host = s.host ∧ t.pending = s.pending)
    ∧ (s.pwr.entering = false ∨ s.quiet = false → exec .umbraEntryEnd s = .next s)
    ∧ (s.pwr.waking = true → s.dom 145 = .off → ∃ t, exec .umbraWake s = .next t ∧ t.out = s.out ++ [.wakeLow]
      ∧ t = { s with out := t.out, pwr := t.pwr })
    ∧ (∀ g ∈ s.wakeGroups, (∀ h ∈ s.wakeGroups, ∀ d ∈ h, s.dom d ≠ .waking) → (∃ d ∈ g, s.dom d = .off) →
      (∀ h ∈ s.wakeGroups.takeWhile (fun h => h != g), ∀ d ∈ h, s.dom d = .on) →
      s.wakeNext = g.foldl (fun t d => if t.dom d = .off then t.setDom d .waking else t) s)
    ∧ (s.dom ns = .waking → s.pwr.waking = true → exec (.domainWakeEnd ns) s = .next (domainOn ns s).wakeNext)
    ∧ (s.pwr.waking = true → s.dom 145 ≠ .off → s.net.held = [] → ∃ t, exec .umbraWakeEnd s = .next t
      ∧ t.pwr.mode = s.wakeMode ∧ t.pwr.waking = false ∧ t.pwr.noNew = false
      ∧ (∀ g ∈ s.wakeGroups, ∀ d ∈ g, t.dom d = .on) ∧ t.mig.parked = []
      ∧ t.host = s.host ∧ t.sync = s.sync ∧ t.seq = s.seq ∧ t.clk = s.clk)
    ∧ (s.pwr.waking = false → exec .umbraWake s = .next s ∧ exec .umbraWakeEnd s = .next s)

/-- Resets. A reset starts the device from step B0 with every register, sync object and counter at reset; host memory, the
cells of the arrays, the deep tier and the identity stay, and every other byte of device memory reads 0 (log 4). RESET_N
of 1.1 us, a supply reset, RESTART and a self-restart reset the device with their causes; a shorter pulse does not; one
between the two limits does or does not (log 3). -/
def Obligations.ResetsKeepTheirState : Prop :=
  ∀ (s : State) (m : Master) (p : Straps) (ns : Nat) (r : Fin 8) (v : BitVec 8),
    let deep := fun (a : Nat) => deepBase ≤ a ∧ a < deepBase + 2 ^ 40
    let fresh := fun (t : State) => t.boot.st = .booting ∧ t.boot.step = 0 ∧ t.seq = Seq.reset ∧ (∀ n, t.y n = 0)
      ∧ (∀ i j, t.cnt? i j = 0) ∧ (∀ n, (t.stream n).st = .disabled) ∧ t.host = s.host ∧ t.pending = s.pending
      ∧ t.arr.cells = s.arr.cells ∧ t.ident = s.ident
      ∧ (∀ a, deep a → Memory.byte t.mem a = Memory.byte s.mem a) ∧ (∀ a, ¬ deep a → Memory.byte t.mem a = 0)
    let cause := fun (n : Nat) (t : State) => s.pwr.tripped = false → t.boot.present.cause.toNat = n
    (s.pwr.inReset = true → ∃ t, exec (.powerOn p none) s = .next t ∧ t.casc.role = p.id ∧ t.net.strapMs = p.t1ms
      ∧ t.net.master = p.t1ms ∧ t.pwr.straps = p ∧ t.pwr.inReset = false ∧ t.pwr.warn = 0
      ∧ t = { s with pwr := t.pwr, casc := t.casc, net := t.net, clk := t.clk, boot := t.boot })
    ∧ (s.pwr.inReset = true → s.boot.present.cause = 0 → ∃ t, exec (.powerOn p (some r)) s = .next t
      ∧ t.boot.present.cause = 2 ∧ t.boot.present.rail.toNat = r.val ∧ t.casc.role = p.id ∧ t.pwr.inReset = false)
    ∧ (s.pwr.inReset = false → exec (.powerOn p none) s = .next s)
    ∧ (1100 ≤ ns → ∃ t, exec (.resetN ns p) s = .next t ∧ fresh t ∧ cause 1 t
      ∧ (s.pwr.warn = 0 → t.casc.role = p.id ∧ t.pwr.inReset = false))
    ∧ (ns < 900 → exec (.resetN ns p) s = .next s)
    ∧ (900 ≤ ns → ns < 1100 → ∃ t, exec (.resetN ns p) s = .next t ∧ t.freeIx = s.freeIx + 1
      ∧ (fresh t ∨ t = { s with freeIx := s.freeIx + 1 }))
    ∧ (∃ t, exec (.supplyReset r) s = .next t ∧ fresh t ∧ t.pwr.inReset = true
      ∧ (r.val ≠ 7 → cause 2 t ∧ (s.pwr.tripped = false → t.boot.present.rail.toNat = r.val))
      ∧ (r.val = 7 → t.boot.present.cause = 0))
    ∧ (∀ k, s.boot.restartAt = some k → s.clk.due = [] → ∃ t, exec .selfRestart s = .next t ∧ fresh t ∧ cause 4 t)
    ∧ (s.boot.restartAt = none → exec .selfRestart s = .next s)
    ∧ (s.entryReady m 0x8000 7 →
      (v ≠ 1 → exec (.restart m v) s = .next (s.wrote m 0x8000 7 abRange))
      ∧ (v = 1 → s.boot.fw ≠ .idle → exec (.restart m v) s = .next (s.wrote m 0x8000 7 abBusy))
      ∧ (v = 1 → s.boot.fw = .idle → ∃ t, exec (.restart m v) s = .next t ∧ fresh t ∧ cause 5 t))
    ∧ (∀ img, s.boot.staged = some img → s.boot.st = .recovery → s.boot.fw = .verifying → s.mediaHeld = false →
      (s.verdict img false = 0 → ∃ t, exec .recovery s = .next t ∧ fresh t ∧ cause 5 t ∧ t.boot.committed = img
        ∧ t.boot.imageLost = false ∧ img.security ≤ t.boot.floor)
      ∧ (s.verdict img false ≠ 0 → ∃ t, exec .recovery s = .next t ∧ t.boot.fw = .idle
        ∧ t.boot.fwResult = BitVec.ofNat 8 (s.verdict img false) ∧ t.boot.committed = s.boot.committed
        ∧ (∃ x, t.media = { s.media with waiting := s.media.waiting ++ [x] } ∧ x.part = .ledger
          ∧ x.data = .ledger t.boot.present t.boot.alt)
        ∧ t = { s with boot := t.boot, cnt := t.cnt, media := t.media, nextId := s.nextId + 1 }))
    ∧ (s.boot.fw ≠ .verifying ∨ s.boot.staged = none ∨ s.mediaHeld = true → exec .recovery s = .next s)

/-- The course of a start. A step that ends well is recorded and the next begins, and B11 starts service; an optional step
that fails is recorded and passed over; a mandatory one restarts the device 100 ms later, or stops it after three; an
image that B3 may not start leads to RECOVERY; a bulk tier of an unsupported size fails B5. The ledger's entries: ALT_CLEAR clears its bits, LEDGER_INDEX takes the
number of a record that is there. -/
def Obligations.BootSteps : Prop :=
  ∀ (s : State) (m : Master) (d : Word) (found : Nat) (w : BitVec 16) (x : Word),
    let k := s.boot.step
    let alt := hasAlternate k && s.boot.alt.getLsbD k
    let runs := s.pwr.inReset = false ∧ s.boot.st = .booting ∧ s.boot.waitReset = false ∧ s.boot.restartAt = none
      ∧ k < 12 ∧ s.skipsStep k = false ∧ s.boot.present.results.length = 12
    (runs → k ≠ 1 → k ≠ 3 → (k = 5 → bulkSupported found = true) → (k = 8 → s.casc.shade ≠ .failed) →
      ∃ t, exec (.bootStepEnd .ok found) s = .next t ∧ t.boot.step = k + 1
      ∧ t.boot.present.results = setAt s.boot.present.results k (if alt then 2 else 1)
      ∧ t.boot.st = (if k = 11 then .serving else .booting)
      ∧ t.host = s.host ∧ t.sync = s.sync ∧ t.seq = s.seq ∧ t.pending = s.pending)
    ∧ (runs → k = 3 → s.imageGood = true → ∃ t, exec (.bootStepEnd .ok found) s = .next t ∧ t.boot.step = 4
      ∧ t.boot.running = s.boot.committed ∧ t.boot.present.version = s.boot.committed.version
      ∧ t.boot.st = .booting ∧ t = { s with boot := t.boot, cnt := t.cnt })
    ∧ (runs → k = 3 → s.imageGood = false → ∃ t, exec (.bootStepEnd .ok found) s = .next t ∧ t.boot.st = .recovery
      ∧ t.boot.fw = .idle ∧ t.mem = s.mem ∧ t.host = s.host ∧ t.sync = s.sync ∧ t.seq = s.seq)
    ∧ (runs → k = 5 → bulkSupported found = false → ∃ t, exec (.bootStepEnd .ok found) s = .next t ∧ t.boot.step = 6
      ∧ t.boot.present.results = setAt s.boot.present.results 5 (if alt then 5 else 4) ∧ t.mig = s.mig
      ∧ t.cnt? 0x600F 1 = min 0xFFFF (s.cnt? 0x600F 1 + 1) ∧ t = { s with boot := t.boot, cnt := t.cnt })
    ∧ (runs → k = 1 → alt = true ∨ s.clk.crystal = true → ∃ t, exec (.bootStepEnd .ok found) s = .next t ∧ t.boot.step = 2
      ∧ t.boot.present.results = setAt s.boot.present.results 1 (if alt then 2 else 1)
      ∧ (alt = true → t.clk.onLantern = true) ∧ t = { s with boot := t.boot, clk := t.clk, cnt := t.cnt })
    ∧ (runs → k = 1 → alt = false → s.clk.crystal = false → exec (.bootStepEnd .ok found) s = .next s)
    ∧ (runs → isOptional k = true → (k = 8 → s.casc.shade ≠ .failed) → ∃ t, exec (.bootStepEnd (.failed d) found) s = .next t ∧ t.boot.step = k + 1
      ∧ t.boot.present.results = setAt s.boot.present.results k (if alt then 5 else 4)
      ∧ t.cnt? 0x600F 1 = min 0xFFFF (s.cnt? 0x600F 1 + 1)
      ∧ t.host = s.host ∧ t.sync = s.sync ∧ t.seq = s.seq ∧ t.mem = s.mem)
    ∧ (runs → k = 2 ∨ k = 4 ∨ k = 6 ∨ k = 10 → s.boot.present.streak.toNat < 3 →
      ∃ t, exec (.bootStepEnd (.failed d) found) s = .next t ∧ t.boot.restartAt = some (s.clk.ticks + 2500000)
        ∧ t.boot.step = k ∧ t.cnt? 0x600F 1 = min 0xFFFF (s.cnt? 0x600F 1 + 1)
        ∧ (∃ x alt', t.media = { s.media with waiting := s.media.waiting ++ [x] } ∧ x.part = .ledger
          ∧ x.data = .ledger t.boot.present alt')
        ∧ t = { s with boot := t.boot, cnt := t.cnt, media := t.media, nextId := s.nextId + 1 })
    ∧ (runs → k = 2 ∨ k = 4 ∨ k = 6 ∨ k = 10 → 3 ≤ s.boot.present.streak.toNat →
      ∃ t, exec (.bootStepEnd (.failed d) found) s = .next t ∧ t.boot.stopped = true ∧ t.boot.fatal.toNat % 256 = 5
        ∧ t.boot.st = (if k = 2 then .booting else .recovery) ∧ t.seq.st = .halted)
    ∧ (s.boot.st ≠ .booting → exec (.bootStepEnd .ok found) s = .next s)
    ∧ exec .ddrPeriodicTraining s = .next s
    ∧ (s.entryReady m 0x8000 6 →
      (2 ^ 12 ≤ w.toNat → exec (.altClear m w) s = .next (s.wrote m 0x8000 6 abRange))
      ∧ (w.toNat < 2 ^ 12 → exec (.altClear m w) s = .next (({ s with boot := { s.boot with
          alt := s.boot.alt &&& ~~~(BitVec.ofNat 12 w.toNat) } } : State).wrote m 0x8000 6 0)))
    ∧ (s.entryReady m 0x8000 3 →
      ((∃ r ∈ s.boot.ring, r.startNum = x) → exec (.ledgerIndex m x) s =
        .next ((s.setEnt 0x8000 3 x.toNat).wrote m 0x8000 3 0))
      ∧ ((∀ r ∈ s.boot.ring, r.startNum ≠ x) → exec (.ledgerIndex m x) s = .next (s.wrote m 0x8000 3 abRange)))

/-- Firmware updates and attestation. FW_UPDATE starts the verification of a whole image in the buffer or the bulk tier;
a good image is handed to the cores one by one, then waits for its confirmation, which the host gives or time brings, and
its commit, a transaction of the FIRMWARE partition, raises the floor; any other end keeps the old image and records why. A report has 608 bytes and counts. -/
def Obligations.FirmwareAndAttestation : Prop :=
  ∀ (s : State) (m : Master) (v : DWord) (b : BitVec 8),
    let a := v.toNat
    let inPlace := a % 64 = 0 ∧ s.inBufBulk a 512 = true ∧ s.inBufBulk a (s.imageSize a) = true
    let idle := s.boot.fw = .idle ∧ s.transition = false ∧ s.boot.st ≠ .booting
    let ended := fun (code : Nat) (t : State) => t.boot.fw = .idle ∧ t.boot.fwResult = BitVec.ofNat 8 code
      ∧ t.boot.staged = none ∧ t.cnt? 0x600F (4 + code) = min 0xFFFF (s.cnt? 0x600F (4 + code) + 1)
      ∧ t.boot.running = s.boot.running
      ∧ (∃ x, t.media = { s.media with waiting := s.media.waiting ++ [x] } ∧ x.part = .ledger
        ∧ x.data = .ledger t.boot.present t.boot.alt)
      ∧ t = { s with boot := t.boot, cnt := t.cnt, media := t.media, nextId := s.nextId + 1 }
    (s.entryReady m 0x8000 16 →
      (¬ inPlace → exec (.fwUpdate m v) s = .next (s.wrote m 0x8000 16 abRange))
      ∧ (inPlace → ¬ idle → exec (.fwUpdate m v) s = .next (s.wrote m 0x8000 16 abBusy))
      ∧ (inPlace → idle → exec (.fwUpdate m v) s = .next (({ s with boot := { s.boot with
          fw := .verifying, fwCores := 0, staged := some (s.readImage a) } } : State).wrote m 0x8000 16 0)))
    ∧ (∀ img, s.boot.staged = some img → s.boot.fw = .verifying → s.boot.st = .serving →
      (s.verdict img true = 0 → exec .fwVerifyEnd s = .next { s with boot := { s.boot with
        fw := .handingOver, fwCores := 0 } })
      ∧ (s.verdict img true ≠ 0 → ∃ t, exec .fwVerifyEnd s = .next t ∧ ended (s.verdict img true) t
        ∧ t.boot.committed = s.boot.committed))
    ∧ (s.boot.fw ≠ .verifying ∨ s.boot.staged = none → exec .fwVerifyEnd s = .next s)
    ∧ (s.boot.fw = .handingOver → s.net.held = [] →
      (s.boot.fwCores < 3 → exec .coreHandover s = .next { s with boot := { s.boot with fwCores := s.boot.fwCores + 1 } })
      ∧ (3 ≤ s.boot.fwCores → exec .coreHandover s = .next { s with boot := { s.boot with
          fw := .confirming, fwCores := 4, fwSince := s.clk.ticks, running := s.boot.staged.getD s.boot.running } })
      ∧ (∃ t, exec (.coreHandoverFail false) s = .next t ∧ ended 6 t ∧ t.boot.committed = s.boot.committed)
      ∧ (s.pwr.tripped = false → ∃ t, exec (.coreHandoverFail true) s = .next t ∧ t.boot.st = .booting
        ∧ t.boot.present.cause = 6 ∧ t.host = s.host ∧ t.pending = s.pending))
    ∧ (s.boot.fw ≠ .handingOver → exec .coreHandover s = .next s ∧ exec (.coreHandoverFail false) s = .next s)
    ∧ (s.entryReady m 0x8000 19 →
      (b ≠ 1 → exec (.fwConfirm m b) s = .next (s.wrote m 0x8000 19 abRange))
      ∧ (b = 1 → s.boot.fw ≠ .confirming → exec (.fwConfirm m b) s = .next (s.wrote m 0x8000 19 abBusy))
      ∧ (b = 1 → s.boot.fw = .confirming → exec (.fwConfirm m b) s = .next (({ s with boot := { s.boot with
          fw := .committing } } : State).wrote m 0x8000 19 0)))
    ∧ (s.boot.fw = .confirming → s.clk.due = [] → ∃ t, exec .fwConfirmTimeExpiry s = .next t
      ∧ t.boot = { s.boot with fw := .committing } ∧ s.boot.fwSince + s.ent? 0x8000 18 * 25000000 ≤ t.clk.ticks
      ∧ t = { s with boot := t.boot, clk := t.clk })
    ∧ (s.boot.fw ≠ .confirming → exec .fwConfirmTimeExpiry s = .next s)
    ∧ (s.boot.fw = .committing → s.mediaHeld = false → ∀ i, s.boot.staged = some i →
      (∃ t, exec (.fwCommitEnd true) s = .next t ∧ t.boot.fw = .idle ∧ t.boot.fwResult = 0 ∧ t.boot.staged = none
        ∧ t.cnt? 0x600F 4 = min 0xFFFF (s.cnt? 0x600F 4 + 1) ∧ t.boot.running = s.boot.running
        ∧ t = { s with boot := t.boot, cnt := t.cnt, media := t.media, nextId := t.nextId }
        ∧ (∃ z ∈ t.media.trans, z.part = .firmware ∧ z.committed = true ∧ z.pages = max (ceilDiv i.size 16384) 1)
        ∧ t.boot.committed = i ∧ i.security ≤ t.boot.floor
        ∧ s.boot.floor ≤ t.boot.floor ∧ t.boot.imageLost = false)
      ∧ (∃ t, exec (.fwCommitEnd false) s = .next t ∧ ended 7 t ∧ t.boot.committed = s.boot.committed
        ∧ t.boot.floor = s.boot.floor))
    ∧ (s.boot.fw ≠ .committing ∨ s.mediaHeld = true → exec (.fwCommitEnd true) s = .next s ∧ exec (.fwCommitEnd false) s = .next s)
    ∧ (s.entryReady m 0x8000 33 →
      (b ≠ 1 → exec (.attRequest m b) s = .next (s.wrote m 0x8000 33 abRange))
      ∧ (b = 1 → s.boot.attState = 1 ∨ s.boot.attState = 3 →
        exec (.attRequest m b) s = .next (s.wrote m 0x8000 33 abBusy))
      ∧ (b = 1 → s.boot.attState ≠ 1 → s.boot.attState ≠ 3 →
        exec (.attRequest m b) s = .next (({ s with boot := { s.boot with attState := 1 } } : State).wrote m 0x8000 33 0)))
    ∧ (s.boot.attState = 1 → s.boot.fw ≠ .handingOver → s.boot.attNonce.length = 32 →
      ∃ t, exec .attReportDone s = .next t ∧ t.boot.attState = 2 ∧ t.boot.attReport.length = 608
        ∧ t.boot.attReport.take 224 = t.reportBody ∧ t.boot.attCount = s.boot.attCount + 1
        ∧ t.cnt? 0x600F 14 = min 0xFFFF (s.cnt? 0x600F 14 + 1)
        ∧ t = { s with boot := t.boot, cnt := t.cnt, freeIx := s.freeIx + 1 })
    ∧ (s.boot.attState ≠ 1 → exec .attReportDone s = .next s)

/-- Errors, counters and holds. A fatal event stops the device and keeps its memory; COUNTERS_CLEAR clears every counter
alone; the hold-back entries take their ranges; a hold that reaches HOLD_BACK_TIMEOUT ends its operation with what R575
gives its kind, and is counted. -/
def Obligations.ErrorsAndHolds : Prop :=
  ∀ (s : State) (m : Master) (c d v : BitVec 8) (w : Word) (tag : BitVec 16) (n k : Nat),
    let counted := fun (t : State) => t.cnt? 0x6010 2 = min 0xFFFF (s.cnt? 0x6010 2 + 1) ∧ k + s.holdTicks ≤ t.clk.ticks
    (s.boot.stopped = false → c ≠ 0 → c.toNat ≤ 5 → ∃ t, exec (.fatalEvent c d) s = .next t ∧ t.boot.stopped = true
      ∧ t.boot.fatal.toNat % 256 = c.toNat ∧ t.seq.st = .halted
      ∧ t.cnt? 0x6001 5 = min 0xFFFF (s.cnt? 0x6001 5 + 1)
      ∧ t = { s with boot := t.boot, seq := t.seq, str := t.str, cnt := t.cnt, cntRem := t.cntRem })
    ∧ (s.boot.stopped = true ∨ c = 0 ∨ 5 < c.toNat → exec (.fatalEvent c d) s = .next s)
    ∧ (s.entryReady m 0x6000 2 →
      (v = 1 → exec (.countersClear m v) s = .next (({ s with cnt := [], cntRem := [] } : State).wrote m 0x6000 2 0))
      ∧ (v ≠ 1 → exec (.countersClear m v) s = .next (s.wrote m 0x6000 2 abRange)))
    ∧ (s.entryReady m 0x6000 1 →
      (100 ≤ w.toNat → w.toNat ≤ 10000000 → exec (.holdBackTimeoutWrite m w) s =
        .next ((s.setEnt 0x6000 1 w.toNat).wrote m 0x6000 1 0))
      ∧ (w.toNat < 100 ∨ 10000000 < w.toNat → exec (.holdBackTimeoutWrite m w) s =
        .next (s.wrote m 0x6000 1 abRange)))
    ∧ (s.entryReady m 0x6000 4 →
      (w = 0 → exec (.holdLongestClear m w) s = .next (({ s with holdMax := 0 } : State).wrote m 0x6000 4 0))
      ∧ (w ≠ 0 → exec (.holdLongestClear m w) s = .next (s.wrote m 0x6000 4 abRange)))
    ∧ (s.clk.due = [] →
      (∀ o, s.getOp n = some o → o.hold = some k → ∃ t, exec (.holdBackExpiry (.phaseOp n)) s = .next t ∧ counted t
        ∧ (∀ p ∈ t.disp.ops, p.id = n → p.hold = none) ∧ t.seq.excHead = s.seq.excHead + 1
        ∧ t.sync = s.sync ∧ t.host = s.host)
      ∧ (∀ r e, s.dmaFront = some (r, e) → r.hold = some k → ∃ t, exec (.holdBackExpiry .descriptor) s = .next t
        ∧ counted t ∧ (t.chan r.chan).acc = { e with status := 6, moved := true } :: (s.chan r.chan).acc.drop 1
        ∧ t.mem = s.mem ∧ t.sync = s.sync ∧ t.host = s.host ∧ t.seq = s.seq)
      ∧ (∀ a, s.seq.access = some a → a.hold = some k → ∃ t, exec (.holdBackExpiry .scalar) s = .next t ∧ counted t
        ∧ t.seq.access = none ∧ t.seq.excHead = s.seq.excHead + 2 ∧ t.seq.regs = s.seq.regs ∧ t.sync = s.sync
        ∧ t.host = s.host)
      ∧ (∀ r x, s.casc.remote.find? (fun y => decide (y.tag = tag)) = some r → r.hold = some k → r.who = .master x →
        ∃ t, exec (.holdBackExpiry (.remote tag)) s = .next t ∧ counted t
          ∧ t.out = s.out ++ [if r.write = false ∧ x = .host then .readData .host (List.replicate r.want 0xFF) else .pathFail x]
          ∧ t.casc.remote = s.casc.remote.filter (fun y => decide (y.tag ≠ tag))
          ∧ t.mem = s.mem ∧ t.sync = s.sync ∧ t.seq = s.seq)
      ∧ (∀ x, s.eng.mrun.find? (fun y => decide (y.id = n)) = some x → x.hold = some k →
        ∃ t, exec (.holdBackExpiry (.matrix n)) s = .next t ∧ counted t
          ∧ (∀ y ∈ t.eng.mrun, y.id = n → y.hold = none) ∧ t.seq.excHead = s.seq.excHead + 1
          ∧ t.sync = s.sync ∧ t.host = s.host))
    ∧ (s.getOp n = none → exec (.holdBackExpiry (.phaseOp n)) s = .next s)
    ∧ (s.dma.run = none → exec (.holdBackExpiry .descriptor) s = .next s)
    ∧ (s.seq.access = none → exec (.holdBackExpiry .scalar) s = .next s)
end

