-- ==== Sys2Proof/Laws/Memory.lean ====
section
/-!
SUPPORT. The laws of finite tables and of the memories built on them: every operation keeps the canonical form, a read
after a write at the same key gives the value written, and a write leaves every other key alone.
-/
namespace Sys2Proof.Machine

section Tables
variable {α : Type}

theorem tsorted_mono {lo hi : Nat} (h : hi ≤ lo) {t : Table α} (ht : tsorted lo t = true) : tsorted hi t = true := by
  cases t with
  | nil => rfl
  | cons p t => simp only [tsorted, Bool.and_eq_true, decide_eq_true_eq] at ht ⊢; exact ⟨by omega, ht.2⟩

/-- Filtering keeps the order of the keys. -/
theorem tsorted_filter (p : Nat × α → Bool) {lo : Nat} {t : Table α} (ht : tsorted lo t = true) :
    tsorted lo (t.filter p) = true := by
  induction t generalizing lo with
  | nil => rfl
  | cons q t ih =>
    simp only [tsorted, Bool.and_eq_true, decide_eq_true_eq] at ht
    by_cases hq : p q = true
    · simp [hq, tsorted, ht.1, ih ht.2]
    · simp only [List.filter_cons, hq]
      exact ih (tsorted_mono (by omega) ht.2)

/-- Inserting a key that the table does not list keeps the order. -/
theorem tsorted_tins (k : Nat) (v : α) {lo : Nat} {t : Table α} (ht : tsorted lo t = true)
    (hk : ∀ p ∈ t, p.1 ≠ k) (hlo : lo ≤ k) : tsorted lo (tins k v t) = true := by
  induction t generalizing lo with
  | nil => simp [tins, tsorted, hlo]
  | cons q t ih =>
    obtain ⟨j, w⟩ := q
    simp only [tsorted, Bool.and_eq_true, decide_eq_true_eq] at ht
    have hj : j ≠ k := hk (j, w) (by simp)
    unfold tins
    split
    · simp only [tsorted, Bool.and_eq_true, decide_eq_true_eq]
      exact ⟨hlo, by omega, ht.2⟩
    · simp only [tsorted, Bool.and_eq_true, decide_eq_true_eq]
      exact ⟨ht.1, ih ht.2 (fun p hp => hk p (by simp [hp])) (by omega)⟩

theorem mem_tins {k : Nat} {v : α} {t : Table α} {p : Nat × α} (h : p ∈ tins k v t) : p = (k, v) ∨ p ∈ t := by
  induction t with
  | nil => simpa [tins] using h
  | cons q t ih =>
    unfold tins at h
    split at h
    · simpa using h
    · rcases List.mem_cons.1 h with rfl | h
      · simp
      · rcases ih h with h | h <;> simp [h]

variable [DecidableEq α] {d : Nat → α}

theorem twf_nil : twf d ([] : Table α) = true := rfl

theorem twf_iff {t : Table α} : twf d t = true ↔ tsorted 0 t = true ∧ ∀ p ∈ t, p.2 ≠ d p.1 := by
  simp [twf, List.all_eq_true]

/-- Filtering keeps the canonical form. -/
theorem twf_filter (p : Nat × α → Bool) {t : Table α} (h : twf d t = true) : twf d (t.filter p) = true := by
  rw [twf_iff] at h ⊢
  exact ⟨tsorted_filter p h.1, fun q hq => h.2 q (List.mem_filter.1 hq).1⟩

theorem twf_tdel {t : Table α} (k : Nat) (h : twf d t = true) : twf d (tdel t k) = true := twf_filter _ h

/-- A write keeps the canonical form. -/
theorem twf_tset {t : Table α} (k : Nat) (v : α) (h : twf d t = true) : twf d (tset d t k v) = true := by
  unfold tset
  split
  · exact twf_tdel k h
  · rename_i hv
    have h2 := twf_iff.1 (twf_tdel (d := d) k h)
    refine twf_iff.2 ⟨tsorted_tins k v h2.1 ?_ (Nat.zero_le _), ?_⟩
    · intro p hp
      simp only [tdel, List.mem_filter, bne_iff_ne] at hp
      exact hp.2
    · intro p hp
      rcases mem_tins hp with rfl | hp
      · exact hv
      · exact h2.2 p hp

theorem twf_tmod {t : Table α} (k : Nat) (f : α → α) (h : twf d t = true) : twf d (tmod d t k f) = true :=
  twf_tset k _ h

/-! ### Reading after writing -/

omit [DecidableEq α] in
theorem tget_tdel (t : Table α) (k j : Nat) : tget d (tdel t k) j = if j = k then d k else tget d t j := by
  induction t with
  | nil => by_cases h : j = k <;> simp [tdel, tget, h]
  | cons q t ih =>
    obtain ⟨i, w⟩ := q
    rw [tdel] at ih ⊢
    by_cases hi : i = k
    · subst hi
      simp only [List.filter_cons, bne_self_eq_false]
      rw [if_neg (by simp), ih]
      by_cases hj : j = i
      · simp [hj]
      · simp [tget, hj, Ne.symm hj]
    · simp only [List.filter_cons, bne_iff_ne, ne_eq, hi, not_false_eq_true, if_true, tget]
      rw [ih]
      by_cases hj : i = j
      · subst hj; simp [hi]
      · simp [hj]

omit [DecidableEq α] in
theorem tget_tins {t : Table α} {k : Nat} (v : α) (hk : ∀ p ∈ t, p.1 ≠ k) (j : Nat) :
    tget d (tins k v t) j = if j = k then v else tget d t j := by
  induction t with
  | nil => simp [tins, tget, eq_comm]
  | cons q t ih =>
    obtain ⟨i, w⟩ := q
    have hi : i ≠ k := hk (i, w) (by simp)
    unfold tins
    split
    · by_cases hj : j = k
      · simp [tget, hj]
      · simp [tget, hj, Ne.symm hj]
    · simp only [tget]
      rw [ih (fun p hp => hk p (by simp [hp]))]
      by_cases hj : i = j
      · subst hj; simp [hi]
      · simp [hj]

/-- A read after a write: the value written at its key, and every other key as before. -/
theorem tget_tset (t : Table α) (k j : Nat) (v : α) : tget d (tset d t k v) j = if j = k then v else tget d t j := by
  unfold tset
  split
  · rename_i hv; rw [tget_tdel, hv]
  · rw [tget_tins v, tget_tdel]
    · by_cases hj : j = k <;> simp [hj]
    · intro p hp
      simp only [tdel, List.mem_filter, bne_iff_ne] at hp
      exact hp.2

theorem tget_tset_same (t : Table α) (k : Nat) (v : α) : tget d (tset d t k v) k = v := by simp [tget_tset]

theorem tget_tset_other (t : Table α) {k j : Nat} (v : α) (h : j ≠ k) : tget d (tset d t k v) j = tget d t j := by
  simp [tget_tset, h]

end Tables

/-! ## Memory -/

theorem Memory.wf_nil : Memory.wf [] = true := rfl

theorem Memory.wf_put {m : Memory} (a : Nat) (b : Byte) (h : m.wf = true) : (m.put a b).wf = true := twf_tset a b h

theorem Memory.wf_puts {m : Memory} (a : Nat) (bs : List Byte) (h : m.wf = true) : (m.puts a bs).wf = true := by
  induction bs generalizing m a with
  | nil => exact h
  | cons b bs ih => exact ih (a + 1) (Memory.wf_put a b h)

theorem Memory.wf_clear {m : Memory} (lo hi : Nat) (h : m.wf = true) : (m.clear lo hi).wf = true := twf_filter _ h

theorem Memory.wf_filter {m : Memory} (p : Host.Cell → Bool) (h : m.wf = true) : Memory.wf (m.filter p) = true :=
  twf_filter p h

theorem Memory.byte_put (m : Memory) (a j : Nat) (b : Byte) : (m.put a b).byte j = if j = a then b else m.byte j :=
  tget_tset m a j b

/-- Every byte outside the bytes written reads as before. -/
theorem Memory.byte_puts_other (m : Memory) (a j : Nat) (bs : List Byte) (h : j < a ∨ a + bs.length ≤ j) :
    (m.puts a bs).byte j = m.byte j := by
  induction bs generalizing m a with
  | nil => rfl
  | cons b bs ih =>
    simp only [List.length_cons] at h
    rw [Memory.puts, ih _ _ (by omega), Memory.byte_put, if_neg (by omega)]

/-- The bytes written read back. -/
theorem Memory.byte_puts_in (m : Memory) (a i : Nat) (bs : List Byte) (h : i < bs.length) :
    (m.puts a bs).byte (a + i) = bs[i] := by
  induction bs generalizing m a i with
  | nil => exact absurd h (by simp)
  | cons b bs ih =>
    cases i with
    | zero => rw [Memory.puts, Nat.add_zero, Memory.byte_puts_other _ _ _ _ (by omega), Memory.byte_put]; simp
    | succ i =>
      rw [Memory.puts, show a + (i + 1) = (a + 1) + i by omega, ih _ _ _ (by simpa using h)]
      rfl

/-- Bytes written and read back as a run. -/
theorem Memory.gets_puts (m : Memory) (a : Nat) (bs : List Byte) : (m.puts a bs).gets a bs.length = bs := by
  have key : ∀ (n i : Nat), i + n = bs.length → (m.puts a bs).gets (a + i) n = bs.drop i := by
    intro n
    induction n with
    | zero => intro i hi; rw [List.drop_of_length_le (by omega)]; rfl
    | succ n ih =>
      intro i hi
      have hlt : i < bs.length := by omega
      rw [Memory.gets, Memory.byte_puts_in m a i bs hlt, show a + i + 1 = a + (i + 1) by omega, ih (i + 1) (by omega)]
      exact (List.drop_eq_getElem_cons hlt).symm
  simpa using key bs.length 0 (by omega)

/-- Clearing a range empties it and leaves the rest. -/
theorem Memory.byte_clear (m : Memory) (lo hi j : Nat) :
    (m.clear lo hi).byte j = if lo ≤ j ∧ j < hi then 0 else m.byte j := by
  unfold Memory.clear Memory.byte
  induction m with
  | nil => by_cases h : lo ≤ j ∧ j < hi <;> simp [tget, emptyByte, h]
  | cons q t ih =>
    obtain ⟨i, w⟩ := q
    simp only [List.filter_cons]
    by_cases hi' : i < lo ∨ hi ≤ i
    · simp only [hi', decide_true, if_true, tget]
      rw [ih]
      by_cases hj : i = j
      · subst hj; simp; omega
      · simp [hj]
    · simp only [hi', decide_false, Bool.false_eq_true, if_false, tget]
      rw [ih]
      by_cases hj : i = j
      · subst hj; rw [if_pos (by omega), if_pos (by omega)]
      · simp [hj]

end Sys2Proof.Machine
end

