-- ==== Sys2Proof/Laws/SoundOps.lean ====
section
/-!
SUPPORT. What keeps the invariant `State.Sound` of Safety.lean, one lemma per operation: the shared operations, the counters, the rings, the
paths and the slots of control.
-/
namespace Sys2Proof.Machine

/-! ## Ops.lean -/

/-- The invariant of Safety.lean over the fields it looks at. -/
structure SoundAt (sync : Table Word) (mem host : Memory) (cnt cntRem : Table Nat) : Prop where
  mem : Memory.wf mem = true
  host : Memory.wf host = true
  sync : twf zeroWord sync = true
  count : twf zeroNat cnt = true
  capped : cnt.all (fun p => decide (p.2 ≤ 0xFFFF)) = true
  rest : cntRem.all (fun p => decide (p.2 < 1024)) = true

/-- The invariant looks at five fields of a state. -/
theorem Sound.mk_eq
    (pending clk seq sync mem host arr disp eng str bulkQ deepQ mig awr media casc net pcie dma pwr boot
    ident tap ent cnt cntRem holdMax out freeIx nextId) :
    State.Sound ⟨pending, clk, seq, sync, mem, host, arr, disp, eng, str, bulkQ, deepQ, mig, awr, media, casc, net,
      pcie, dma, pwr, boot, ident, tap, ent, cnt, cntRem, holdMax, out, freeIx, nextId⟩
    = SoundAt sync mem host cnt cntRem := by
  refine propext ⟨fun h => ⟨h.mem, h.host, h.sync, h.cnt, h.capped, h.rest⟩, fun h => ?_⟩
  exact ⟨h.mem, h.host, h.sync, h.count, h.capped, h.rest⟩

theorem Sound.at {t : State} (h : t.Sound) : SoundAt t.sync t.mem t.host t.cnt t.cntRem :=
  ⟨h.mem, h.host, h.sync, h.cnt, h.capped, h.rest⟩

theorem Sound.foldl {α : Type} {f : State → α → State} {l : List α} {s : State} (h : s.Sound)
    (hf : ∀ t x, t.Sound → (f t x).Sound) : (l.foldl f s).Sound := by
  induction l generalizing s with
  | nil => exact h
  | cons x l ih => exact ih (hf s x h)

/-- The answer of a command has the invariant when it is a state. -/
def Result.Sound : Result → Prop
  | .next t => t.Sound
  | _ => True

theorem Result.sound_next {t : State} (h : t.Sound) : Result.Sound (.next t) := h

theorem capped_tset {d : Nat → Nat} {t : Table Nat} {k v : Nat} (h : t.all (fun p => decide (p.2 ≤ 0xFFFF)) = true)
    (hv : v ≤ 0xFFFF) : (tset d t k v).all (fun p => decide (p.2 ≤ 0xFFFF)) = true := by
  rw [List.all_eq_true] at h ⊢
  intro p hp
  unfold tset at hp
  split at hp
  · exact h p (List.mem_filter.1 hp).1
  · rcases mem_tins hp with rfl | hp
    · simpa using hv
    · exact h p (List.mem_filter.1 hp).1

theorem rest_tset {d : Nat → Nat} {t : Table Nat} {k v : Nat} (h : t.all (fun p => decide (p.2 < 1024)) = true)
    (hv : v < 1024) : (tset d t k v).all (fun p => decide (p.2 < 1024)) = true := by
  rw [List.all_eq_true] at h ⊢
  intro p hp
  unfold tset at hp
  split at hp
  · exact h p (List.mem_filter.1 hp).1
  · rcases mem_tins hp with rfl | hp
    · simpa using hv
    · exact h p (List.mem_filter.1 hp).1

theorem some_sound {t : State} (h : t.Sound) : ∀ u, some t = some u → u.Sound := fun _ hu => Option.some.inj hu ▸ h

theorem State.modClk_sound {s : State} (f : Clock → Clock) (hs : s.Sound) :
    (State.modClk s f).Sound := by
  unfold State.modClk
  with_reducible repeat' first
    | assumption | simp only [Sound.mk_eq] | apply Sound.at

theorem State.modSeq_sound {s : State} (f : Seq → Seq) (hs : s.Sound) :
    (State.modSeq s f).Sound := by
  unfold State.modSeq
  with_reducible repeat' first
    | assumption | simp only [Sound.mk_eq] | apply Sound.at

theorem State.modArr_sound {s : State} (f : Arrays → Arrays) (hs : s.Sound) :
    (State.modArr s f).Sound := by
  unfold State.modArr
  with_reducible repeat' first
    | assumption | simp only [Sound.mk_eq] | apply Sound.at

theorem State.modDisp_sound {s : State} (f : Dispatch → Dispatch) (hs : s.Sound) :
    (State.modDisp s f).Sound := by
  unfold State.modDisp
  with_reducible repeat' first
    | assumption | simp only [Sound.mk_eq] | apply Sound.at

theorem State.modEng_sound {s : State} (f : Engines → Engines) (hs : s.Sound) :
    (State.modEng s f).Sound := by
  unfold State.modEng
  with_reducible repeat' first
    | assumption | simp only [Sound.mk_eq] | apply Sound.at

theorem State.modMig_sound {s : State} (f : Migration → Migration) (hs : s.Sound) :
    (State.modMig s f).Sound := by
  unfold State.modMig
  with_reducible repeat' first
    | assumption | simp only [Sound.mk_eq] | apply Sound.at

theorem State.modMedia_sound {s : State} (f : Media → Media) (hs : s.Sound) :
    (State.modMedia s f).Sound := by
  unfold State.modMedia
  with_reducible repeat' first
    | assumption | simp only [Sound.mk_eq] | apply Sound.at

theorem State.modCasc_sound {s : State} (f : Cascade → Cascade) (hs : s.Sound) :
    (State.modCasc s f).Sound := by
  unfold State.modCasc
  with_reducible repeat' first
    | assumption | simp only [Sound.mk_eq] | apply Sound.at

theorem State.modNet_sound {s : State} (f : FieldNet → FieldNet) (hs : s.Sound) :
    (State.modNet s f).Sound := by
  unfold State.modNet
  with_reducible repeat' first
    | assumption | simp only [Sound.mk_eq] | apply Sound.at

theorem State.modPcie_sound {s : State} (f : Pcie → Pcie) (hs : s.Sound) :
    (State.modPcie s f).Sound := by
  unfold State.modPcie
  with_reducible repeat' first
    | assumption | simp only [Sound.mk_eq] | apply Sound.at

theorem State.modDma_sound {s : State} (f : Dma → Dma) (hs : s.Sound) :
    (State.modDma s f).Sound := by
  unfold State.modDma
  with_reducible repeat' first
    | assumption | simp only [Sound.mk_eq] | apply Sound.at

theorem State.modPwr_sound {s : State} (f : Power → Power) (hs : s.Sound) :
    (State.modPwr s f).Sound := by
  unfold State.modPwr
  with_reducible repeat' first
    | assumption | simp only [Sound.mk_eq] | apply Sound.at

theorem State.modBoot_sound {s : State} (f : Boot → Boot) (hs : s.Sound) :
    (State.modBoot s f).Sound := by
  unfold State.modBoot
  with_reducible repeat' first
    | assumption | simp only [Sound.mk_eq] | apply Sound.at

theorem State.emit_sound {s : State} (e : Emit) (hs : s.Sound) :
    (State.emit s e).Sound := by
  unfold State.emit
  with_reducible repeat' first
    | assumption | simp only [Sound.mk_eq] | apply Sound.at

theorem State.takeFree_sound {s : State} (hs : s.Sound) :
    (State.takeFree s).Sound := by
  unfold State.takeFree
  with_reducible repeat' first
    | assumption | simp only [Sound.mk_eq] | apply Sound.at

theorem State.takeFrees_sound {s : State} (n : Nat) (hs : s.Sound) :
    (State.takeFrees s n).Sound := by
  unfold State.takeFrees
  with_reducible repeat' first
    | assumption | simp only [Sound.mk_eq] | apply Sound.at

theorem crossing_sound {rs : BitVec 3} {s : State} {f g : State → State} (h : s.Sound)
    (hf : ∀ t, t.Sound → (f t).Sound)
    (hg : ∀ t, t.Sound → (g t).Sound) : Result.Sound (crossing rs s f g) := by
  have h1 : s.takeFree.Sound := State.takeFree_sound h
  unfold crossing
  apply Result.sound_next
  split
  · dsimp only
    split
    · exact h1
    · exact hf _ h1
    · exact hf _ (hf _ h1)
    · exact hg _ h1
  · exact hf _ h

theorem State.takeId_sound {s : State} (hs : s.Sound) :
    (State.takeId s).Sound := by
  unfold State.takeId
  with_reducible repeat' first
    | assumption | simp only [Sound.mk_eq] | apply Sound.at

theorem State.putMem_sound {s : State} (a : Nat) (bs : List Byte) (hs : s.Sound) :
    (State.putMem s a bs).Sound := by
  unfold State.putMem
  with_reducible repeat' first
    | assumption | simp only [Sound.mk_eq] | apply Sound.at | apply Memory.wf_puts | apply Memory.wf_clear
    | apply Memory.wf_filter | apply twf_tset | apply capped_tset | apply rest_tset | apply State.Sound.mem
    | apply State.Sound.host | apply State.Sound.sync | apply State.Sound.cnt | apply State.Sound.capped
    | apply State.Sound.rest | exact twf_nil | omega | (refine SoundAt.mk ?_ ?_ ?_ ?_ ?_ ?_)

theorem State.putHost_sound {s : State} (a : Nat) (bs : List Byte) (hs : s.Sound) :
    (State.putHost s a bs).Sound := by
  unfold State.putHost
  with_reducible repeat' first
    | assumption | simp only [Sound.mk_eq] | apply Sound.at | apply Memory.wf_puts | apply Memory.wf_clear
    | apply Memory.wf_filter | apply twf_tset | apply capped_tset | apply rest_tset | apply State.Sound.mem
    | apply State.Sound.host | apply State.Sound.sync | apply State.Sound.cnt | apply State.Sound.capped
    | apply State.Sound.rest | exact twf_nil | omega | (refine SoundAt.mk ?_ ?_ ?_ ?_ ?_ ?_)

theorem State.setEnt_sound {s : State} (i j v : Nat) (hs : s.Sound) :
    (State.setEnt s i j v).Sound := by
  unfold State.setEnt
  with_reducible repeat' first
    | assumption | simp only [Sound.mk_eq] | apply Sound.at

theorem State.addCnt_sound {s : State} (i j n : Nat) (hs : s.Sound) :
    (State.addCnt s i j n).Sound := by
  unfold State.addCnt
  with_reducible repeat' first
    | assumption | simp only [Sound.mk_eq] | apply Sound.at | apply Memory.wf_puts | apply Memory.wf_clear
    | apply Memory.wf_filter | apply twf_tset | apply capped_tset | apply rest_tset | apply State.Sound.mem
    | apply State.Sound.host | apply State.Sound.sync | apply State.Sound.cnt | apply State.Sound.capped
    | apply State.Sound.rest | exact twf_nil | omega | (refine SoundAt.mk ?_ ?_ ?_ ?_ ?_ ?_)

theorem State.addClass_sound {s : State} (cls : Nat) (hs : s.Sound) :
    (State.addClass s cls).Sound := by
  unfold State.addClass
  try dsimp only
  with_reducible repeat' first
    | assumption | apply State.addCnt_sound | split | dsimp only

theorem State.count_sound {s : State} (i j cls : Nat) (hs : s.Sound) :
    (State.count s i j cls).Sound := by
  unfold State.count
  with_reducible repeat' first
    | assumption | apply State.addCnt_sound | apply State.addClass_sound

theorem State.countElems_sound {s : State} (i j n cls : Nat) (hs : s.Sound) :
    (State.countElems s i j n cls).Sound := by
  unfold State.countElems
  try dsimp only
  with_reducible repeat' first
    | assumption | apply State.addCnt_sound | apply State.addClass_sound | split | dsimp only

theorem State.countCycles_sound {s : State} (i j n : Nat) (hs : s.Sound) :
    (State.countCycles s i j n).Sound := by
  unfold State.countCycles
  try dsimp only
  with_reducible repeat' first
    | assumption | apply State.addCnt_sound | dsimp only | simp only [Sound.mk_eq] | apply Sound.at
    | apply Memory.wf_puts | apply Memory.wf_clear | apply Memory.wf_filter | apply twf_tset | apply capped_tset
    | apply rest_tset | apply State.Sound.mem | apply State.Sound.host | apply State.Sound.sync
    | apply State.Sound.cnt | apply State.Sound.capped | apply State.Sound.rest | exact twf_nil | omega
    | (refine SoundAt.mk ?_ ?_ ?_ ?_ ?_ ?_)

theorem State.yPut_sound {s : State} (n : Nat) (v : Word) (seen : Nat) (hs : s.Sound) :
    (State.yPut s n v seen).Sound := by
  unfold State.yPut
  with_reducible repeat' first
    | assumption | simp only [Sound.mk_eq] | apply Sound.at | apply Memory.wf_puts | apply Memory.wf_clear
    | apply Memory.wf_filter | apply twf_tset | apply capped_tset | apply rest_tset | apply State.Sound.mem
    | apply State.Sound.host | apply State.Sound.sync | apply State.Sound.cnt | apply State.Sound.capped
    | apply State.Sound.rest | exact twf_nil | omega | (refine SoundAt.mk ?_ ?_ ?_ ?_ ?_ ?_)

theorem State.ySet_sound {s : State} (n : Nat) (v : Word) (hs : s.Sound) :
    (State.ySet s n v).Sound := by
  unfold State.ySet
  with_reducible repeat' first
    | assumption | apply State.yPut_sound

theorem State.yAdd_sound {s : State} (n : Nat) (v : Word) (hs : s.Sound) :
    (State.yAdd s n v).Sound := by
  unfold State.yAdd
  with_reducible repeat' first
    | assumption | apply State.ySet_sound

theorem State.asOf_sound {s : State} (c : Nat) (h : s.Sound) : (s.asOf c).Sound := by
  have hf : ∀ l : List (Nat × Nat × Word), twf zeroWord
      (l.foldr (fun e m => if c < e.1 then tset zeroWord m e.2.1 e.2.2 else m) s.sync) = true := by
    intro l
    induction l with
    | nil => exact h.sync
    | cons e l ih =>
      rw [List.foldr_cons]
      split
      · exact twf_tset _ _ ih
      · exact ih
  exact ⟨h.mem, h.host, hf _, h.cnt, h.capped, h.rest⟩

theorem State.xSet_sound {s : State} (r : BitVec 5) (v : DWord) (hs : s.Sound) :
    (State.xSet s r v).Sound := by
  unfold State.xSet
  try dsimp only
  with_reducible repeat' first
    | assumption | apply State.modSeq_sound | intro _ | split | dsimp only | simp only [Sound.mk_eq] | apply Sound.at

theorem State.setStream_sound {s : State} (n : Nat) (b : StreamBlk) (hs : s.Sound) :
    (State.setStream s n b).Sound := by
  unfold State.setStream
  with_reducible repeat' first
    | assumption | simp only [Sound.mk_eq] | apply Sound.at

theorem State.modStream_sound {s : State} (n : Nat) (f : StreamBlk → StreamBlk) (hs : s.Sound) :
    (State.modStream s n f).Sound := by
  unfold State.modStream
  with_reducible repeat' first
    | assumption | apply State.setStream_sound

theorem State.failJob_sound {s : State} (j : Option JobRef) (cause : BitVec 8) (hs : s.Sound) :
    (State.failJob s j cause).Sound := by
  unfold State.failJob
  try dsimp only
  with_reducible repeat' first
    | assumption | apply State.modSeq_sound | apply State.modStream_sound | intro _ | split | dsimp only
    | simp only [Sound.mk_eq] | apply Sound.at

theorem State.closeCurrent_sound {s : State} (hs : s.Sound) :
    (State.closeCurrent s).Sound := by
  unfold State.closeCurrent
  try dsimp only
  with_reducible repeat' first
    | assumption | apply State.setStream_sound | apply Sound.foldl | intro _ | dsimp only

theorem countStall_sound {s : State} (hs : s.Sound) :
    (countStall s).Sound := by
  unfold countStall
  try dsimp only
  with_reducible repeat' first
    | assumption | apply State.countCycles_sound | split | dsimp only | simp only [Sound.mk_eq] | apply Sound.at

theorem State.haltSeq_sound {s : State} (how : SeqState) (hs : s.Sound) :
    (State.haltSeq s how).Sound := by
  unfold State.haltSeq
  try dsimp only
  with_reducible repeat' first
    | assumption | apply State.modSeq_sound | apply State.closeCurrent_sound | apply countStall_sound | intro _
    | dsimp only | simp only [Sound.mk_eq] | apply Sound.at

theorem State.modPort_sound {s : State} (k : Nat) (f : Port → Port) (hs : s.Sound) :
    (State.modPort s k f).Sound := by
  unfold State.modPort
  try dsimp only
  with_reducible repeat' first
    | assumption | apply State.modCasc_sound | intro _ | dsimp only | simp only [Sound.mk_eq] | apply Sound.at

theorem State.sendFlit_sound {s : State} (k ftype seq lock : Nat) (nak : Bool) (units : List Byte) (hs : s.Sound) :
    (State.sendFlit s k ftype seq lock nak units).Sound := by
  unfold State.sendFlit
  try dsimp only
  with_reducible repeat' first
    | assumption | apply State.emit_sound | apply State.modPort_sound | intro _ | dsimp only | simp only [Sound.mk_eq]
    | apply Sound.at

theorem State.sendIdle_sound {s : State} (k lock : Nat) (nak : Bool) (hs : s.Sound) :
    (State.sendIdle s k lock nak).Sound := by
  unfold State.sendIdle
  with_reducible repeat' first
    | assumption | apply State.sendFlit_sound

theorem State.putLock_sound {s : State} (ports : List Nat) (t : BitVec 3) (origin : BitVec 5) (v : Nat)
    (hs : s.Sound) :
    (State.putLock s ports t origin v).Sound := by
  unfold State.putLock
  try dsimp only
  with_reducible repeat' first
    | assumption | apply State.sendIdle_sound | apply Sound.foldl | intro _ | dsimp only

theorem State.sendLock_sound {s : State} (t : BitVec 3) (v : Nat) (hs : s.Sound) :
    (State.sendLock s t v).Sound := by
  unfold State.sendLock
  with_reducible repeat' first
    | assumption | apply State.putLock_sound

theorem State.forwardLock_sound {s : State} (origin : BitVec 5) (t : BitVec 3) (v : Nat) (hs : s.Sound) :
    (State.forwardLock s origin t v).Sound := by
  unfold State.forwardLock
  with_reducible repeat' first
    | assumption | apply State.putLock_sound

theorem State.schedule_sound {s : State} (k : Nat) (d : Due) (hs : s.Sound) :
    (State.schedule s k d).Sound := by
  unfold State.schedule
  try dsimp only
  with_reducible repeat' first
    | assumption | apply State.modClk_sound | intro _ | dsimp only | simp only [Sound.mk_eq] | apply Sound.at

theorem State.signalBy_sound {s : State} (obj : BitVec 14) (amount : Word) (hs : s.Sound) :
    (State.signalBy s obj amount).Sound := by
  unfold State.signalBy
  with_reducible repeat' first
    | assumption | apply State.schedule_sound

theorem State.signal_sound {s : State} (obj : BitVec 14) (hs : s.Sound) :
    (State.signal s obj).Sound := by
  unfold State.signal
  with_reducible repeat' first
    | assumption | apply State.signalBy_sound

theorem State.rankHaltAll_sound {s : State} (d : Due) (hs : s.Sound) :
    (State.rankHaltAll s d).Sound := by
  unfold State.rankHaltAll
  try dsimp only
  with_reducible repeat' first
    | assumption | apply State.sendLock_sound | apply State.schedule_sound | split | dsimp only

theorem State.settleHalt_sound {s : State} (hs : s.Sound) :
    (State.settleHalt s).Sound := by
  unfold State.settleHalt
  try dsimp only
  with_reducible repeat' first
    | assumption | apply State.modSeq_sound | apply State.haltSeq_sound | apply State.rankHaltAll_sound | intro _
    | split | dsimp only | simp only [Sound.mk_eq] | apply Sound.at

theorem State.countCause_sound {s : State} (cause : BitVec 8) (detail : BitVec 16) (hs : s.Sound) :
    (State.countCause s cause detail).Sound := by
  unfold State.countCause
  try dsimp only
  with_reducible repeat' first
    | assumption | apply State.addCnt_sound | apply State.count_sound | split | dsimp only

theorem State.writeExc_sound {s : State} (r : ExcRec) (hs : s.Sound) :
    (State.writeExc s r).Sound := by
  unfold State.writeExc
  with_reducible repeat' first
    | assumption | simp only [Sound.mk_eq] | apply Sound.at | apply Memory.wf_puts | apply Memory.wf_clear
    | apply Memory.wf_filter | apply twf_tset | apply capped_tset | apply rest_tset | apply State.Sound.mem
    | apply State.Sound.host | apply State.Sound.sync | apply State.Sound.cnt | apply State.Sound.capped
    | apply State.Sound.rest | exact twf_nil | omega | (refine SoundAt.mk ?_ ?_ ?_ ?_ ?_ ?_)

theorem State.raiseExc_sound {s : State} (r : ExcRec) (hs : s.Sound) :
    (State.raiseExc s r).Sound := by
  unfold State.raiseExc
  try dsimp only
  with_reducible repeat' first
    | assumption | apply State.modSeq_sound | apply State.failJob_sound | apply State.countCause_sound
    | apply State.writeExc_sound | intro _ | split | dsimp only | simp only [Sound.mk_eq] | apply Sound.at

theorem State.slotFault_sound {s : State} (c : SlotCtx) (cause : BitVec 8) (detail : Nat) (hs : s.Sound) :
    (State.slotFault s c cause detail).Sound := by
  unfold State.slotFault
  with_reducible repeat' first
    | assumption | apply State.raiseExc_sound

theorem State.opFailed_sound {s : State} (c : SlotCtx) (job : Option JobRef) (opTag : BitVec 16) (detail : Nat)
    (hs : s.Sound) :
    (State.opFailed s c job opTag detail).Sound := by
  unfold State.opFailed
  with_reducible repeat' first
    | assumption | apply State.raiseExc_sound | simp only [Sound.mk_eq] | apply Sound.at

theorem State.applyDue_sound {s : State} (d : Due) (hs : s.Sound) :
    (State.applyDue s d).Sound := by
  unfold State.applyDue
  try dsimp only
  with_reducible repeat' first
    | assumption | apply State.putMem_sound | apply State.yPut_sound | apply State.xSet_sound
    | apply State.modStream_sound | apply State.haltSeq_sound | apply State.signal_sound
    | apply State.settleHalt_sound | apply State.raiseExc_sound | intro _ | split | dsimp only
    | simp only [Sound.mk_eq] | apply Sound.at

theorem State.advance_sound {s : State} (n : Nat) (hs : s.Sound) :
    (State.advance s n).Sound := by
  unfold State.advance
  try dsimp only
  with_reducible repeat' first
    | assumption | apply State.modClk_sound | intro _ | dsimp only | simp only [Sound.mk_eq] | apply Sound.at

theorem drainDue_sound (k n : Nat) {s : State} (h : s.Sound) : (drainDue k n s).Sound := by
  induction n generalizing s with
  | zero => exact State.advance_sound _ h
  | succ n ih =>
    unfold drainDue
    split
    · exact State.advance_sound _ h
    · split
      · exact ih (State.applyDue_sound _ (State.modClk_sound _ (State.advance_sound _ h)))
      · exact State.advance_sound _ h

theorem State.passCycles_sound {s : State} (n : Nat) (hs : s.Sound) :
    (State.passCycles s n).Sound := by
  unfold State.passCycles
  with_reducible repeat' first
    | assumption | apply drainDue_sound

theorem State.toCycle_sound {s : State} (k : Nat) (hs : s.Sound) :
    (State.toCycle s k).Sound := by
  unfold State.toCycle
  try dsimp only
  with_reducible repeat' first
    | assumption | apply State.passCycles_sound | split | dsimp only

theorem State.toTick_sound {s : State} (t : Nat) (hs : s.Sound) :
    (State.toTick s t).Sound := by
  unfold State.toTick
  try dsimp only
  with_reducible repeat' first
    | assumption | apply State.modClk_sound | apply State.passCycles_sound | intro _ | split | dsimp only

theorem State.firstWhere_sound (p : State → Bool) (n : Nat) {s : State} (h : s.Sound) :
    ∀ t, State.firstWhere p n s = some t → t.Sound := by
  induction n generalizing s with
  | zero =>
    intro t ht
    unfold State.firstWhere at ht
    split at ht
    · cases ht; exact h
    · cases ht
  | succ n ih =>
    intro t ht
    unfold State.firstWhere at ht
    split at ht
    · cases ht; exact h
    · split at ht
      · cases ht
      · exact ih (State.toCycle_sound _ h) t ht

theorem State.first_sound (p : State → Bool) {s : State} (h : s.Sound) : ∀ t, s.first p = some t → t.Sound :=
  State.firstWhere_sound p _ h

theorem State.noteHold_sound {s : State} (start : Option Nat) (hs : s.Sound) :
    (State.noteHold s start).Sound := by
  unfold State.noteHold
  try dsimp only
  with_reducible repeat' first
    | assumption | split | dsimp only | simp only [Sound.mk_eq] | apply Sound.at

/-! ## Flags.lean -/

theorem State.setDom_sound {s : State} (k : Nat) (d : DomState) (hs : s.Sound) :
    (State.setDom s k d).Sound := by
  unfold State.setDom
  try dsimp only
  with_reducible repeat' first
    | assumption | apply State.modPwr_sound | intro _ | dsimp only | simp only [Sound.mk_eq] | apply Sound.at

theorem State.modArray_sound {s : State} (n : Nat) (f : PhysArray → PhysArray) (hs : s.Sound) :
    (State.modArray s n f).Sound := by
  unfold State.modArray
  try dsimp only
  with_reducible repeat' first
    | assumption | apply State.modArr_sound | intro _ | dsimp only | simp only [Sound.mk_eq] | apply Sound.at

theorem State.setMap_sound {s : State} (a : Nat) (e : MapEntry) (hs : s.Sound) :
    (State.setMap s a e).Sound := by
  unfold State.setMap
  try dsimp only
  with_reducible repeat' first
    | assumption | apply State.modArr_sound | intro _ | dsimp only | simp only [Sound.mk_eq] | apply Sound.at

theorem State.goFatal_sound {s : State} (cause detail : Nat) (hs : s.Sound) :
    (State.goFatal s cause detail).Sound := by
  unfold State.goFatal
  try dsimp only
  with_reducible repeat' first
    | assumption | apply State.modBoot_sound | apply State.addClass_sound | apply State.haltSeq_sound | intro _
    | dsimp only | simp only [Sound.mk_eq] | apply Sound.at

/-! ## Rings.lean -/

theorem State.setTierQ_sound {s : State} (t : TierCtl) (q : TierQ) (hs : s.Sound) :
    (State.setTierQ s t q).Sound := by
  unfold State.setTierQ
  try dsimp only
  with_reducible repeat' first
    | assumption | split | dsimp only | simp only [Sound.mk_eq] | apply Sound.at

theorem State.tierReq_sound {s : State} (t : TierCtl) (cls : Nat) (stream : Option Nat) (bytes : Nat) (hs : s.Sound) :
    (State.tierReq s t cls stream bytes).Sound := by
  unfold State.tierReq
  try dsimp only
  with_reducible repeat' first
    | assumption | apply State.takeId_sound | apply State.setTierQ_sound | split | dsimp only
    | simp only [Sound.mk_eq] | apply Sound.at

theorem State.noteTier_sound {s : State} (a n cls : Nat) (stream : Option Nat) (hs : s.Sound) :
    (State.noteTier s a n cls stream).Sound := by
  unfold State.noteTier
  try dsimp only
  with_reducible repeat' first
    | assumption | apply State.tierReq_sound | split | dsimp only

theorem readRecord_sound (n : Nat) {s : State} (i : Nat) (hs : s.Sound) :
    (readRecord n s i).Sound := by
  unfold readRecord
  try dsimp only
  with_reducible repeat' first
    | assumption | apply State.setStream_sound | apply State.noteTier_sound | split | dsimp only
    | simp only [Sound.mk_eq] | apply Sound.at

theorem State.readRing_sound {s : State} (n : Nat) (hs : s.Sound) :
    (State.readRing s n).Sound := by
  unfold State.readRing
  try dsimp only
  with_reducible repeat' first
    | assumption | apply readRecord_sound | apply Sound.foldl | intro _ | dsimp only

theorem State.readRings_sound {s : State} (mask : BitVec 16) (hs : s.Sound) :
    (State.readRings s mask).Sound := by
  unfold State.readRings
  try dsimp only
  with_reducible repeat' first
    | assumption | apply State.readRing_sound | apply Sound.foldl | intro _ | split | dsimp only

theorem State.modFar_sound {s : State} (n k : Nat) (f : FarRing → FarRing) (hs : s.Sound) :
    (State.modFar s n k f).Sound := by
  unfold State.modFar
  try dsimp only
  with_reducible repeat' first
    | assumption | apply State.modCasc_sound | intro _ | dsimp only | simp only [Sound.mk_eq] | apply Sound.at

theorem State.trainPort_sound {s : State} (k : Nat) (hs : s.Sound) :
    (State.trainPort s k).Sound := by
  unfold State.trainPort
  try dsimp only
  with_reducible repeat' first
    | assumption | apply State.modPort_sound | intro _ | split | dsimp only | simp only [Sound.mk_eq] | apply Sound.at

theorem sendData_sound (k : Nat) (r : Option (Nat × Nat)) (us : List (List Byte)) {s : State} (h : s.Sound) :
    (sendData k r us s).Sound := by
  induction us generalizing s with
  | nil => exact h
  | cons u t ih => exact ih (State.modPort_sound _ _ (State.sendFlit_sound _ _ _ _ _ _ h))

theorem State.freeUnits_sound {s : State} (k c n : Nat) (hs : s.Sound) :
    (State.freeUnits s k c n).Sound := by
  unfold State.freeUnits
  try dsimp only
  with_reducible repeat' first
    | assumption | apply State.modPort_sound | apply State.sendIdle_sound | intro _ | split | dsimp only
    | simp only [Sound.mk_eq] | apply Sound.at

theorem discardPkt_sound {s : State} (hs : s.Sound) :
    (discardPkt s).Sound := by
  unfold discardPkt
  with_reducible repeat' first
    | assumption | apply State.addCnt_sound

theorem State.trySend_sound {s t : State} {x : Outgoing} (h : s.Sound)
    (ht : s.trySend x = some t) : t.Sound := by
  unfold State.trySend at ht
  dsimp only at ht
  repeat' (split at ht)
  all_goals cases ht
  all_goals first
    | exact State.freeUnits_sound _ _ _ (sendData_sound _ _ _ (State.modPort_sound _ _ h))
    | exact sendData_sound _ _ _ (State.modPort_sound _ _ h)

theorem State.sendOne_sound {s : State} (c : Nat) (h : s.Sound) : ∀ t, s.sendOne c = some t → t.Sound := by
  intro t ht
  unfold State.sendOne at ht
  obtain ⟨i, -, hi⟩ := List.exists_of_findSome?_eq_some ht
  split at hi
  · cases hi
  · split at hi
    · cases hi
    · rename_i x _ _
      obtain ⟨u, hu, rfl⟩ := Option.map_eq_some_iff.1 hi
      exact State.modCasc_sound _ (State.trySend_sound h hu)

theorem drainSends_sound (c n : Nat) {s : State} (h : s.Sound) : (drainSends c n s).Sound := by
  induction n generalizing s with
  | zero => exact h
  | succ n ih =>
    unfold drainSends
    split
    · exact h
    · exact ih (State.sendOne_sound c h _ (by assumption))

theorem State.flushSends_sound {s : State} (hs : s.Sound) :
    (State.flushSends s).Sound := by
  unfold State.flushSends
  try dsimp only
  with_reducible repeat' first
    | assumption | apply drainSends_sound | dsimp only

theorem State.sendPkt_sound {s : State} (x : Outgoing) (hs : s.Sound) :
    (State.sendPkt s x).Sound := by
  unfold State.sendPkt
  try dsimp only
  with_reducible repeat' first
    | assumption | apply State.modCasc_sound | apply State.flushSends_sound | intro _ | dsimp only
    | simp only [Sound.mk_eq] | apply Sound.at

theorem State.send_sound {s : State} (t : BitVec 4) (dst : BitVec 5) (addr rtag arg : Nat) (data : List Byte := [])
    (hs : s.Sound) :
    (State.send s t dst addr rtag arg data).Sound := by
  unfold State.send
  try dsimp only
  with_reducible repeat' first
    | assumption | apply discardPkt_sound | apply State.sendPkt_sound | split | dsimp only

/-! ## Access.lean -/

theorem State.sendMsix_sound {s : State} (v : Nat) (hs : s.Sound) :
    (State.sendMsix s v).Sound := by
  unfold State.sendMsix
  try dsimp only
  with_reducible repeat' first
    | assumption | apply State.modPcie_sound | apply State.emit_sound | intro _ | split | dsimp only
    | simp only [Sound.mk_eq] | apply Sound.at

theorem State.setMb_sound {s : State} (n : Nat) (b : Mailbox) (hs : s.Sound) :
    (State.setMb s n b).Sound := by
  unfold State.setMb
  try dsimp only
  with_reducible repeat' first
    | assumption | apply State.modPcie_sound | intro _ | dsimp only | simp only [Sound.mk_eq] | apply Sound.at

theorem fillMailbox_sound (n code type : Nat) (data : List Byte) {s : State} (hs : s.Sound) :
    (fillMailbox n code type data s).Sound := by
  unfold fillMailbox
  try dsimp only
  with_reducible repeat' first
    | assumption | apply State.count_sound | apply State.sendMsix_sound | apply State.setMb_sound | split | dsimp only
    | simp only [Sound.mk_eq] | apply Sound.at

theorem State.sendFrame_sound {s : State} (m : Master) (enc : Encap) (g : Segment) (hs : s.Sound) :
    (State.sendFrame s m enc g).Sound := by
  unfold State.sendFrame
  try dsimp only
  with_reducible repeat' first
    | assumption | apply State.emit_sound | split | dsimp only | simp only [Sound.mk_eq] | apply Sound.at

theorem sendSegment_sound (m : Master) (via : Via) (g : Segment) {s : State} (hs : s.Sound) :
    (sendSegment m via g s).Sound := by
  unfold sendSegment
  try dsimp only
  with_reducible repeat' first
    | assumption | apply State.send_sound | apply State.sendFrame_sound | split | dsimp only | simp only [Sound.mk_eq]
    | apply Sound.at

theorem sendAnswer_sound (m : Master) (via : Via) (seq : Nat) (index : BitVec 16) (sub : BitVec 8) (a : Answer)
    {s : State} (hs : s.Sound) :
    (sendAnswer m via seq index sub a s).Sound := by
  unfold sendAnswer
  try dsimp only
  with_reducible repeat' first
    | assumption | apply sendSegment_sound | apply Sound.foldl | intro _ | split | dsimp only

theorem State.modSession_sound {s : State} (m : Master) (f : Session → Session) (hs : s.Sound) :
    (State.modSession s m f).Sound := by
  unfold State.modSession
  try dsimp only
  with_reducible repeat' first
    | assumption | apply State.modNet_sound | intro _ | dsimp only | simp only [Sound.mk_eq] | apply Sound.at

theorem endAccess_sound (a : ScalarAccess) {s : State} (hs : s.Sound) :
    (endAccess a s).Sound := by
  unfold endAccess
  try dsimp only
  with_reducible repeat' first
    | assumption | apply State.modSeq_sound | apply State.noteHold_sound | intro _ | dsimp only
    | simp only [Sound.mk_eq] | apply Sound.at

theorem answerBundle_sound (code : Nat) (data : List Byte) {s : State} (hs : s.Sound) :
    (answerBundle code data s).Sound := by
  unfold answerBundle
  try dsimp only
  with_reducible repeat' first
    | assumption | apply State.xSet_sound | apply State.settleHalt_sound | apply State.raiseExc_sound
    | apply endAccess_sound | split | dsimp only | simp only [Sound.mk_eq] | apply Sound.at

theorem answerSession_sound (m : Master) (code type : Nat) (service : BitVec 8) (data : List Byte) {s : State}
    (hs : s.Sound) :
    (answerSession m code type service data s).Sound := by
  unfold answerSession
  try dsimp only
  with_reducible repeat' first
    | assumption | apply State.emit_sound | apply sendAnswer_sound | apply State.modSession_sound | intro _ | split
    | dsimp only | simp only [Sound.mk_eq] | apply Sound.at

theorem State.answer_sound {s : State} (m : Master) (code type : Nat) (service : BitVec 8) (data : List Byte)
    (hs : s.Sound) :
    (State.answer s m code type service data).Sound := by
  unfold State.answer
  try dsimp only
  with_reducible repeat' first
    | assumption | apply State.emit_sound | apply State.count_sound | apply fillMailbox_sound
    | apply answerBundle_sound | apply answerSession_sound | split | dsimp only | simp only [Sound.mk_eq]
    | apply Sound.at

theorem State.answerLate_sound {s : State} (m : Option Master) (type code : Nat) (hs : s.Sound) :
    (State.answerLate s m type code).Sound := by
  unfold State.answerLate
  try dsimp only
  with_reducible repeat' first
    | assumption | apply State.answer_sound | split | dsimp only | simp only [Sound.mk_eq] | apply Sound.at

theorem pathAnswer_sound (m : Master) {s : State} {r : Option State} (h : s.Sound) (hr : ∀ t, r = some t → t.Sound) :
    (pathAnswer m s r).Sound := by
  unfold pathAnswer
  repeat' split
  · exact State.emit_sound _ (hr _ rfl)
  · exact State.count_sound _ _ _ (State.emit_sound _ h)
  · exact State.emit_sound _ h

theorem pathCmd_sound (m : Master) (blk : Nat) {r : Option State} {s : State} (h : s.Sound)
    (hr : ∀ t, r = some t → t.Sound) : Result.Sound (pathCmd m blk r s) := by
  unfold pathCmd
  apply Result.sound_next
  apply pathAnswer_sound _ h
  intro t ht
  split at ht
  · cases ht
  · exact hr t ht

theorem latchMode_sound (r : DictReq) (write : Bool) {s : State} (hs : s.Sound) :
    (latchMode r write s).Sound := by
  unfold latchMode
  try dsimp only
  with_reducible repeat' first
    | assumption | apply State.modPwr_sound | intro _ | split | dsimp only | simp only [Sound.mk_eq] | apply Sound.at

theorem holdRequest_sound (m : Master) (r : DictReq) (write : Bool) {s : State} (hs : s.Sound) :
    (holdRequest m r write s).Sound := by
  unfold holdRequest
  try dsimp only
  with_reducible repeat' first
    | assumption | apply State.modNet_sound | apply State.addCnt_sound | apply latchMode_sound | intro _ | split
    | dsimp only | simp only [Sound.mk_eq] | apply Sound.at

theorem waitRequest_sound (m : Master) (r : DictReq) (write : Bool) {s : State} (hs : s.Sound) :
    (waitRequest m r write s).Sound := by
  unfold waitRequest
  try dsimp only
  with_reducible repeat' first
    | assumption | apply State.modNet_sound | intro _ | dsimp only | simp only [Sound.mk_eq] | apply Sound.at

theorem State.dropAwaits_sound {s : State} (gone : Master → Bool) (hs : s.Sound) :
    (State.dropAwaits s gone).Sound := by
  unfold State.dropAwaits
  try dsimp only
  with_reducible repeat' first
    | assumption | apply State.modClk_sound | apply State.modMedia_sound | apply State.modNet_sound
    | apply State.modPwr_sound | intro _ | dsimp only | simp only [Sound.mk_eq] | apply Sound.at

theorem answerWrite_sound (m : Master) (ty : Nat) {r : WriteRes} (h : r.2.Sound) : (answerWrite m ty r).Sound := by
  unfold answerWrite
  split
  · exact h
  · exact State.answer_sound _ _ _ _ _ h

theorem entryWrite_sound (m : Master) (i j n v : Nat) {w : State → WriteRes} {s : State} (h : s.Sound)
    (hw : (w s).2.Sound) : Result.Sound (entryWrite m i j n v w s) := by
  unfold entryWrite
  apply Result.sound_next
  repeat' split
  · exact h
  · exact holdRequest_sound _ _ _ h
  · exact waitRequest_sound _ _ _ h
  · exact State.answer_sound _ _ _ _ _ h
  · exact answerWrite_sound _ _ hw

theorem abortFwd_sound (f : Fwd) (code : Nat) {s : State} (hs : s.Sound) :
    (abortFwd f code s).Sound := by
  unfold abortFwd
  try dsimp only
  with_reducible repeat' first
    | assumption | apply State.modNet_sound | apply State.count_sound | apply sendAnswer_sound
    | apply State.answer_sound | intro _ | split | dsimp only | simp only [Sound.mk_eq] | apply Sound.at

theorem abortRole_sound (r : Nat) {s : State} (hs : s.Sound) :
    (abortRole r s).Sound := by
  unfold abortRole
  try dsimp only
  with_reducible repeat' first
    | assumption | apply State.modNet_sound | apply State.answer_sound | apply abortFwd_sound | apply Sound.foldl
    | intro _ | dsimp only | simp only [Sound.mk_eq] | apply Sound.at

/-! ## Control.lean -/

theorem idleCycle_sound {s : State} (hs : s.Sound) :
    (idleCycle s).Sound := by
  unfold idleCycle
  try dsimp only
  with_reducible repeat' first
    | assumption | apply State.modClk_sound | apply State.passCycles_sound | intro _ | split | dsimp only

theorem slotCmd_sound {op : State → State → State} {s : State} (h : s.Sound)
    (ho : ∀ a b, a.Sound → b.Sound → (op a b).Sound) : Result.Sound (slotCmd op s) :=
  State.settleHalt_sound (ho _ _ h h)

theorem takeBranch_sound (c : SlotCtx) (target : BitVec 16) {s : State} (hs : s.Sound) :
    (takeBranch c target s).Sound := by
  unfold takeBranch
  try dsimp only
  with_reducible repeat' first
    | assumption | apply State.modSeq_sound | apply State.modCasc_sound | apply State.sendLock_sound | intro _ | split
    | dsimp only | simp only [Sound.mk_eq] | apply Sound.at

theorem opJump_sound (c : SlotCtx) (arg : BitVec 16) {_pre : State} {s : State} (h__pre : _pre.Sound)
    (h_s : s.Sound) :
    (opJump c arg _pre s).Sound := by
  unfold opJump
  with_reducible repeat' first
    | assumption | apply takeBranch_sound

theorem opBnz_sound (c : SlotCtx) (reg : BitVec 5) (arg : BitVec 16) {pre : State} {s : State} (h_pre : pre.Sound)
    (h_s : s.Sound) :
    (opBnz c reg arg pre s).Sound := by
  unfold opBnz
  try dsimp only
  with_reducible repeat' first
    | assumption | apply takeBranch_sound | split | dsimp only

theorem opBz_sound (c : SlotCtx) (reg : BitVec 5) (arg : BitVec 16) {pre : State} {s : State} (h_pre : pre.Sound)
    (h_s : s.Sound) :
    (opBz c reg arg pre s).Sound := by
  unfold opBz
  try dsimp only
  with_reducible repeat' first
    | assumption | apply takeBranch_sound | split | dsimp only

theorem opLoop_sound (c : SlotCtx) (reg : BitVec 5) (arg : BitVec 16) {pre : State} {s : State} (h_pre : pre.Sound)
    (h_s : s.Sound) :
    (opLoop c reg arg pre s).Sound := by
  unfold opLoop
  try dsimp only
  with_reducible repeat' first
    | assumption | apply State.xSet_sound | apply takeBranch_sound | split | dsimp only

theorem opCall_sound (c : SlotCtx) (arg : BitVec 16) {pre : State} {s : State} (h_pre : pre.Sound) (h_s : s.Sound) :
    (opCall c arg pre s).Sound := by
  unfold opCall
  try dsimp only
  with_reducible repeat' first
    | assumption | apply State.modSeq_sound | apply State.slotFault_sound | apply takeBranch_sound | intro _ | split
    | dsimp only | simp only [Sound.mk_eq] | apply Sound.at

theorem opRet_sound (c : SlotCtx) {pre : State} {s : State} (h_pre : pre.Sound) (h_s : s.Sound) :
    (opRet c pre s).Sound := by
  unfold opRet
  try dsimp only
  with_reducible repeat' first
    | assumption | apply State.modSeq_sound | apply State.slotFault_sound | apply takeBranch_sound | intro _ | split
    | dsimp only | simp only [Sound.mk_eq] | apply Sound.at

theorem opIdle_sound (c : SlotCtx) (mask : BitVec 16) {pre : State} {s : State} (h_pre : pre.Sound) (h_s : s.Sound) :
    (opIdle c mask pre s).Sound := by
  unfold opIdle
  try dsimp only
  with_reducible repeat' first
    | assumption | apply State.modSeq_sound | apply State.slotFault_sound | apply State.readRings_sound | intro _
    | split | dsimp only | simp only [Sound.mk_eq] | apply Sound.at

theorem opTrap_sound (c : SlotCtx) (code : BitVec 16) {_pre : State} {s : State} (h__pre : _pre.Sound)
    (h_s : s.Sound) :
    (opTrap c code _pre s).Sound := by
  unfold opTrap
  with_reducible repeat' first
    | assumption | apply State.slotFault_sound

theorem opHalt_sound (_c : SlotCtx) {_pre : State} {s : State} (h__pre : _pre.Sound) (h_s : s.Sound) :
    (opHalt _c _pre s).Sound := by
  unfold opHalt
  try dsimp only
  with_reducible repeat' first
    | assumption | apply State.modSeq_sound | intro _ | dsimp only | simp only [Sound.mk_eq] | apply Sound.at

theorem opSignal_sound (_c : SlotCtx) (obj arg : BitVec 14) {_pre : State} {s : State} (h__pre : _pre.Sound)
    (h_s : s.Sound) :
    (opSignal _c obj arg _pre s).Sound := by
  unfold opSignal
  with_reducible repeat' first
    | assumption | apply State.yAdd_sound

theorem opSet_sound (_c : SlotCtx) (obj arg : BitVec 14) {_pre : State} {s : State} (h__pre : _pre.Sound)
    (h_s : s.Sound) :
    (opSet _c obj arg _pre s).Sound := by
  unfold opSet
  with_reducible repeat' first
    | assumption | apply State.ySet_sound

theorem opSetX_sound (_c : SlotCtx) (obj : BitVec 14) (reg : BitVec 5) {pre : State} {s : State} (h_pre : pre.Sound)
    (h_s : s.Sound) :
    (opSetX _c obj reg pre s).Sound := by
  unfold opSetX
  with_reducible repeat' first
    | assumption | apply State.ySet_sound

theorem beginStall_sound {s : State} (hs : s.Sound) :
    (beginStall s).Sound := by
  unfold beginStall
  try dsimp only
  with_reducible repeat' first
    | assumption | apply State.modSeq_sound | intro _ | split | dsimp only | simp only [Sound.mk_eq] | apply Sound.at

theorem opSignalPeer_sound (c : SlotCtx) (obj : BitVec 14) (dev : BitVec 5) {pre : State} {s : State}
    (h_pre : pre.Sound) (h_s : s.Sound) :
    (opSignalPeer c obj dev pre s).Sound := by
  unfold opSignalPeer
  try dsimp only
  with_reducible repeat' first
    | assumption | apply State.emit_sound | apply State.yAdd_sound | apply State.slotFault_sound
    | apply State.send_sound | split | dsimp only

theorem opAddi_sound (_c : SlotCtx) (d r : BitVec 5) (imm : BitVec 9) {pre : State} {s : State} (h_pre : pre.Sound)
    (h_s : s.Sound) :
    (opAddi _c d r imm pre s).Sound := by
  unfold opAddi
  with_reducible repeat' first
    | assumption | apply State.xSet_sound

theorem opAdd_sound (_c : SlotCtx) (d r : BitVec 5) {pre : State} {s : State} (h_pre : pre.Sound) (h_s : s.Sound) :
    (opAdd _c d r pre s).Sound := by
  unfold opAdd
  with_reducible repeat' first
    | assumption | apply State.xSet_sound

theorem opSub_sound (_c : SlotCtx) (d r : BitVec 5) {pre : State} {s : State} (h_pre : pre.Sound) (h_s : s.Sound) :
    (opSub _c d r pre s).Sound := by
  unfold opSub
  with_reducible repeat' first
    | assumption | apply State.xSet_sound

theorem opAnd_sound (_c : SlotCtx) (d r : BitVec 5) {pre : State} {s : State} (h_pre : pre.Sound) (h_s : s.Sound) :
    (opAnd _c d r pre s).Sound := by
  unfold opAnd
  with_reducible repeat' first
    | assumption | apply State.xSet_sound

theorem opOr_sound (_c : SlotCtx) (d r : BitVec 5) {pre : State} {s : State} (h_pre : pre.Sound) (h_s : s.Sound) :
    (opOr _c d r pre s).Sound := by
  unfold opOr
  with_reducible repeat' first
    | assumption | apply State.xSet_sound

theorem opShli_sound (_c : SlotCtx) (d r : BitVec 5) (imm : BitVec 9) {pre : State} {s : State} (h_pre : pre.Sound)
    (h_s : s.Sound) :
    (opShli _c d r imm pre s).Sound := by
  unfold opShli
  with_reducible repeat' first
    | assumption | apply State.xSet_sound

theorem opShri_sound (_c : SlotCtx) (d r : BitVec 5) (imm : BitVec 9) {pre : State} {s : State} (h_pre : pre.Sound)
    (h_s : s.Sound) :
    (opShri _c d r imm pre s).Sound := by
  unfold opShri
  with_reducible repeat' first
    | assumption | apply State.xSet_sound

theorem opMovhi_sound (_c : SlotCtx) (d : BitVec 5) (imm : BitVec 9) {pre : State} {s : State} (h_pre : pre.Sound)
    (h_s : s.Sound) :
    (opMovhi _c d imm pre s).Sound := by
  unfold opMovhi
  with_reducible repeat' first
    | assumption | apply State.xSet_sound

theorem opCyc_sound (_c : SlotCtx) (d : BitVec 5) {_pre : State} {s : State} (h__pre : _pre.Sound) (h_s : s.Sound) :
    (opCyc _c d _pre s).Sound := by
  unfold opCyc
  with_reducible repeat' first
    | assumption | apply State.xSet_sound

theorem opSyncRd_sound (c : SlotCtx) (d r : BitVec 5) {pre : State} {s : State} (h_pre : pre.Sound) (h_s : s.Sound) :
    (opSyncRd c d r pre s).Sound := by
  unfold opSyncRd
  with_reducible repeat' first
    | assumption | apply State.schedule_sound

theorem startAccess_sound (c : SlotCtx) (op : ScalarOp) {s : State} (hs : s.Sound) :
    (startAccess c op s).Sound := by
  unfold startAccess
  try dsimp only
  with_reducible repeat' first
    | assumption | apply State.modSeq_sound | intro _ | dsimp only | simp only [Sound.mk_eq] | apply Sound.at

theorem busError_sound (c : SlotCtx) (addr : Nat) {s : State} (hs : s.Sound) :
    (busError c addr s).Sound := by
  unfold busError
  with_reducible repeat' first
    | assumption | apply State.raiseExc_sound | simp only [Sound.mk_eq] | apply Sound.at

theorem opLd_sound (c : SlotCtx) (d r : BitVec 5) (imm : BitVec 9) {pre : State} {s : State} (h_pre : pre.Sound)
    (h_s : s.Sound) :
    (opLd c d r imm pre s).Sound := by
  unfold opLd
  try dsimp only
  with_reducible repeat' first
    | assumption | apply State.schedule_sound | apply State.raiseExc_sound | apply startAccess_sound
    | apply busError_sound | split | dsimp only | simp only [Sound.mk_eq] | apply Sound.at

theorem opSt_sound (c : SlotCtx) (d r : BitVec 5) (imm : BitVec 9) {pre : State} {s : State} (h_pre : pre.Sound)
    (h_s : s.Sound) :
    (opSt c d r imm pre s).Sound := by
  unfold opSt
  try dsimp only
  with_reducible repeat' first
    | assumption | apply State.schedule_sound | apply State.raiseExc_sound | apply startAccess_sound
    | apply busError_sound | split | dsimp only | simp only [Sound.mk_eq] | apply Sound.at

theorem opDictRd_sound (c : SlotCtx) (d r : BitVec 5) {pre : State} {s : State} (h_pre : pre.Sound) (h_s : s.Sound) :
    (opDictRd c d r pre s).Sound := by
  unfold opDictRd
  with_reducible repeat' first
    | assumption | apply startAccess_sound

theorem opDictWr_sound (c : SlotCtx) (d r : BitVec 5) {pre : State} {s : State} (h_pre : pre.Sound) (h_s : s.Sound) :
    (opDictWr c d r pre s).Sound := by
  unfold opDictWr
  with_reducible repeat' first
    | assumption | apply startAccess_sound

theorem opTagjob_sound (c : SlotCtx) (d r : BitVec 5) {pre : State} {s : State} (h_pre : pre.Sound) (h_s : s.Sound) :
    (opTagjob c d r pre s).Sound := by
  unfold opTagjob
  with_reducible repeat' first
    | assumption | apply startAccess_sound

theorem execJump_sound (c : SlotCtx) (arg : BitVec 16) {s : State} (hs : s.Sound) :
    Result.Sound (execJump c arg s) := by
  unfold execJump
  with_reducible repeat' first
    | exact trivial | apply Result.sound_next | assumption | apply slotCmd_sound | apply opJump_sound

theorem execBnz_sound (c : SlotCtx) (reg : BitVec 5) (arg : BitVec 16) {s : State} (hs : s.Sound) :
    Result.Sound (execBnz c reg arg s) := by
  unfold execBnz
  with_reducible repeat' first
    | exact trivial | apply Result.sound_next | assumption | apply slotCmd_sound | apply opBnz_sound

theorem execBz_sound (c : SlotCtx) (reg : BitVec 5) (arg : BitVec 16) {s : State} (hs : s.Sound) :
    Result.Sound (execBz c reg arg s) := by
  unfold execBz
  with_reducible repeat' first
    | exact trivial | apply Result.sound_next | assumption | apply slotCmd_sound | apply opBz_sound

theorem execLoop_sound (c : SlotCtx) (reg : BitVec 5) (arg : BitVec 16) {s : State} (hs : s.Sound) :
    Result.Sound (execLoop c reg arg s) := by
  unfold execLoop
  with_reducible repeat' first
    | exact trivial | apply Result.sound_next | assumption | apply slotCmd_sound | apply opLoop_sound

theorem execCall_sound (c : SlotCtx) (arg : BitVec 16) {s : State} (hs : s.Sound) :
    Result.Sound (execCall c arg s) := by
  unfold execCall
  with_reducible repeat' first
    | exact trivial | apply Result.sound_next | assumption | apply slotCmd_sound | apply opCall_sound

theorem execRet_sound (c : SlotCtx) {s : State} (hs : s.Sound) :
    Result.Sound (execRet c s) := by
  unfold execRet
  with_reducible repeat' first
    | exact trivial | apply Result.sound_next | assumption | apply slotCmd_sound | apply opRet_sound

theorem execIdle_sound (c : SlotCtx) (mask : BitVec 16) {s : State} (hs : s.Sound) :
    Result.Sound (execIdle c mask s) := by
  unfold execIdle
  with_reducible repeat' first
    | exact trivial | apply Result.sound_next | assumption | apply slotCmd_sound | apply opIdle_sound

theorem execTrap_sound (c : SlotCtx) (code : BitVec 16) {s : State} (hs : s.Sound) :
    Result.Sound (execTrap c code s) := by
  unfold execTrap
  with_reducible repeat' first
    | exact trivial | apply Result.sound_next | assumption | apply slotCmd_sound | apply opTrap_sound

theorem execHalt_sound (c : SlotCtx) {s : State} (hs : s.Sound) :
    Result.Sound (execHalt c s) := by
  unfold execHalt
  with_reducible repeat' first
    | exact trivial | apply Result.sound_next | assumption | apply slotCmd_sound | apply opHalt_sound

theorem execSignal_sound (c : SlotCtx) (obj arg : BitVec 14) {s : State} (hs : s.Sound) :
    Result.Sound (execSignal c obj arg s) := by
  unfold execSignal
  with_reducible repeat' first
    | exact trivial | apply Result.sound_next | assumption | apply slotCmd_sound | apply opSignal_sound

theorem execSet_sound (c : SlotCtx) (obj arg : BitVec 14) {s : State} (hs : s.Sound) :
    Result.Sound (execSet c obj arg s) := by
  unfold execSet
  with_reducible repeat' first
    | exact trivial | apply Result.sound_next | assumption | apply slotCmd_sound | apply opSet_sound

theorem execSetX_sound (c : SlotCtx) (obj : BitVec 14) (reg : BitVec 5) {s : State} (hs : s.Sound) :
    Result.Sound (execSetX c obj reg s) := by
  unfold execSetX
  with_reducible repeat' first
    | exact trivial | apply Result.sound_next | assumption | apply slotCmd_sound | apply opSetX_sound

theorem execWaitGe_sound (_c : SlotCtx) (obj arg : BitVec 14) {s : State} (hs : s.Sound) :
    Result.Sound (execWaitGe _c obj arg s) := by
  unfold execWaitGe
  try dsimp only
  with_reducible repeat' first
    | exact trivial | apply Result.sound_next | assumption | apply beginStall_sound | split | dsimp only

theorem execWaitGeX_sound (_c : SlotCtx) (obj : BitVec 14) (reg : BitVec 5) {s : State} (hs : s.Sound) :
    Result.Sound (execWaitGeX _c obj reg s) := by
  unfold execWaitGeX
  try dsimp only
  with_reducible repeat' first
    | exact trivial | apply Result.sound_next | assumption | apply beginStall_sound | split | dsimp only

theorem execSignalPeer_sound (c : SlotCtx) (obj : BitVec 14) (dev : BitVec 5) {s : State} (hs : s.Sound) :
    Result.Sound (execSignalPeer c obj dev s) := by
  unfold execSignalPeer
  with_reducible repeat' first
    | exact trivial | apply Result.sound_next | assumption | apply slotCmd_sound | apply opSignalPeer_sound

theorem execAddi_sound (c : SlotCtx) (d r : BitVec 5) (imm : BitVec 9) {s : State} (hs : s.Sound) :
    Result.Sound (execAddi c d r imm s) := by
  unfold execAddi
  with_reducible repeat' first
    | exact trivial | apply Result.sound_next | assumption | apply slotCmd_sound | apply opAddi_sound

theorem execAdd_sound (c : SlotCtx) (d r : BitVec 5) {s : State} (hs : s.Sound) :
    Result.Sound (execAdd c d r s) := by
  unfold execAdd
  with_reducible repeat' first
    | exact trivial | apply Result.sound_next | assumption | apply slotCmd_sound | apply opAdd_sound

theorem execSub_sound (c : SlotCtx) (d r : BitVec 5) {s : State} (hs : s.Sound) :
    Result.Sound (execSub c d r s) := by
  unfold execSub
  with_reducible repeat' first
    | exact trivial | apply Result.sound_next | assumption | apply slotCmd_sound | apply opSub_sound

theorem execAnd_sound (c : SlotCtx) (d r : BitVec 5) {s : State} (hs : s.Sound) :
    Result.Sound (execAnd c d r s) := by
  unfold execAnd
  with_reducible repeat' first
    | exact trivial | apply Result.sound_next | assumption | apply slotCmd_sound | apply opAnd_sound

theorem execOr_sound (c : SlotCtx) (d r : BitVec 5) {s : State} (hs : s.Sound) :
    Result.Sound (execOr c d r s) := by
  unfold execOr
  with_reducible repeat' first
    | exact trivial | apply Result.sound_next | assumption | apply slotCmd_sound | apply opOr_sound

theorem execShli_sound (c : SlotCtx) (d r : BitVec 5) (imm : BitVec 9) {s : State} (hs : s.Sound) :
    Result.Sound (execShli c d r imm s) := by
  unfold execShli
  with_reducible repeat' first
    | exact trivial | apply Result.sound_next | assumption | apply slotCmd_sound | apply opShli_sound

theorem execShri_sound (c : SlotCtx) (d r : BitVec 5) (imm : BitVec 9) {s : State} (hs : s.Sound) :
    Result.Sound (execShri c d r imm s) := by
  unfold execShri
  with_reducible repeat' first
    | exact trivial | apply Result.sound_next | assumption | apply slotCmd_sound | apply opShri_sound

theorem execMovhi_sound (c : SlotCtx) (d : BitVec 5) (imm : BitVec 9) {s : State} (hs : s.Sound) :
    Result.Sound (execMovhi c d imm s) := by
  unfold execMovhi
  with_reducible repeat' first
    | exact trivial | apply Result.sound_next | assumption | apply slotCmd_sound | apply opMovhi_sound

theorem execLd_sound (c : SlotCtx) (d r : BitVec 5) (imm : BitVec 9) {s : State} (hs : s.Sound) :
    Result.Sound (execLd c d r imm s) := by
  unfold execLd
  with_reducible repeat' first
    | exact trivial | apply Result.sound_next | assumption | apply slotCmd_sound | apply opLd_sound

theorem execSt_sound (c : SlotCtx) (d r : BitVec 5) (imm : BitVec 9) {s : State} (hs : s.Sound) :
    Result.Sound (execSt c d r imm s) := by
  unfold execSt
  with_reducible repeat' first
    | exact trivial | apply Result.sound_next | assumption | apply slotCmd_sound | apply opSt_sound

theorem execDictRd_sound (c : SlotCtx) (d r : BitVec 5) {s : State} (hs : s.Sound) :
    Result.Sound (execDictRd c d r s) := by
  unfold execDictRd
  with_reducible repeat' first
    | exact trivial | apply Result.sound_next | assumption | apply slotCmd_sound | apply opDictRd_sound

theorem execDictWr_sound (c : SlotCtx) (d r : BitVec 5) {s : State} (hs : s.Sound) :
    Result.Sound (execDictWr c d r s) := by
  unfold execDictWr
  with_reducible repeat' first
    | exact trivial | apply Result.sound_next | assumption | apply slotCmd_sound | apply opDictWr_sound

theorem execCyc_sound (c : SlotCtx) (d : BitVec 5) {s : State} (hs : s.Sound) :
    Result.Sound (execCyc c d s) := by
  unfold execCyc
  with_reducible repeat' first
    | exact trivial | apply Result.sound_next | assumption | apply slotCmd_sound | apply opCyc_sound

theorem execSyncRd_sound (c : SlotCtx) (d r : BitVec 5) {s : State} (hs : s.Sound) :
    Result.Sound (execSyncRd c d r s) := by
  unfold execSyncRd
  with_reducible repeat' first
    | exact trivial | apply Result.sound_next | assumption | apply slotCmd_sound | apply opSyncRd_sound

theorem execTagjob_sound (c : SlotCtx) (d r : BitVec 5) {s : State} (hs : s.Sound) :
    Result.Sound (execTagjob c d r s) := by
  unfold execTagjob
  with_reducible repeat' first
    | exact trivial | apply Result.sound_next | assumption | apply slotCmd_sound | apply opTagjob_sound

theorem execSyncValueWrite_sound (m : Master) (obj : BitVec 14) (value : Word) {s : State} (hs : s.Sound) :
    Result.Sound (execSyncValueWrite m obj value s) := by
  unfold execSyncValueWrite
  with_reducible repeat' first
    | exact trivial | apply Result.sound_next | assumption | apply State.ySet_sound | apply pathCmd_sound
    | apply some_sound

theorem execSyncAddWrite_sound (m : Master) (obj : BitVec 14) (value : Word) {s : State} (hs : s.Sound) :
    Result.Sound (execSyncAddWrite m obj value s) := by
  unfold execSyncAddWrite
  with_reducible repeat' first
    | exact trivial | apply Result.sound_next | assumption | apply State.yAdd_sound | apply pathCmd_sound
    | apply some_sound

theorem execIdleResume_sound {s : State} (hs : s.Sound) :
    Result.Sound (execIdleResume s) := by
  unfold execIdleResume
  try dsimp only
  with_reducible repeat' first
    | exact trivial | apply Result.sound_next | assumption | apply State.modSeq_sound | apply State.readRings_sound
    | intro _ | split | dsimp only | simp only [Sound.mk_eq] | apply Sound.at

theorem startIssue_sound (cyc : Nat) {s : State} (hs : s.Sound) :
    (startIssue cyc s).Sound := by
  unfold startIssue
  try dsimp only
  with_reducible repeat' first
    | assumption | apply State.modSeq_sound | intro _ | dsimp only | simp only [Sound.mk_eq] | apply Sound.at

theorem resumeIssue_sound (cyc : Nat) {s : State} (hs : s.Sound) :
    (resumeIssue cyc s).Sound := by
  unfold resumeIssue
  try dsimp only
  with_reducible repeat' first
    | assumption | apply State.modSeq_sound | intro _ | dsimp only | simp only [Sound.mk_eq] | apply Sound.at

theorem rankStart_sound {s : State} (hs : s.Sound) :
    (rankStart s).Sound := by
  unfold rankStart
  try dsimp only
  with_reducible repeat' first
    | assumption | apply State.modCasc_sound | apply State.sendLock_sound | apply startIssue_sound | intro _
    | dsimp only | simp only [Sound.mk_eq] | apply Sound.at

theorem loneStart_sound {s : State} (hs : s.Sound) :
    (loneStart s).Sound := by
  unfold loneStart
  try dsimp only
  with_reducible repeat' first
    | assumption | apply State.modCasc_sound | apply startIssue_sound | intro _ | dsimp only | simp only [Sound.mk_eq]
    | apply Sound.at

theorem wSeqControl_sound (v : Nat) {s : State} (hs : s.Sound) :
    (wSeqControl v s).2.Sound := by
  unfold wSeqControl
  try dsimp only
  with_reducible repeat' first
    | assumption | apply State.haltSeq_sound | apply State.rankHaltAll_sound | apply resumeIssue_sound
    | apply rankStart_sound | apply loneStart_sound | split | dsimp only

theorem execSeqControlStart_sound (m : Master) {s : State} (hs : s.Sound) :
    Result.Sound (execSeqControlStart m s) := by
  unfold execSeqControlStart
  with_reducible repeat' first
    | exact trivial | apply Result.sound_next | assumption | apply entryWrite_sound | apply wSeqControl_sound

theorem execSeqControlHalt_sound (m : Master) {s : State} (hs : s.Sound) :
    Result.Sound (execSeqControlHalt m s) := by
  unfold execSeqControlHalt
  with_reducible repeat' first
    | exact trivial | apply Result.sound_next | assumption | apply entryWrite_sound | apply wSeqControl_sound

theorem execSeqControlResume_sound (m : Master) {s : State} (hs : s.Sound) :
    Result.Sound (execSeqControlResume m s) := by
  unfold execSeqControlResume
  with_reducible repeat' first
    | exact trivial | apply Result.sound_next | assumption | apply entryWrite_sound | apply wSeqControl_sound

/-! ## Tiers.lean -/

theorem State.setExt_sound {s : State} (e : Nat) (x : Extent) (hs : s.Sound) :
    (State.setExt s e x).Sound := by
  unfold State.setExt
  try dsimp only
  with_reducible repeat' first
    | assumption | apply State.modMedia_sound | intro _ | dsimp only | simp only [Sound.mk_eq] | apply Sound.at

theorem State.setNandBlk_sound {s : State} (b : Nat) (x : NandBlk) (hs : s.Sound) :
    (State.setNandBlk s b x).Sound := by
  unfold State.setNandBlk
  try dsimp only
  with_reducible repeat' first
    | assumption | apply State.modMedia_sound | intro _ | dsimp only | simp only [Sound.mk_eq] | apply Sound.at

theorem State.releaseBlock_sound {s : State} (x : Extent) (hs : s.Sound) :
    (State.releaseBlock s x).Sound := by
  unfold State.releaseBlock
  try dsimp only
  with_reducible repeat' first
    | assumption | apply State.setNandBlk_sound | apply Sound.foldl | intro _ | split | dsimp only
    | simp only [Sound.mk_eq] | apply Sound.at

theorem State.eraseNand_sound {s : State} (b : Nat) (hs : s.Sound) :
    (State.eraseNand s b).Sound := by
  unfold State.eraseNand
  try dsimp only
  with_reducible repeat' first
    | assumption | apply State.setNandBlk_sound | split | dsimp only | simp only [Sound.mk_eq] | apply Sound.at

theorem State.relocate_sound {s : State} (worn : Bool) (e : Nat) (hs : s.Sound) :
    (State.relocate s worn e).Sound := by
  unfold State.relocate
  try dsimp only
  with_reducible repeat' first
    | assumption | apply State.setExt_sound | apply State.eraseNand_sound | split | dsimp only
    | simp only [Sound.mk_eq] | apply Sound.at

theorem State.switchExt_sound {s : State} (e : Nat) (hs : s.Sound) :
    (State.switchExt s e).Sound := by
  unfold State.switchExt
  try dsimp only
  with_reducible repeat' first
    | assumption | apply State.setExt_sound | apply State.releaseBlock_sound | split | dsimp only
    | simp only [Sound.mk_eq] | apply Sound.at

theorem State.openLog_sound {s : State} (hs : s.Sound) :
    (State.openLog s).2.Sound := by
  unfold State.openLog
  try dsimp only
  with_reducible repeat' first
    | assumption | apply State.modMedia_sound | apply State.eraseNand_sound | intro _ | split | dsimp only
    | simp only [Sound.mk_eq] | apply Sound.at

theorem State.ftlWrite_sound {s : State} (tile : Nat) (hs : s.Sound) :
    (State.ftlWrite s tile).Sound := by
  unfold State.ftlWrite
  try dsimp only
  with_reducible repeat' first
    | assumption | apply State.setExt_sound | apply State.relocate_sound | apply State.openLog_sound | intro _ | split
    | dsimp only | simp only [Sound.mk_eq] | apply Sound.at

theorem State.ftlRead_sound {s : State} (tile : Nat) (hs : s.Sound) :
    (State.ftlRead s tile).Sound := by
  unfold State.ftlRead
  try dsimp only
  with_reducible repeat' first
    | assumption | apply State.setNandBlk_sound | split | dsimp only | simp only [Sound.mk_eq] | apply Sound.at

theorem State.writePhys_sound {s : State} (a : Nat) (bs : List Byte) (hs : s.Sound) :
    (State.writePhys s a bs).Sound := by
  unfold State.writePhys
  try dsimp only
  with_reducible repeat' first
    | assumption | apply State.putMem_sound | apply State.ftlWrite_sound | apply Sound.foldl | intro _ | split
    | dsimp only

theorem State.writeNoted_sound {s : State} (a : Nat) (bs : List Byte) (cls : Nat) (stream : Option Nat)
    (hs : s.Sound) :
    (State.writeNoted s a bs cls stream).Sound := by
  unfold State.writeNoted
  with_reducible repeat' first
    | assumption | apply State.noteTier_sound | apply State.writePhys_sound

theorem State.setObj_sound {s : State} (o : Nat) (x : Obj) (hs : s.Sound) :
    (State.setObj s o x).Sound := by
  unfold State.setObj
  try dsimp only
  with_reducible repeat' first
    | assumption | apply State.modMig_sound | intro _ | dsimp only | simp only [Sound.mk_eq] | apply Sound.at

theorem State.setTile_sound {s : State} (i : Nat) (x : Tile) (hs : s.Sound) :
    (State.setTile s i x).Sound := by
  unfold State.setTile
  try dsimp only
  with_reducible repeat' first
    | assumption | apply State.modMig_sound | intro _ | dsimp only | simp only [Sound.mk_eq] | apply Sound.at

theorem State.noteRead_sound {s : State} (p n : Nat) (hs : s.Sound) :
    (State.noteRead s p n).Sound := by
  unfold State.noteRead
  try dsimp only
  with_reducible repeat' first
    | assumption | apply State.ftlRead_sound | apply Sound.foldl | intro _ | split | dsimp only

theorem State.noteUnit_sound {s : State} (a n : Nat) (stream : Option Nat) (hs : s.Sound) :
    (State.noteUnit s a n stream).Sound := by
  unfold State.noteUnit
  try dsimp only
  with_reducible repeat' first
    | assumption | apply State.noteTier_sound | apply State.noteRead_sound | split | dsimp only
    | simp only [Sound.mk_eq] | apply Sound.at

end Sys2Proof.Machine
end

