-- ==== Sys2Proof/Laws/SoundStreams.lean ====
section
/-!
SUPPORT. The invariant of Safety.lean over the stream unit, unit power, the margin SRAM and the store plane.
-/
namespace Sys2Proof.Machine

/-! ## Streams.lean -/

theorem popHead_sound (n : Nat) {s : State} (hs : s.Sound) :
    (popHead n s).Sound := by
  unfold popHead
  try dsimp only
  with_reducible repeat' first
    | assumption | apply State.setStream_sound | apply State.send_sound | intro _ | split | dsimp only
    | simp only [Sound.mk_eq] | apply Sound.at

theorem closeHead_sound (n : Nat) (skipped : Bool) {s : State} (hs : s.Sound) :
    (closeHead n skipped s).Sound := by
  unfold closeHead
  try dsimp only
  with_reducible repeat' first
    | assumption | apply State.count_sound | apply State.modStream_sound | apply popHead_sound | intro _ | split
    | dsimp only | simp only [Sound.mk_eq] | apply Sound.at

theorem passHeads_sound (n k : Nat) {s : State} (h : s.Sound) : (passHeads n k s).Sound := by
  induction k generalizing s with
  | zero => exact h
  | succ k ih =>
    unfold passHeads
    split
    · exact ih (closeHead_sound _ _ h)
    · exact h

theorem takeHead_sound (n : Nat) {s : State} (hs : s.Sound) :
    (takeHead n s).Sound := by
  unfold takeHead
  try dsimp only
  with_reducible repeat' first
    | assumption | apply State.modStream_sound | apply State.schedule_sound | apply popHead_sound | intro _
    | dsimp only | simp only [Sound.mk_eq] | apply Sound.at

theorem opJobTake_sound (c : SlotCtx) (stream : BitVec 4) (arg : BitVec 14) {_pre : State} {s : State}
    (h__pre : _pre.Sound) (h_s : s.Sound) :
    (opJobTake c stream arg _pre s).Sound := by
  unfold opJobTake
  try dsimp only
  with_reducible repeat' first
    | assumption | apply State.schedule_sound | apply State.signal_sound | apply State.slotFault_sound
    | apply State.readRing_sound | apply passHeads_sound | apply takeHead_sound | split | dsimp only

theorem execJobTake_sound (c : SlotCtx) (stream : BitVec 4) (arg : BitVec 14) {s : State} (hs : s.Sound) :
    Result.Sound (execJobTake c stream arg s) := by
  unfold execJobTake
  with_reducible repeat' first
    | exact trivial | apply Result.sound_next | assumption | apply slotCmd_sound | apply opJobTake_sound

theorem opJobDone_sound (c : SlotCtx) (stream : BitVec 4) (reg : BitVec 5) {pre : State} {s : State}
    (h_pre : pre.Sound) (h_s : s.Sound) :
    (opJobDone c stream reg pre s).Sound := by
  unfold opJobDone
  try dsimp only
  with_reducible repeat' first
    | assumption | apply State.modStream_sound | apply State.slotFault_sound | intro _ | split | dsimp only
    | simp only [Sound.mk_eq] | apply Sound.at

theorem execJobDone_sound (c : SlotCtx) (stream : BitVec 4) (reg : BitVec 5) {s : State} (hs : s.Sound) :
    Result.Sound (execJobDone c stream reg s) := by
  unfold execJobDone
  try dsimp only
  with_reducible repeat' first
    | exact trivial | apply Result.sound_next | assumption | apply slotCmd_sound | apply beginStall_sound
    | apply opJobDone_sound | split | dsimp only

theorem opRingPush_sound (c : SlotCtx) (stream : BitVec 4) (reg : BitVec 5) {pre : State} {s : State}
    (h_pre : pre.Sound) (h_s : s.Sound) :
    (opRingPush c stream reg pre s).Sound := by
  unfold opRingPush
  try dsimp only
  with_reducible repeat' first
    | assumption | apply State.modStream_sound | apply State.raiseExc_sound | apply State.slotFault_sound | intro _
    | split | dsimp only | simp only [Sound.mk_eq] | apply Sound.at

theorem execRingPush_sound (c : SlotCtx) (stream : BitVec 4) (reg : BitVec 5) {s : State} (hs : s.Sound) :
    Result.Sound (execRingPush c stream reg s) := by
  unfold execRingPush
  try dsimp only
  with_reducible repeat' first
    | exact trivial | apply Result.sound_next | assumption | apply slotCmd_sound | apply beginStall_sound
    | apply opRingPush_sound | split | dsimp only

theorem detach_sound (n k lost : Nat) {s : State} (hs : s.Sound) :
    (detach n k lost s).Sound := by
  unfold detach
  try dsimp only
  with_reducible repeat' first
    | assumption | apply State.addCnt_sound | apply State.count_sound | apply State.modStream_sound | intro _
    | dsimp only

theorem fenceRecv_sound (n k : Nat) {s : State} (hs : s.Sound) :
    (fenceRecv n k s).Sound := by
  unfold fenceRecv
  try dsimp only
  with_reducible repeat' first
    | assumption | apply State.addCnt_sound | apply State.modStream_sound | intro _ | dsimp only

theorem lagCheck_sound (n : Nat) {s : State} (hs : s.Sound) :
    (lagCheck n s).Sound := by
  unfold lagCheck
  try dsimp only
  with_reducible repeat' first
    | assumption | apply detach_sound | apply Sound.foldl | intro _ | split | dsimp only

theorem place_sound (n : Nat) (data : List Byte) (stream : Option Nat) {s : State} (hs : s.Sound) :
    (place n data stream s).Sound := by
  unfold place
  try dsimp only
  with_reducible repeat' first
    | assumption | apply State.addCnt_sound | apply State.setStream_sound | apply State.writeNoted_sound
    | apply lagCheck_sound | apply Sound.foldl | intro _ | split | dsimp only | simp only [Sound.mk_eq]
    | apply Sound.at

theorem execRecordPlaced_sound (stream : BitVec 4) {s : State} (hs : s.Sound) :
    Result.Sound (execRecordPlaced stream s) := by
  unfold execRecordPlaced
  try dsimp only
  with_reducible repeat' first
    | exact trivial | apply Result.sound_next | assumption | apply State.modStream_sound | apply State.toCycle_sound
    | apply place_sound | intro _ | split | dsimp only | simp only [Sound.mk_eq] | apply Sound.at

theorem enqueue_sound (n cls : Nat) (data : List Byte) {s : State} (hs : s.Sound) :
    (enqueue n cls data s).Sound := by
  unfold enqueue
  try dsimp only
  with_reducible repeat' first
    | assumption | apply State.setStream_sound | apply State.writeNoted_sound | dsimp only | simp only [Sound.mk_eq]
    | apply Sound.at

theorem received_sound (n k : Nat) {s : State} (hs : s.Sound) :
    (received n k s).Sound := by
  unfold received
  try dsimp only
  with_reducible repeat' first
    | assumption | apply State.modStream_sound | intro _ | dsimp only | simp only [Sound.mk_eq] | apply Sound.at

theorem deliver_sound (n k : Nat) (p : Placed) (at' : Nat) {s : State} (hs : s.Sound) :
    (deliver n k p at' s).Sound := by
  unfold deliver
  try dsimp only
  with_reducible repeat' first
    | assumption | apply State.putHost_sound | apply State.modStream_sound | apply State.toCycle_sound
    | apply State.noteTier_sound | apply State.modFar_sound | apply State.send_sound | apply enqueue_sound | intro _
    | split | dsimp only | simp only [Sound.mk_eq] | apply Sound.at

theorem deliverNext_sound (n k : Nat) {s : State} (hs : s.Sound) :
    (deliverNext n k s).Sound := by
  unfold deliverNext
  try dsimp only
  with_reducible repeat' first
    | assumption | apply State.toCycle_sound | apply deliver_sound | split | dsimp only | simp only [Sound.mk_eq]
    | apply Sound.at

theorem execRecordDelivery_sound (stream : BitVec 4) (recv : BitVec 2) {s : State} (hs : s.Sound) :
    Result.Sound (execRecordDelivery stream recv s) := by
  unfold execRecordDelivery
  with_reducible repeat' first
    | exact trivial | apply Result.sound_next | assumption | apply deliverNext_sound

theorem deliverWaiting_sound {s : State} (hs : s.Sound) :
    (deliverWaiting s).Sound := by
  unfold deliverWaiting
  try dsimp only
  with_reducible repeat' first
    | assumption | apply deliverNext_sound | apply Sound.foldl | intro _ | split | dsimp only

theorem execReceiverRejoin_sound (stream : BitVec 4) (recv : BitVec 2) {s : State} (hs : s.Sound) :
    Result.Sound (execReceiverRejoin stream recv s) := by
  unfold execReceiverRejoin
  try dsimp only
  with_reducible repeat' first
    | exact trivial | apply Result.sound_next | assumption | apply State.modStream_sound | intro _ | split
    | dsimp only | simp only [Sound.mk_eq] | apply Sound.at

theorem recvEntryWrite_sound (n k v : Nat) {s : State} (h : s.Sound) :
    ∀ t, recvEntryWrite n k v s = some t → t.Sound := by
  intro t ht
  unfold recvEntryWrite at ht
  dsimp only at ht
  repeat' (split at ht)
  all_goals cases ht
  all_goals exact State.modStream_sound _ _ h

theorem hostHeadOk_sound (n k v : Nat) {s : State} (h : s.Sound) : ∀ t, hostHeadOk n k v s = some t → t.Sound := by
  intro t ht
  unfold hostHeadOk at ht
  dsimp only at ht
  split at ht
  · split at ht
    · cases ht; exact State.modStream_sound _ _ h
    · cases ht
  · split at ht
    · exact recvEntryWrite_sound _ _ _ h t ht
    · cases ht

theorem execReceiverEntryWrite_sound (m : Master) (stream : BitVec 4) (recv : BitVec 2) (value : BitVec 256)
    {s : State} (hs : s.Sound) :
    Result.Sound (execReceiverEntryWrite m stream recv value s) := by
  unfold execReceiverEntryWrite
  with_reducible repeat' first
    | exact trivial | apply Result.sound_next | assumption | apply pathCmd_sound
    | refine recvEntryWrite_sound _ _ _ ?_ _ (by assumption) | apply some_sound | apply recvEntryWrite_sound

theorem execHostHeadWrite_sound (m : Master) (stream : BitVec 4) (recv : BitVec 2) (value : BitVec 16) {s : State}
    (hs : s.Sound) :
    Result.Sound (execHostHeadWrite m stream recv value s) := by
  unfold execHostHeadWrite
  with_reducible repeat' first
    | exact trivial | apply Result.sound_next | assumption | apply pathCmd_sound
    | refine hostHeadOk_sound _ _ _ ?_ _ (by assumption) | apply some_sound | apply hostHeadOk_sound

theorem tailWrite_sound (n v : Nat) {s : State} (h : s.Sound) : ∀ t, tailWrite n v s = some t → t.Sound := by
  intro t ht
  unfold tailWrite at ht
  dsimp only at ht
  split at ht
  · cases ht; exact State.setStream_sound _ _ h
  · cases ht

theorem execInboundTailWrite_sound (m : Master) (stream : BitVec 4) (tail : BitVec 16) {s : State} (hs : s.Sound) :
    Result.Sound (execInboundTailWrite m stream tail s) := by
  unfold execInboundTailWrite
  with_reducible repeat' first
    | exact trivial | apply Result.sound_next | assumption | apply pathCmd_sound
    | refine tailWrite_sound _ _ ?_ _ (by assumption) | apply some_sound | apply tailWrite_sound

theorem execJobRecordRead_sound (stream : BitVec 4) (index : BitVec 16) {s : State} (hs : s.Sound) :
    Result.Sound (execJobRecordRead stream index s) := by
  unfold execJobRecordRead
  try dsimp only
  with_reducible repeat' first
    | exact trivial | apply Result.sound_next | assumption | apply readRecord_sound | split | dsimp only

theorem enableStream_sound (n : Nat) {s : State} (hs : s.Sound) :
    (enableStream n s).Sound := by
  unfold enableStream
  try dsimp only
  with_reducible repeat' first
    | assumption | apply State.modStream_sound | intro _ | dsimp only | simp only [Sound.mk_eq] | apply Sound.at

theorem disableStream_sound (n : Nat) {s : State} (hs : s.Sound) :
    (disableStream n s).Sound := by
  unfold disableStream
  try dsimp only
  with_reducible repeat' first
    | assumption | apply State.modStream_sound | apply State.modFar_sound | apply State.send_sound | apply Sound.foldl
    | intro _ | split | dsimp only | simp only [Sound.mk_eq] | apply Sound.at

theorem applyEnable_sound (v : BitVec 16) {s : State} (hs : s.Sound) :
    (applyEnable v s).Sound := by
  unfold applyEnable
  try dsimp only
  with_reducible repeat' first
    | assumption | apply enableStream_sound | apply disableStream_sound | apply Sound.foldl | intro _ | split
    | dsimp only

theorem wStreamEnable_sound (m : Master) (v : BitVec 16) {s : State} (hs : s.Sound) :
    (wStreamEnable m v s).2.Sound := by
  unfold wStreamEnable
  try dsimp only
  with_reducible repeat' first
    | assumption | apply State.send_sound | apply applyEnable_sound | apply Sound.foldl | intro _ | split | dsimp only
    | simp only [Sound.mk_eq] | apply Sound.at

theorem execStreamEnableSet_sound (m : Master) (value : BitVec 16) {s : State} (hs : s.Sound) :
    Result.Sound (execStreamEnableSet m value s) := by
  unfold execStreamEnableSet
  with_reducible repeat' first
    | exact trivial | apply Result.sound_next | assumption | apply entryWrite_sound | apply wStreamEnable_sound

theorem execStreamEnableClear_sound (m : Master) (value : BitVec 16) {s : State} (hs : s.Sound) :
    Result.Sound (execStreamEnableClear m value s) := by
  unfold execStreamEnableClear
  with_reducible repeat' first
    | exact trivial | apply Result.sound_next | assumption | apply entryWrite_sound | apply wStreamEnable_sound

theorem refuseEnable_sound (w : EnableWait) {s : State} (hs : s.Sound) :
    (refuseEnable w s).Sound := by
  unfold refuseEnable
  try dsimp only
  with_reducible repeat' first
    | assumption | apply State.modFar_sound | apply State.send_sound | apply State.answerLate_sound
    | apply Sound.foldl | intro _ | dsimp only | simp only [Sound.mk_eq] | apply Sound.at

theorem ringBindTimeout_sound (n : Nat) {s : State} (hs : s.Sound) :
    (ringBindTimeout n s).Sound := by
  unfold ringBindTimeout
  try dsimp only
  with_reducible repeat' first
    | assumption | apply State.toTick_sound | apply refuseEnable_sound | intro _ | split | dsimp only
    | simp only [Sound.mk_eq] | apply Sound.at

theorem missDeadline_sound (n : Nat) (queued : Bool) (j : Job) {s : State} (hs : s.Sound) :
    (missDeadline n queued j s).Sound := by
  unfold missDeadline
  try dsimp only
  with_reducible repeat' first
    | assumption | apply State.count_sound | apply State.modStream_sound | apply State.signal_sound | intro _ | split
    | dsimp only | simp only [Sound.mk_eq] | apply Sound.at | apply Memory.wf_puts | apply Memory.wf_clear
    | apply Memory.wf_filter | apply twf_tset | apply capped_tset | apply rest_tset | apply State.Sound.mem
    | apply State.Sound.host | apply State.Sound.sync | apply State.Sound.cnt | apply State.Sound.capped
    | apply State.Sound.rest | exact twf_nil | omega | (refine SoundAt.mk ?_ ?_ ?_ ?_ ?_ ?_)

theorem execDeadlineMiss_sound (stream : BitVec 4) (jobNum : Word) {s : State} (hs : s.Sound) :
    Result.Sound (execDeadlineMiss stream jobNum s) := by
  unfold execDeadlineMiss
  try dsimp only
  with_reducible repeat' first
    | exact trivial | apply Result.sound_next | assumption | apply State.toTick_sound | apply State.readRing_sound
    | apply missDeadline_sound | split | dsimp only | simp only [Sound.mk_eq] | apply Sound.at

theorem execLateJobSkip_sound (stream : BitVec 4) {s : State} (hs : s.Sound) :
    Result.Sound (execLateJobSkip stream s) := by
  unfold execLateJobSkip
  try dsimp only
  with_reducible repeat' first
    | exact trivial | apply Result.sound_next | assumption | apply State.toTick_sound | apply State.readRing_sound
    | apply closeHead_sound | split | dsimp only

theorem execMarkerClosing_sound (stream : BitVec 4) {s : State} (hs : s.Sound) :
    Result.Sound (execMarkerClosing stream s) := by
  unfold execMarkerClosing
  try dsimp only
  with_reducible repeat' first
    | exact trivial | apply Result.sound_next | assumption | apply State.readRing_sound | apply closeHead_sound
    | split | dsimp only

theorem writeStatus_sound (j : Job) {s : State} (hs : s.Sound) :
    (writeStatus j s).Sound := by
  unfold writeStatus
  try dsimp only
  with_reducible repeat' first
    | assumption | apply State.putHost_sound | apply State.count_sound | apply State.writeNoted_sound | split
    | dsimp only

theorem completeJob_sound (n : Nat) (j : Job) (rest : List Job) {s : State} (hs : s.Sound) :
    (completeJob n j rest s).Sound := by
  unfold completeJob
  try dsimp only
  with_reducible repeat' first
    | assumption | apply State.modStream_sound | apply State.signal_sound | apply State.sendMsix_sound
    | apply writeStatus_sound | intro _ | split | dsimp only | simp only [Sound.mk_eq] | apply Sound.at

theorem missFirst_sound (n : Nat) (j : Job) {s : State} (hs : s.Sound) :
    (missFirst n j s).Sound := by
  unfold missFirst
  try dsimp only
  with_reducible repeat' first
    | assumption | apply missDeadline_sound | split | dsimp only

theorem execJobComplete_sound (stream : BitVec 4) {s : State} (hs : s.Sound) :
    Result.Sound (execJobComplete stream s) := by
  unfold execJobComplete
  try dsimp only
  with_reducible repeat' first
    | exact trivial | apply Result.sound_next | assumption | apply State.toCycle_sound | apply completeJob_sound
    | apply missFirst_sound | split | dsimp only | simp only [Sound.mk_eq] | apply Sound.at

theorem endWait_sound (detail : Nat) {s : State} (hs : s.Sound) :
    (endWait detail s).Sound := by
  unfold endWait
  try dsimp only
  with_reducible repeat' first
    | assumption | apply State.modSeq_sound | apply State.modStream_sound | apply State.slotFault_sound
    | apply Sound.foldl | intro _ | dsimp only | simp only [Sound.mk_eq] | apply Sound.at

theorem State.sendProbe_sound {s : State} (r id high : Nat) (hs : s.Sound) :
    (State.sendProbe s r id high).Sound := by
  unfold State.sendProbe
  try dsimp only
  with_reducible repeat' first
    | assumption | apply State.send_sound | split | dsimp only

theorem execDetectWindowExpiry_sound {s : State} (hs : s.Sound) :
    Result.Sound (execDetectWindowExpiry s) := by
  unfold execDetectWindowExpiry
  try dsimp only
  with_reducible repeat' first
    | exact trivial | apply Result.sound_next | assumption | apply State.modSeq_sound | apply State.toTick_sound
    | apply endWait_sound | apply State.sendProbe_sound | apply Sound.foldl | intro _ | split | dsimp only
    | simp only [Sound.mk_eq] | apply Sound.at

theorem execWaitLimit_sound {s : State} (hs : s.Sound) :
    Result.Sound (execWaitLimit s) := by
  unfold execWaitLimit
  try dsimp only
  with_reducible repeat' first
    | exact trivial | apply Result.sound_next | assumption | apply State.toTick_sound | apply endWait_sound | intro _
    | split | dsimp only | simp only [Sound.mk_eq] | apply Sound.at

theorem execTierGrant_sound (tier : TierCtl) {s0 : State} (hs : s0.Sound) :
    Result.Sound (execTierGrant tier s0) := by
  unfold execTierGrant
  try dsimp only
  with_reducible repeat' first
    | exact trivial | apply Result.sound_next | assumption | apply State.addCnt_sound | apply State.setTierQ_sound
    | apply State.readRings_sound | intro _ | split | dsimp only | simp only [Sound.mk_eq] | apply Sound.at

theorem execRequestStarved_sound (tier : TierCtl) (request : Nat) {s : State} (hs : s.Sound) :
    Result.Sound (execRequestStarved tier request s) := by
  unfold execRequestStarved
  try dsimp only
  with_reducible repeat' first
    | exact trivial | apply Result.sound_next | assumption | apply State.toTick_sound | apply State.setTierQ_sound
    | intro _ | split | dsimp only | simp only [Sound.mk_eq] | apply Sound.at

/-! ## Units.lean -/

theorem State.loseUnit_sound {s : State} (k : UnitKind) (i : Nat) (hs : s.Sound) :
    (State.loseUnit s k i).Sound := by
  unfold State.loseUnit
  try dsimp only
  with_reducible repeat' first
    | assumption | apply State.modEng_sound | intro _ | split | dsimp only | simp only [Sound.mk_eq] | apply Sound.at

theorem State.setExpanders_sound {s : State} (hs : s.Sound) :
    (State.setExpanders s).Sound := by
  unfold State.setExpanders
  try dsimp only
  with_reducible repeat' first
    | assumption | apply State.modEng_sound | apply State.setDom_sound | intro _ | split | dsimp only
    | simp only [Sound.mk_eq] | apply Sound.at

theorem State.unitOff_sound {s : State} (k : UnitKind) (i : Nat) (hs : s.Sound) :
    (State.unitOff s k i).Sound := by
  unfold State.unitOff
  try dsimp only
  with_reducible repeat' first
    | assumption | apply State.modEng_sound | apply State.setDom_sound | apply State.loseUnit_sound
    | apply State.setExpanders_sound | intro _ | dsimp only | simp only [Sound.mk_eq] | apply Sound.at

theorem State.unitWake_sound {s : State} (k : UnitKind) (i : Nat) (hs : s.Sound) :
    (State.unitWake s k i).Sound := by
  unfold State.unitWake
  with_reducible repeat' first
    | assumption | apply State.setDom_sound | apply State.setExpanders_sound

theorem State.unitOn_sound {s : State} (k : UnitKind) (i : Nat) (hs : s.Sound) :
    (State.unitOn s k i).Sound := by
  unfold State.unitOn
  try dsimp only
  with_reducible repeat' first
    | assumption | apply State.modEng_sound | apply State.setDom_sound | apply State.loseUnit_sound
    | apply State.setExpanders_sound | intro _ | dsimp only | simp only [Sound.mk_eq] | apply Sound.at

theorem State.applyUnit_sound {s : State} (k : UnitKind) (i : Nat) (hs : s.Sound) :
    (State.applyUnit s k i).Sound := by
  unfold State.applyUnit
  try dsimp only
  with_reducible repeat' first
    | assumption | apply State.modEng_sound | apply State.unitWake_sound | intro _ | split | dsimp only
    | simp only [Sound.mk_eq] | apply Sound.at

theorem State.applyKind_sound {s : State} (k : UnitKind) (hs : s.Sound) :
    (State.applyKind s k).Sound := by
  unfold State.applyKind
  try dsimp only
  with_reducible repeat' first
    | assumption | apply State.applyUnit_sound | apply Sound.foldl | intro _ | dsimp only

theorem State.applyUnits_sound {s : State} (hs : s.Sound) :
    (State.applyUnits s).Sound := by
  unfold State.applyUnits
  with_reducible repeat' first
    | assumption | apply State.applyKind_sound

theorem wUnitPower_sound (k : UnitKind) (v : Nat) {s : State} (hs : s.Sound) :
    (wUnitPower k v s).2.Sound := by
  unfold wUnitPower
  try dsimp only
  with_reducible repeat' first
    | assumption | apply State.setEnt_sound | apply State.applyKind_sound | split | dsimp only

theorem execUnitPowerClear_sound (m : Master) (kind : UnitKind) (value : BitVec 8) {s : State} (hs : s.Sound) :
    Result.Sound (execUnitPowerClear m kind value s) := by
  unfold execUnitPowerClear
  with_reducible repeat' first
    | exact trivial | apply Result.sound_next | assumption | apply entryWrite_sound | apply wUnitPower_sound

theorem execUnitPowerSet_sound (m : Master) (kind : UnitKind) (value : BitVec 8) {s : State} (hs : s.Sound) :
    Result.Sound (execUnitPowerSet m kind value s) := by
  unfold execUnitPowerSet
  with_reducible repeat' first
    | exact trivial | apply Result.sound_next | assumption | apply entryWrite_sound | apply wUnitPower_sound

theorem execDomainOff_sound (domain : Nat) {s : State} (hs : s.Sound) :
    Result.Sound (execDomainOff domain s) := by
  unfold execDomainOff
  try dsimp only
  with_reducible repeat' first
    | exact trivial | apply Result.sound_next | assumption | apply State.passCycles_sound | apply State.unitOff_sound
    | split | dsimp only | simp only [Sound.mk_eq] | apply Sound.at

theorem domainOn_sound (d : Nat) {s : State} (hs : s.Sound) :
    (domainOn d s).Sound := by
  unfold domainOn
  try dsimp only
  with_reducible repeat' first
    | assumption | apply State.setDom_sound | apply State.trainPort_sound | apply State.unitOn_sound | split
    | dsimp only | simp only [Sound.mk_eq] | apply Sound.at

theorem State.wakeNext_sound {s : State} (hs : s.Sound) :
    (State.wakeNext s).Sound := by
  unfold State.wakeNext
  try dsimp only
  with_reducible repeat' first
    | assumption | apply State.setDom_sound | apply Sound.foldl | intro _ | split | dsimp only
    | simp only [Sound.mk_eq] | apply Sound.at

theorem execDomainWakeEnd_sound (domain : Nat) {s : State} (hs : s.Sound) :
    Result.Sound (execDomainWakeEnd domain s) := by
  unfold execDomainWakeEnd
  try dsimp only
  with_reducible repeat' first
    | exact trivial | apply Result.sound_next | assumption | apply domainOn_sound | apply State.wakeNext_sound | split
    | dsimp only

/-! ## Margins.lean -/

theorem State.modOp_sound {s : State} (id : Nat) (f : PhaseOp → PhaseOp) (hs : s.Sound) :
    (State.modOp s id f).Sound := by
  unfold State.modOp
  try dsimp only
  with_reducible repeat' first
    | assumption | apply State.modDisp_sound | intro _ | dsimp only | simp only [Sound.mk_eq] | apply Sound.at

theorem State.holdOp_sound {s : State} (id : Nat) (hs : s.Sound) :
    (State.holdOp s id).Sound := by
  unfold State.holdOp
  try dsimp only
  with_reducible repeat' first
    | assumption | apply State.count_sound | apply State.modOp_sound | intro _ | split | dsimp only
    | simp only [Sound.mk_eq] | apply Sound.at

theorem State.unholdOp_sound {s : State} (id : Nat) (hs : s.Sound) :
    (State.unholdOp s id).Sound := by
  unfold State.unholdOp
  try dsimp only
  with_reducible repeat' first
    | assumption | apply State.noteHold_sound | apply State.modOp_sound | intro _ | split | dsimp only
    | simp only [Sound.mk_eq] | apply Sound.at

theorem State.countLate_sound {s : State} (o : PhaseOp) (k : Nat) (hs : s.Sound) :
    (State.countLate s o k).Sound := by
  unfold State.countLate
  try dsimp only
  with_reducible repeat' first
    | assumption | apply State.countCycles_sound | split | dsimp only | simp only [Sound.mk_eq] | apply Sound.at

theorem endOpWait_sound (id : Nat) {s : State} (hs : s.Sound) :
    (endOpWait id s).Sound := by
  unfold endOpWait
  try dsimp only
  with_reducible repeat' first
    | assumption | apply State.modOp_sound | apply State.unholdOp_sound | apply State.countLate_sound | intro _
    | split | dsimp only | simp only [Sound.mk_eq] | apply Sound.at

theorem State.endWaits_sound {s : State} (hs : s.Sound) :
    (State.endWaits s).Sound := by
  unfold State.endWaits
  try dsimp only
  with_reducible repeat' first
    | assumption | apply endOpWait_sound | apply Sound.foldl | intro _ | dsimp only

theorem State.setMset_sound {s : State} (n g which : Nat) (v : BitVec 64) (hs : s.Sound) :
    (State.setMset s n g which v).Sound := by
  unfold State.setMset
  try dsimp only
  with_reducible repeat' first
    | assumption | apply State.modArr_sound | intro _ | dsimp only | simp only [Sound.mk_eq] | apply Sound.at

theorem State.noteWidened_sound {s : State} (n : Nat) (hs : s.Sound) :
    (State.noteWidened s n).Sound := by
  unfold State.noteWidened
  try dsimp only
  with_reducible repeat' first
    | assumption | apply State.count_sound | apply State.modArray_sound | intro _ | split | dsimp only
    | simp only [Sound.mk_eq] | apply Sound.at

theorem State.noteBank_sound {s : State} (b : Nat) (hs : s.Sound) :
    (State.noteBank s b).Sound := by
  unfold State.noteBank
  try dsimp only
  with_reducible repeat' first
    | assumption | apply State.noteWidened_sound | apply Sound.foldl | intro _ | dsimp only

theorem State.clearCells_sound {s : State} (n : Nat) (hs : s.Sound) :
    (State.clearCells s n).Sound := by
  unfold State.clearCells
  try dsimp only
  with_reducible repeat' first
    | assumption | apply State.modArr_sound | intro _ | dsimp only | simp only [Sound.mk_eq] | apply Sound.at

theorem State.setCells_sound {s : State} (lo : Nat) (cs : List (BitVec 4)) (hs : s.Sound) :
    (State.setCells s lo cs).Sound := by
  unfold State.setCells
  try dsimp only
  with_reducible repeat' first
    | assumption | apply State.modArr_sound | intro _ | split | dsimp only | simp only [Sound.mk_eq] | apply Sound.at

theorem State.setRefs_sound {s : State} (n r : Nat) (hs : s.Sound) :
    (State.setRefs s n r).Sound := by
  unfold State.setRefs
  try dsimp only
  with_reducible repeat' first
    | assumption | apply State.modArr_sound | intro _ | dsimp only | simp only [Sound.mk_eq] | apply Sound.at

theorem State.dropMove_sound {s : State} (id : Nat) (hs : s.Sound) :
    (State.dropMove s id).Sound := by
  unfold State.dropMove
  try dsimp only
  with_reducible repeat' first
    | assumption | apply State.modArr_sound | intro _ | dsimp only | simp only [Sound.mk_eq] | apply Sound.at

theorem State.oweErase_sound {s : State} (n : Nat) (hs : s.Sound) :
    (State.oweErase s n).Sound := by
  unfold State.oweErase
  try dsimp only
  with_reducible repeat' first
    | assumption | apply State.modArray_sound | intro _ | split | dsimp only | simp only [Sound.mk_eq]
    | apply Sound.at

theorem State.markAw_sound {s : State} (id addr : Nat) (st : AwTarget) (hs : s.Sound) :
    (State.markAw s id addr st).Sound := by
  unfold State.markAw
  try dsimp only
  with_reducible repeat' first
    | assumption | intro _ | dsimp only | simp only [Sound.mk_eq] | apply Sound.at

theorem handoverOne_sound (kind : MoveKind) (addr mirror : Nat) {s : State} (hs : s.Sound) :
    (handoverOne kind addr mirror s).Sound := by
  unfold handoverOne
  try dsimp only
  with_reducible repeat' first
    | assumption | apply State.addCnt_sound | apply State.modArray_sound | apply State.setMap_sound
    | apply State.markAw_sound | intro _ | split | dsimp only | simp only [Sound.mk_eq] | apply Sound.at

theorem State.doHandover_sound {s : State} (h : HandoverSet) (hs : s.Sound) :
    (State.doHandover s h).Sound := by
  unfold State.doHandover
  try dsimp only
  with_reducible repeat' first
    | assumption | apply State.endWaits_sound | apply State.dropMove_sound | apply handoverOne_sound
    | apply Sound.foldl | intro _ | dsimp only

theorem State.abandon_sound {s : State} (h : HandoverSet) (hs : s.Sound) :
    (State.abandon s h).Sound := by
  unfold State.abandon
  try dsimp only
  with_reducible repeat' first
    | assumption | apply State.modArr_sound | apply State.setMap_sound | apply State.dropMove_sound
    | apply State.oweErase_sound | apply State.markAw_sound | apply Sound.foldl | intro _ | split | dsimp only
    | simp only [Sound.mk_eq] | apply Sound.at

theorem State.makeUnavailable_sound {s : State} (addr : Nat) (hs : s.Sound) :
    (State.makeUnavailable s addr).Sound := by
  unfold State.makeUnavailable
  with_reducible repeat' first
    | assumption | apply State.setMap_sound

theorem State.dropRebuild_sound {s : State} (addr : Nat) (hs : s.Sound) :
    (State.dropRebuild s addr).Sound := by
  unfold State.dropRebuild
  try dsimp only
  with_reducible repeat' first
    | assumption | apply State.modArr_sound | intro _ | dsimp only | simp only [Sound.mk_eq] | apply Sound.at

theorem State.releaseRebuild_sound {s : State} (addr : Nat) (hs : s.Sound) :
    (State.releaseRebuild s addr).Sound := by
  unfold State.releaseRebuild
  try dsimp only
  with_reducible repeat' first
    | assumption | apply State.oweErase_sound | apply State.dropRebuild_sound | split | dsimp only
    | simp only [Sound.mk_eq] | apply Sound.at

theorem State.startProgram_sound {s : State} (n : Nat) (tile : List (BitVec 4)) (hs : s.Sound) :
    (State.startProgram s n tile).Sound := by
  unfold State.startProgram
  try dsimp only
  with_reducible repeat' first
    | assumption | apply State.addCnt_sound | apply State.modArray_sound | intro _ | split | dsimp only
    | simp only [Sound.mk_eq] | apply Sound.at

theorem State.grantHv_sound {s : State} (hs : s.Sound) :
    (State.grantHv s).Sound := by
  unfold State.grantHv
  try dsimp only
  with_reducible repeat' first
    | assumption | apply State.modArr_sound | apply Sound.foldl | intro _ | split | dsimp only
    | simp only [Sound.mk_eq] | apply Sound.at

theorem State.setAw_sound {s : State} (id addr : Nat) (f : AwAddr → AwAddr) (hs : s.Sound) :
    (State.setAw s id addr f).Sound := by
  unfold State.setAw
  try dsimp only
  with_reducible repeat' first
    | assumption | intro _ | dsimp only | simp only [Sound.mk_eq] | apply Sound.at

theorem State.installTake_sound {s : State} (id addr : Nat) (tile : List (BitVec 4)) (hs : s.Sound) :
    (State.installTake s id addr tile).Sound := by
  unfold State.installTake
  try dsimp only
  with_reducible repeat' first
    | assumption | apply State.count_sound | apply State.startProgram_sound | apply State.setAw_sound | intro _
    | split | dsimp only | simp only [Sound.mk_eq] | apply Sound.at

theorem State.installLost_sound {s : State} (n : Nat) (hs : s.Sound) :
    (State.installLost s n).Sound := by
  unfold State.installLost
  try dsimp only
  with_reducible repeat' first
    | assumption | apply State.installTake_sound | apply Sound.foldl | intro _ | split | dsimp only

theorem State.rebuildTake_sound {s : State} (addr : Nat) (tile : List (BitVec 4)) (hs : s.Sound) :
    (State.rebuildTake s addr tile).Sound := by
  unfold State.rebuildTake
  try dsimp only
  with_reducible repeat' first
    | assumption | apply State.modArr_sound | apply State.count_sound | apply State.startProgram_sound | intro _
    | split | dsimp only | simp only [Sound.mk_eq] | apply Sound.at

theorem State.rebuildLost_sound {s : State} (n : Nat) (hs : s.Sound) :
    (State.rebuildLost s n).Sound := by
  unfold State.rebuildLost
  try dsimp only
  with_reducible repeat' first
    | assumption | apply State.dropRebuild_sound | apply State.rebuildTake_sound | apply Sound.foldl | intro _ | split
    | dsimp only | simp only [Sound.mk_eq] | apply Sound.at

theorem State.arrayLost_sound {s : State} (n : Nat) (hs : s.Sound) :
    (State.arrayLost s n).Sound := by
  unfold State.arrayLost
  try dsimp only
  with_reducible repeat' first
    | assumption | apply State.abandon_sound | apply State.grantHv_sound | apply State.installLost_sound
    | apply State.rebuildLost_sound | split | dsimp only | simp only [Sound.mk_eq] | apply Sound.at

theorem State.startTaken_sound {s : State} (hs : s.Sound) :
    (State.startTaken s).Sound := by
  unfold State.startTaken
  try dsimp only
  with_reducible repeat' first
    | assumption | apply State.startProgram_sound | apply State.setAw_sound | apply Sound.foldl | intro _ | split
    | dsimp only | simp only [Sound.mk_eq] | apply Sound.at

theorem State.serveOn_sound {s : State} (addr n : Nat) (hs : s.Sound) :
    (State.serveOn s addr n).Sound := by
  unfold State.serveOn
  try dsimp only
  with_reducible repeat' first
    | assumption | apply State.modArray_sound | apply State.setMap_sound | intro _ | dsimp only
    | simp only [Sound.mk_eq] | apply Sound.at

theorem State.serveReady_sound {s : State} (hs : s.Sound) :
    (State.serveReady s).Sound := by
  unfold State.serveReady
  try dsimp only
  with_reducible repeat' first
    | assumption | apply State.endWaits_sound | apply State.dropRebuild_sound | apply State.setAw_sound
    | apply State.serveOn_sound | apply Sound.foldl | intro _ | split | dsimp only | simp only [Sound.mk_eq]
    | apply Sound.at

theorem State.settle_sound {s : State} (hs : s.Sound) :
    (State.settle s).Sound := by
  unfold State.settle
  with_reducible repeat' first
    | assumption | apply State.grantHv_sound | apply State.startTaken_sound | apply State.serveReady_sound

theorem State.rewriteLost_sound {s : State} (n addr : Nat) (hs : s.Sound) :
    (State.rewriteLost s n addr).Sound := by
  unfold State.rewriteLost
  try dsimp only
  with_reducible repeat' first
    | assumption | apply State.markAw_sound | apply Sound.foldl | intro _ | split | dsimp only

theorem State.deadAddress_sound {s : State} (addr : Nat) (hs : s.Sound) :
    (State.deadAddress s addr).Sound := by
  unfold State.deadAddress
  try dsimp only
  with_reducible repeat' first
    | assumption | apply State.dropMove_sound | apply State.oweErase_sound | apply State.doHandover_sound
    | apply State.makeUnavailable_sound | apply Sound.foldl | intro _ | split | dsimp only | simp only [Sound.mk_eq]
    | apply Sound.at

theorem State.declareArrayDead_sound {s : State} (n reason : Nat) (hs : s.Sound) :
    (State.declareArrayDead s n reason).Sound := by
  unfold State.declareArrayDead
  try dsimp only
  with_reducible repeat' first
    | assumption | apply State.modArr_sound | apply State.takeId_sound | apply State.addCnt_sound
    | apply State.count_sound | apply State.modArray_sound | apply State.grantHv_sound | apply State.installLost_sound
    | apply State.arrayLost_sound | apply State.rewriteLost_sound | apply State.deadAddress_sound | intro _ | split
    | dsimp only | simp only [Sound.mk_eq] | apply Sound.at

/-! ## Store.lean -/

theorem State.modBlk_sound {s : State} (b : Nat) (f : StoreBlk → StoreBlk) (hs : s.Sound) :
    (State.modBlk s b f).Sound := by
  unfold State.modBlk
  try dsimp only
  with_reducible repeat' first
    | assumption | apply State.modMedia_sound | intro _ | dsimp only | simp only [Sound.mk_eq] | apply Sound.at

theorem State.fillBlk_sound {s : State} (b pages : Nat) (hs : s.Sound) :
    (State.fillBlk s b pages).Sound := by
  unfold State.fillBlk
  try dsimp only
  with_reducible repeat' first
    | assumption | apply State.modBlk_sound | intro _ | dsimp only | simp only [Sound.mk_eq] | apply Sound.at

theorem State.failBlk_sound {s : State} (b : Nat) (hs : s.Sound) :
    (State.failBlk s b).Sound := by
  unfold State.failBlk
  try dsimp only
  with_reducible repeat' first
    | assumption | apply State.modBlk_sound | intro _ | split | dsimp only | simp only [Sound.mk_eq] | apply Sound.at

theorem State.releaseStore_sound {s : State} (b : Nat) (hs : s.Sound) :
    (State.releaseStore s b).Sound := by
  unfold State.releaseStore
  try dsimp only
  with_reducible repeat' first
    | assumption | apply State.modBlk_sound | intro _ | split | dsimp only | simp only [Sound.mk_eq] | apply Sound.at

theorem readyBlocks_sound (per : Nat) (bs : List Nat) (n : Nat) {s : State} (h : s.Sound) :
    (readyBlocks per bs n s).Sound := by
  induction bs generalizing n s with
  | nil => exact h
  | cons b t ih => exact ih _ (State.fillBlk_sound _ _ h)

theorem State.modTrans_sound {s : State} (part : Partition) (item : Nat) (f : Transact → Transact) (hs : s.Sound) :
    (State.modTrans s part item f).Sound := by
  unfold State.modTrans
  try dsimp only
  with_reducible repeat' first
    | assumption | apply State.modMedia_sound | intro _ | dsimp only | simp only [Sound.mk_eq] | apply Sound.at

theorem State.rewriteCopy_sound {s : State} (x : Transact) (twin : Bool) (hs : s.Sound) :
    (State.rewriteCopy s x twin).Sound := by
  unfold State.rewriteCopy
  try dsimp only
  with_reducible repeat' first
    | assumption | apply State.releaseStore_sound | apply readyBlocks_sound | apply State.modTrans_sound
    | apply Sound.foldl | intro _ | split | dsimp only | simp only [Sound.mk_eq] | apply Sound.at

theorem State.rewriteStore_sound {s : State} (b item : Nat) (hs : s.Sound) :
    (State.rewriteStore s b item).Sound := by
  unfold State.rewriteStore
  try dsimp only
  with_reducible repeat' first
    | assumption | apply State.rewriteCopy_sound | intro _ | split | dsimp only | simp only [Sound.mk_eq]
    | apply Sound.at

theorem State.vacate_sound {s : State} (b : Nat) (hs : s.Sound) :
    (State.vacate s b).Sound := by
  unfold State.vacate
  try dsimp only
  with_reducible repeat' first
    | assumption | apply State.modMedia_sound | apply State.rewriteStore_sound | apply Sound.foldl | intro _
    | dsimp only | simp only [Sound.mk_eq] | apply Sound.at

theorem State.freeLibrary_sound {s : State} (hs : s.Sound) :
    (State.freeLibrary s).Sound := by
  unfold State.freeLibrary
  try dsimp only
  with_reducible repeat' first
    | assumption | apply State.modMedia_sound | apply State.fillBlk_sound | intro _ | split | dsimp only
    | simp only [Sound.mk_eq] | apply Sound.at

theorem State.queueLedger_sound {s : State} (hs : s.Sound) :
    (State.queueLedger s).Sound := by
  unfold State.queueLedger
  try dsimp only
  with_reducible repeat' first
    | assumption | apply State.modMedia_sound | apply State.takeId_sound | intro _ | dsimp only
    | simp only [Sound.mk_eq] | apply Sound.at

theorem State.commitData_sound {s : State} (d : StoreData) (hs : s.Sound) :
    (State.commitData s d).Sound := by
  unfold State.commitData
  try dsimp only
  with_reducible repeat' first
    | assumption | apply State.modArr_sound | apply State.modMedia_sound | apply State.modBoot_sound
    | apply State.answerLate_sound | apply State.freeLibrary_sound | apply Sound.foldl | intro _ | split | dsimp only
    | simp only [Sound.mk_eq] | apply Sound.at

theorem commitTx_sound (x : Transact) {s : State} (hs : s.Sound) :
    (commitTx x s).Sound := by
  unfold commitTx
  try dsimp only
  with_reducible repeat' first
    | assumption | apply State.modMedia_sound | apply State.takeId_sound | apply State.fillBlk_sound
    | apply State.commitData_sound | intro _ | split | dsimp only | simp only [Sound.mk_eq] | apply Sound.at

theorem State.runTx_sound {s : State} (x : Transact) (pages : Nat) (hs : s.Sound) :
    (State.runTx s x pages).Sound := by
  unfold State.runTx
  try dsimp only
  with_reducible repeat' first
    | assumption | apply State.fillBlk_sound | apply commitTx_sound | apply Sound.foldl | intro _ | dsimp only
    | simp only [Sound.mk_eq] | apply Sound.at

theorem State.flushStore_sound {s : State} (hs : s.Sound) :
    (State.flushStore s).Sound := by
  unfold State.flushStore
  try dsimp only
  with_reducible repeat' first
    | assumption | apply State.runTx_sound | apply Sound.foldl | intro _ | split | dsimp only
    | simp only [Sound.mk_eq] | apply Sound.at

end Sys2Proof.Machine
end

