-- ==== Sys2Proof/Laws/SoundArrays.lean ====
section
/-!
SUPPORT. The invariant of Safety.lean over launching, phase operations and re-planning.
-/
namespace Sys2Proof.Machine

/-! ## Launch.lean -/

theorem launchFault_sound (c : SlotCtx) (sync : BitVec 14) (tEnd : Nat) (opTag : BitVec 16) (f : DescFault)
    {s : State} (hs : s.Sound) :
    (launchFault c sync tEnd opTag f s).Sound := by
  unfold launchFault
  try dsimp only
  with_reducible repeat' first
    | assumption | apply State.schedule_sound | apply State.signal_sound | dsimp only | simp only [Sound.mk_eq]
    | apply Sound.at

theorem opLaunch_sound (c : SlotCtx) (sync : BitVec 14) (desc : BitVec 20) (base : BitVec 2) {pre : State}
    {s : State} (h_pre : pre.Sound) (h_s : s.Sound) :
    (opLaunch c sync desc base pre s).Sound := by
  unfold opLaunch
  try dsimp only
  with_reducible repeat' first
    | assumption | apply State.modDisp_sound | apply State.takeId_sound | apply launchFault_sound | intro _ | split
    | dsimp only | simp only [Sound.mk_eq] | apply Sound.at

theorem execLaunch_sound (c : SlotCtx) (sync : BitVec 14) (desc : BitVec 20) (base : BitVec 2) {s : State}
    (hs : s.Sound) :
    Result.Sound (execLaunch c sync desc base s) := by
  unfold execLaunch
  try dsimp only
  with_reducible repeat' first
    | exact trivial | apply Result.sound_next | assumption | apply slotCmd_sound | apply beginStall_sound
    | apply opLaunch_sound | split | dsimp only

theorem State.openTags_sound {s : State} (ns : List Nat) (hs : s.Sound) :
    (State.openTags s ns).Sound := by
  unfold State.openTags
  try dsimp only
  with_reducible repeat' first
    | assumption | apply State.modArray_sound | apply Sound.foldl | intro _ | dsimp only | simp only [Sound.mk_eq]
    | apply Sound.at

theorem State.closeTags_sound {s : State} (ns : List Nat) (hs : s.Sound) :
    (State.closeTags s ns).Sound := by
  unfold State.closeTags
  try dsimp only
  with_reducible repeat' first
    | assumption | apply State.modArray_sound | apply Sound.foldl | intro _ | dsimp only | simp only [Sound.mk_eq]
    | apply Sound.at

theorem State.setConverting_sound {s : State} (ns : List Nat) (hs : s.Sound) :
    (State.setConverting s ns).Sound := by
  unfold State.setConverting
  try dsimp only
  with_reducible repeat' first
    | assumption | apply State.modArray_sound | apply Sound.foldl | intro _ | split | dsimp only
    | simp only [Sound.mk_eq] | apply Sound.at

theorem State.markLate_sound {s : State} (o : PhaseOp) (hs : s.Sound) :
    (State.markLate s o).Sound := by
  unfold State.markLate
  try dsimp only
  with_reducible repeat' first
    | assumption | apply State.modOp_sound | intro _ | split | dsimp only | simp only [Sound.mk_eq] | apply Sound.at

theorem State.beginClockWait_sound {s : State} (hs : s.Sound) :
    (State.beginClockWait s).Sound := by
  unfold State.beginClockWait
  try dsimp only
  with_reducible repeat' first
    | assumption | apply State.modDisp_sound | intro _ | split | dsimp only | simp only [Sound.mk_eq] | apply Sound.at

theorem State.endClockWait_sound {s : State} (hs : s.Sound) :
    (State.endClockWait s).Sound := by
  unfold State.endClockWait
  try dsimp only
  with_reducible repeat' first
    | assumption | apply State.modDisp_sound | apply State.countCycles_sound | intro _ | split | dsimp only
    | simp only [Sound.mk_eq] | apply Sound.at

theorem State.admitOp_sound {s : State} (o : PhaseOp) (k : Nat) (hs : s.Sound) :
    (State.admitOp s o k).Sound := by
  unfold State.admitOp
  try dsimp only
  with_reducible repeat' first
    | assumption | apply State.addCnt_sound | apply State.countCycles_sound | apply State.toCycle_sound
    | apply State.noteHold_sound | apply State.modOp_sound | apply State.countLate_sound | apply State.openTags_sound
    | apply State.setConverting_sound | intro _ | split | dsimp only | simp only [Sound.mk_eq] | apply Sound.at

theorem waitAtAdmission_sound (o : PhaseOp) {s : State} (hs : s.Sound) :
    (waitAtAdmission o s).Sound := by
  unfold waitAtAdmission
  try dsimp only
  with_reducible repeat' first
    | assumption | apply State.toCycle_sound | apply State.holdOp_sound | apply State.markLate_sound
    | apply State.beginClockWait_sound | split | dsimp only

theorem execPhaseAdmission_sound {s : State} (hs : s.Sound) :
    Result.Sound (execPhaseAdmission s) := by
  unfold execPhaseAdmission
  try dsimp only
  with_reducible repeat' first
    | exact trivial | apply Result.sound_next | assumption | apply State.endClockWait_sound
    | apply State.admitOp_sound | apply waitAtAdmission_sound | split | dsimp only | simp only [Sound.mk_eq]
    | apply Sound.at

/-! ## Phases.lean -/

theorem chooseSet_sound (n g : Nat) {so : State × PhaseOp} (h : so.1.Sound) : (chooseSet n g so).1.Sound := by
  obtain ⟨s, o⟩ := so
  unfold chooseSet
  dsimp only at h ⊢
  repeat' split
  · exact h
  · exact h
  · dsimp only; exact State.count_sound _ _ _ h
  · dsimp only; exact State.count_sound _ _ _ h

theorem foldl_pair_sound {α β : Type} {f : State × β → α → State × β} {l : List α} {a : State × β} (h : a.1.Sound)
    (hf : ∀ b x, b.1.Sound → (f b x).1.Sound) : (l.foldl f a).1.Sound := by
  induction l generalizing a with
  | nil => exact h
  | cons x l ih => exact ih (hf a x h)

theorem State.freeIx_sound {s : State} (n : Nat) (h : s.Sound) : State.Sound { s with freeIx := n } := by
  simp only [Sound.mk_eq]; exact Sound.at h

theorem takeArray_sound (k half : Nat) {so : State × PhaseOp} (h : so.1.Sound) : (takeArray k half so).1.Sound := by
  unfold takeArray
  split
  · exact h
  · exact State.freeIx_sound _ (foldl_pair_sound h (fun b x hb => chooseSet_sound _ _ hb))

theorem takeWave_sound (ps : List (Nat × Nat)) {so : State × PhaseOp} (h : so.1.Sound) : (takeWave ps so).1.Sound :=
  foldl_pair_sound h (fun b x hb => takeArray_sound _ _ hb)

theorem State.setIdle_sound {s : State} (ns : List Nat) (hs : s.Sound) :
    (State.setIdle s ns).Sound := by
  unfold State.setIdle
  try dsimp only
  with_reducible repeat' first
    | assumption | apply State.modArray_sound | apply Sound.foldl | intro _ | split | dsimp only
    | simp only [Sound.mk_eq] | apply Sound.at

theorem restartOp_sound (id : Nat) {s : State} (hs : s.Sound) :
    (restartOp id s).Sound := by
  unfold restartOp
  try dsimp only
  with_reducible repeat' first
    | assumption | apply State.modOp_sound | apply State.unholdOp_sound | apply State.openTags_sound
    | apply State.setConverting_sound | intro _ | split | dsimp only | simp only [Sound.mk_eq] | apply Sound.at

theorem State.restartPhases_sound {s : State} (hs : s.Sound) :
    (State.restartPhases s).Sound := by
  unfold State.restartPhases
  try dsimp only
  with_reducible repeat' first
    | assumption | apply State.unholdOp_sound | apply State.endWaits_sound | apply State.endClockWait_sound
    | apply restartOp_sound | apply Sound.foldl | intro _ | split | dsimp only

theorem endOp_sound (o : PhaseOp) (fin : Nat) {s : State} (hs : s.Sound) :
    (endOp o fin s).Sound := by
  unfold endOp
  try dsimp only
  with_reducible repeat' first
    | assumption | apply State.modDisp_sound | apply State.modOp_sound | apply State.settle_sound
    | apply State.setIdle_sound | apply State.restartPhases_sound | apply Sound.foldl | intro _ | dsimp only
    | simp only [Sound.mk_eq] | apply Sound.at

theorem finishPhase_sound (o : PhaseOp) (fin : Nat) {s : State} (hs : s.Sound) :
    (finishPhase o fin s).Sound := by
  unfold finishPhase
  try dsimp only
  with_reducible repeat' first
    | assumption | apply State.modOp_sound | apply State.holdOp_sound | apply State.openTags_sound
    | apply State.closeTags_sound | apply State.beginClockWait_sound | apply endOp_sound | intro _ | split
    | dsimp only | simp only [Sound.mk_eq] | apply Sound.at

theorem phaseEnd_sound (o : PhaseOp) (mute : List Nat) {s : State} (h : s.Sound) : (phaseEnd o mute s).Sound := by
  unfold phaseEnd
  dsimp only
  split
  · exact finishPhase_sound _ _ (takeWave_sound _ (State.toCycle_sound _ h))
  · exact State.modOp_sound _ _ (takeWave_sound _ (State.toCycle_sound _ h))

theorem execPhaseEnd_sound (op : Nat) (mute : List Nat) {s : State} (hs : s.Sound) :
    Result.Sound (execPhaseEnd op mute s) := by
  unfold execPhaseEnd
  try dsimp only
  with_reducible repeat' first
    | exact trivial | apply Result.sound_next | assumption | apply phaseEnd_sound | split | dsimp only
    | simp only [Sound.mk_eq] | apply Sound.at

theorem execMissingCodeTest_sound (op : Nat) {s : State} (hs : s.Sound) :
    Result.Sound (execMissingCodeTest op s) := by
  unfold execMissingCodeTest
  try dsimp only
  with_reducible repeat' first
    | exact trivial | apply Result.sound_next | assumption | apply State.toCycle_sound | apply State.modOp_sound
    | apply State.openTags_sound | apply Sound.foldl | intro _ | split | dsimp only | simp only [Sound.mk_eq]
    | apply Sound.at

theorem repeatEnd_sound (o : PhaseOp) (mute : List Nat) {s : State} (h : s.Sound) : (repeatEnd o mute s).Sound := by
  unfold repeatEnd
  dsimp only
  split
  · exact finishPhase_sound _ _ (State.addCnt_sound _ _ _ (State.addCnt_sound _ _ _ (takeWave_sound _
      (State.toCycle_sound _ h))))
  · exact finishPhase_sound _ _ (Sound.foldl (State.toCycle_sound _ (State.addCnt_sound _ _ _ (State.addCnt_sound _ _ _
      (takeWave_sound _ (State.toCycle_sound _ h))))) (fun t x ht => State.declareArrayDead_sound _ _ ht))

theorem execRepeatPhaseEnd_sound (op : Nat) (mute : List Nat) {s : State} (hs : s.Sound) :
    Result.Sound (execRepeatPhaseEnd op mute s) := by
  unfold execRepeatPhaseEnd
  try dsimp only
  with_reducible repeat' first
    | exact trivial | apply Result.sound_next | assumption | apply repeatEnd_sound | split | dsimp only
    | simp only [Sound.mk_eq] | apply Sound.at

theorem discarded_sound (o : PhaseOp) (n : Nat) {s : State} (hs : s.Sound) :
    (discarded o n s).Sound := by
  unfold discarded
  try dsimp only
  with_reducible repeat' first
    | assumption | apply State.addCnt_sound | apply State.modOp_sound | intro _ | dsimp only | simp only [Sound.mk_eq]
    | apply Sound.at

theorem discardOp_sound (recent : Bool) (o : PhaseOp) {s : State} (hs : s.Sound) :
    (discardOp recent o s).Sound := by
  unfold discardOp
  try dsimp only
  with_reducible repeat' first
    | assumption | apply State.holdOp_sound | apply discarded_sound | split | dsimp only | simp only [Sound.mk_eq]
    | apply Sound.at

theorem State.closeHeld_sound {s : State} (hs : s.Sound) :
    (State.closeHeld s).Sound := by
  unfold State.closeHeld
  try dsimp only
  with_reducible repeat' first
    | assumption | apply State.closeTags_sound | apply Sound.foldl | intro _ | split | dsimp only

theorem State.holdFront_sound {s : State} (hs : s.Sound) :
    (State.holdFront s).Sound := by
  unfold State.holdFront
  try dsimp only
  with_reducible repeat' first
    | assumption | apply State.holdOp_sound | split | dsimp only | simp only [Sound.mk_eq] | apply Sound.at

theorem abortOp_sound (o : PhaseOp) (fails : Bool) {s : State} (hs : s.Sound) :
    (abortOp o fails s).Sound := by
  unfold abortOp
  try dsimp only
  with_reducible repeat' first
    | assumption | apply State.noteHold_sound | apply State.modOp_sound | apply State.closeTags_sound
    | apply Sound.foldl | intro _ | dsimp only | simp only [Sound.mk_eq] | apply Sound.at

theorem completeOp_sound (o : PhaseOp) {s : State} (hs : s.Sound) :
    (completeOp o s).Sound := by
  unfold completeOp
  try dsimp only
  with_reducible repeat' first
    | assumption | apply State.modDisp_sound | apply State.schedule_sound | apply State.signal_sound
    | apply State.settleHalt_sound | apply State.opFailed_sound | intro _ | split | dsimp only
    | simp only [Sound.mk_eq] | apply Sound.at

theorem lineVisible_sound (o : PhaseOp) (l : Nat) (r : LineRec) {s : State} (hs : s.Sound) :
    (lineVisible o l r s).Sound := by
  unfold lineVisible
  try dsimp only
  with_reducible repeat' first
    | assumption | apply State.putMem_sound | apply State.countElems_sound | apply State.toCycle_sound
    | apply State.modOp_sound | apply completeOp_sound | intro _ | split | dsimp only | simp only [Sound.mk_eq]
    | apply Sound.at

theorem execLineVisible_sound (op : Nat) (line : Nat) {s : State} (hs : s.Sound) :
    Result.Sound (execLineVisible op line s) := by
  unfold execLineVisible
  try dsimp only
  with_reducible repeat' first
    | exact trivial | apply Result.sound_next | assumption | apply lineVisible_sound | split | dsimp only
    | simp only [Sound.mk_eq] | apply Sound.at

theorem execResultDiscarded_sound (array : Nat) (epoch : BitVec 16) (phaseTag : BitVec 8) {s : State} (hs : s.Sound) :
    Result.Sound (execResultDiscarded array epoch phaseTag s) := by
  unfold execResultDiscarded
  try dsimp only
  with_reducible repeat' first
    | exact trivial | apply Result.sound_next | assumption | apply State.count_sound | apply State.modArray_sound
    | intro _ | split | dsimp only | simp only [Sound.mk_eq] | apply Sound.at

/-! ## Replan.lean -/

theorem State.recomputeCeiling_sound {s : State} (hs : s.Sound) :
    (State.recomputeCeiling s).Sound := by
  unfold State.recomputeCeiling
  try dsimp only
  with_reducible repeat' first
    | assumption | apply State.modArr_sound | apply State.count_sound | intro _ | split | dsimp only
    | simp only [Sound.mk_eq] | apply Sound.at

theorem State.ktempCheck_sound {s : State} (hs : s.Sound) :
    (State.ktempCheck s).Sound := by
  unfold State.ktempCheck
  try dsimp only
  with_reducible repeat' first
    | assumption | apply State.recomputeCeiling_sound | split | dsimp only

theorem execRingSensorSample_sound (bank : BitVec 6) (fallPpm : Nat) {s : State} (hs : s.Sound) :
    Result.Sound (execRingSensorSample bank fallPpm s) := by
  unfold execRingSensorSample
  try dsimp only
  with_reducible repeat' first
    | exact trivial | apply Result.sound_next | assumption | apply State.modArr_sound | apply State.noteBank_sound
    | intro _ | dsimp only | simp only [Sound.mk_eq] | apply Sound.at

theorem State.rebuild_sound {s : State} (n : Nat) (sets : List (BitVec 64)) (hs : s.Sound) :
    (State.rebuild s n sets).Sound := by
  unfold State.rebuild
  try dsimp only
  with_reducible repeat' first
    | assumption | apply State.modArr_sound | apply State.addCnt_sound | apply State.modArray_sound
    | apply State.setMset_sound | apply Sound.foldl | intro _ | split | dsimp only | simp only [Sound.mk_eq]
    | apply Sound.at

theorem State.requestRefresh_sound {s : State} (n : Nat) (hs : s.Sound) :
    (State.requestRefresh s n).Sound := by
  unfold State.requestRefresh
  try dsimp only
  with_reducible repeat' first
    | assumption | apply State.modArr_sound | intro _ | split | dsimp only | simp only [Sound.mk_eq] | apply Sound.at

theorem State.dropRequest_sound {s : State} (n : Nat) (hs : s.Sound) :
    (State.dropRequest s n).Sound := by
  unfold State.dropRequest
  try dsimp only
  with_reducible repeat' first
    | assumption | apply State.modArr_sound | apply State.modArray_sound | intro _ | dsimp only
    | simp only [Sound.mk_eq] | apply Sound.at

theorem State.widenAll_sound {s : State} (n : Nat) (hs : s.Sound) :
    (State.widenAll s n).Sound := by
  unfold State.widenAll
  try dsimp only
  with_reducible repeat' first
    | assumption | apply State.setMset_sound | apply Sound.foldl | intro _ | dsimp only

theorem State.giveUpRefresh_sound {s : State} (n : Nat) (hs : s.Sound) :
    (State.giveUpRefresh s n).Sound := by
  unfold State.giveUpRefresh
  try dsimp only
  with_reducible repeat' first
    | assumption | apply State.count_sound | apply State.modArray_sound | apply State.noteWidened_sound
    | apply State.dropRequest_sound | apply State.widenAll_sound | intro _ | split | dsimp only
    | simp only [Sound.mk_eq] | apply Sound.at

theorem State.waitRefresh_sound {s : State} (n : Nat) (hs : s.Sound) :
    (State.waitRefresh s n).Sound := by
  unfold State.waitRefresh
  try dsimp only
  with_reducible repeat' first
    | assumption | apply State.count_sound | apply State.modArray_sound | intro _ | split | dsimp only
    | simp only [Sound.mk_eq] | apply Sound.at

theorem State.tryRefresh_sound {s : State} (n : Nat) (hs : s.Sound) :
    (State.tryRefresh s n).Sound := by
  unfold State.tryRefresh
  try dsimp only
  with_reducible repeat' first
    | assumption | apply State.modArr_sound | apply State.takeId_sound | apply State.modArray_sound
    | apply State.setMap_sound | apply State.startProgram_sound | apply State.grantHv_sound
    | apply State.dropRequest_sound | apply State.giveUpRefresh_sound | apply State.waitRefresh_sound | intro _
    | split | dsimp only | simp only [Sound.mk_eq] | apply Sound.at

theorem State.tryRefreshes_sound {s : State} (hs : s.Sound) :
    (State.tryRefreshes s).Sound := by
  unfold State.tryRefreshes
  try dsimp only
  with_reducible repeat' first
    | assumption | apply State.tryRefresh_sound | apply Sound.foldl | intro _ | dsimp only

theorem State.mirrorReady_sound {s : State} (n : Nat) (hs : s.Sound) :
    (State.mirrorReady s n).Sound := by
  unfold State.mirrorReady
  try dsimp only
  with_reducible repeat' first
    | assumption | apply State.modArr_sound | intro _ | split | dsimp only | simp only [Sound.mk_eq] | apply Sound.at

theorem State.installReady_sound {s : State} (n : Nat) (hs : s.Sound) :
    (State.installReady s n).Sound := by
  unfold State.installReady
  try dsimp only
  with_reducible repeat' first
    | assumption | apply State.modArr_sound | apply State.markAw_sound | apply Sound.foldl | intro _ | split
    | dsimp only | simp only [Sound.mk_eq] | apply Sound.at

theorem State.startPass_sound {s : State} (first : Bool) (hs : s.Sound) :
    (State.startPass s first).Sound := by
  unfold State.startPass
  try dsimp only
  with_reducible repeat' first
    | assumption | apply State.modArr_sound | refine State.first_sound _ ?_ _ (by assumption)
    | apply State.tryRefreshes_sound | intro _ | split | dsimp only | simp only [Sound.mk_eq] | apply Sound.at

theorem State.endFullPass_sound {s : State} (hs : s.Sound) :
    (State.endFullPass s).Sound := by
  unfold State.endFullPass
  try dsimp only
  with_reducible repeat' first
    | assumption | apply State.modArr_sound | apply State.recomputeCeiling_sound | apply State.startPass_sound
    | intro _ | split | dsimp only | simp only [Sound.mk_eq] | apply Sound.at

theorem State.endEarlyPass_sound {s : State} (hs : s.Sound) :
    (State.endEarlyPass s).Sound := by
  unfold State.endEarlyPass
  try dsimp only
  with_reducible repeat' first
    | assumption | apply State.modArr_sound | apply State.recomputeCeiling_sound | intro _ | split | dsimp only
    | simp only [Sound.mk_eq] | apply Sound.at

theorem State.leavePass_sound {s : State} (n : Nat) (hs : s.Sound) :
    (State.leavePass s n).Sound := by
  unfold State.leavePass
  try dsimp only
  with_reducible repeat' first
    | assumption | apply State.modArr_sound | apply State.endFullPass_sound | apply State.endEarlyPass_sound | intro _
    | dsimp only | simp only [Sound.mk_eq] | apply Sound.at

theorem State.startEarly_sound {s : State} (b : Nat) (hs : s.Sound) :
    (State.startEarly s b).Sound := by
  unfold State.startEarly
  try dsimp only
  with_reducible repeat' first
    | assumption | apply State.modArr_sound | apply State.tryRefresh_sound | apply State.endEarlyPass_sound
    | apply Sound.foldl | intro _ | split | dsimp only | simp only [Sound.mk_eq] | apply Sound.at

theorem State.finishMeasurement_sound {s : State} (n : Nat) (t4 : Int) (ms : List (List Int)) (hs : s.Sound) :
    (State.finishMeasurement s n t4 ms).Sound := by
  unfold State.finishMeasurement
  try dsimp only
  with_reducible repeat' first
    | assumption | apply State.modArray_sound | apply State.noteWidened_sound | apply State.settle_sound
    | apply State.rebuild_sound | apply State.requestRefresh_sound | apply State.tryRefresh_sound
    | apply State.mirrorReady_sound | apply State.installReady_sound | apply State.leavePass_sound | apply Sound.foldl
    | intro _ | split | dsimp only | simp only [Sound.mk_eq] | apply Sound.at

theorem State.dropMeasurement_sound {s : State} (n : Nat) (hs : s.Sound) :
    (State.dropMeasurement s n).Sound := by
  unfold State.dropMeasurement
  try dsimp only
  with_reducible repeat' first
    | assumption | apply State.modArray_sound | apply State.settle_sound | apply State.leavePass_sound | intro _
    | split | dsimp only | simp only [Sound.mk_eq] | apply Sound.at

theorem State.discardMaintenance_sound {s : State} (hs : s.Sound) :
    (State.discardMaintenance s).Sound := by
  unfold State.discardMaintenance
  try dsimp only
  with_reducible repeat' first
    | assumption | apply State.dropMeasurement_sound | apply Sound.foldl | intro _ | dsimp only

theorem State.discardPhases_sound {s : State} (recent : Bool) (hs : s.Sound) :
    (State.discardPhases s recent).Sound := by
  unfold State.discardPhases
  try dsimp only
  with_reducible repeat' first
    | assumption | apply discardOp_sound | apply State.closeHeld_sound | apply State.holdFront_sound
    | apply State.discardMaintenance_sound | apply Sound.foldl | intro _ | dsimp only

theorem execMaintenancePhaseEnd_sound (array : Nat) (codes : List Int) (silent : Bool) {s : State} (hs : s.Sound) :
    Result.Sound (execMaintenancePhaseEnd array codes silent s) := by
  unfold execMaintenancePhaseEnd
  try dsimp only
  with_reducible repeat' first
    | exact trivial | apply Result.sound_next | assumption | apply State.modArray_sound | apply State.settle_sound
    | apply State.declareArrayDead_sound | apply State.beginClockWait_sound | apply State.leavePass_sound
    | apply State.finishMeasurement_sound | apply State.dropMeasurement_sound | intro _ | split | dsimp only
    | simp only [Sound.mk_eq] | apply Sound.at

theorem execReplanPeriodExpiry_sound {s : State} (hs : s.Sound) :
    Result.Sound (execReplanPeriodExpiry s) := by
  unfold execReplanPeriodExpiry
  try dsimp only
  with_reducible repeat' first
    | exact trivial | apply Result.sound_next | assumption | apply State.noteBank_sound | apply State.startPass_sound
    | apply Sound.foldl | intro _ | dsimp only

theorem wReplanNow_sound (v : Nat) {s : State} (hs : s.Sound) :
    (wReplanNow v s).2.Sound := by
  unfold wReplanNow
  try dsimp only
  with_reducible repeat' first
    | assumption | apply State.startPass_sound | split | dsimp only

theorem execReplanNow_sound (m : Master) (value : BitVec 8) {s : State} (hs : s.Sound) :
    Result.Sound (execReplanNow m value s) := by
  unfold execReplanNow
  with_reducible repeat' first
    | exact trivial | apply Result.sound_next | assumption | apply entryWrite_sound | apply wReplanNow_sound

theorem execHandover_sound (set : Nat) {s : State} (hs : s.Sound) :
    Result.Sound (execHandover set s) := by
  unfold execHandover
  try dsimp only
  with_reducible repeat' first
    | exact trivial | apply Result.sound_next | assumption | apply State.doHandover_sound | split | dsimp only
    | simp only [Sound.mk_eq] | apply Sound.at

theorem execHandoverWaitExpiry_sound (set : Nat) {s : State} (hs : s.Sound) :
    Result.Sound (execHandoverWaitExpiry set s) := by
  unfold execHandoverWaitExpiry
  try dsimp only
  with_reducible repeat' first
    | exact trivial | apply Result.sound_next | assumption | apply State.modArr_sound | apply State.addCnt_sound
    | apply State.toTick_sound | intro _ | split | dsimp only | simp only [Sound.mk_eq] | apply Sound.at

theorem State.retire_sound {s : State} (n reason : Nat) (hs : s.Sound) :
    (State.retire s n reason).Sound := by
  unfold State.retire
  try dsimp only
  with_reducible repeat' first
    | assumption | apply State.count_sound | apply State.modArray_sound | intro _ | dsimp only
    | simp only [Sound.mk_eq] | apply Sound.at

theorem State.erased_sound {s : State} (n : Nat) (hs : s.Sound) :
    (State.erased s n).Sound := by
  unfold State.erased
  try dsimp only
  with_reducible repeat' first
    | assumption | apply State.modArray_sound | apply State.clearCells_sound | intro _ | dsimp only
    | simp only [Sound.mk_eq] | apply Sound.at

theorem execOldHomeErase_sound (array : Nat) (verify : Bool) {s : State} (hs : s.Sound) :
    Result.Sound (execOldHomeErase array verify s) := by
  unfold execOldHomeErase
  try dsimp only
  with_reducible repeat' first
    | exact trivial | apply Result.sound_next | assumption | apply State.retire_sound | apply State.erased_sound
    | split | dsimp only

theorem State.rebuildFrom_sound {s : State} (n : Nat) (ms : List (List Int)) (hs : s.Sound) :
    (State.rebuildFrom s n ms).Sound := by
  unfold State.rebuildFrom
  try dsimp only
  with_reducible repeat' first
    | assumption | apply State.rebuild_sound | intro _ | dsimp only | simp only [Sound.mk_eq] | apply Sound.at

theorem State.rebuildFree_sound {s : State} (n : Nat) (hs : s.Sound) :
    (State.rebuildFree s n).Sound := by
  unfold State.rebuildFree
  try dsimp only
  with_reducible repeat' first
    | assumption | apply State.rebuildFrom_sound | dsimp only | simp only [Sound.mk_eq] | apply Sound.at

theorem State.writeTile_sound {s : State} (n : Nat) (tile : List (BitVec 4)) (hs : s.Sound) :
    (State.writeTile s n tile).Sound := by
  unfold State.writeTile
  try dsimp only
  with_reducible repeat' first
    | assumption | apply State.modArray_sound | apply State.setCells_sound | apply State.setRefs_sound
    | apply Sound.foldl | intro _ | dsimp only | simp only [Sound.mk_eq] | apply Sound.at

theorem execShadeRecheck_sound (array : Nat) (programs : Bool) (phases codes : List (List Int)) (eraseVerify : Bool)
    {s : State} (hs : s.Sound) :
    Result.Sound (execShadeRecheck array programs phases codes eraseVerify s) := by
  unfold execShadeRecheck
  try dsimp only
  with_reducible repeat' first
    | exact trivial | apply Result.sound_next | assumption | apply State.modArr_sound | apply State.modArray_sound
    | apply State.grantHv_sound | apply State.retire_sound | apply State.erased_sound | apply State.rebuildFrom_sound
    | apply State.writeTile_sound | intro _ | split | dsimp only | simp only [Sound.mk_eq] | apply Sound.at

theorem State.keepSets_sound {s : State} (n g : Nat) (which : Nat) (hs : s.Sound) :
    (State.keepSets s n g which).Sound := by
  unfold State.keepSets
  try dsimp only
  with_reducible repeat' first
    | assumption | apply State.modDisp_sound | intro _ | dsimp only | simp only [Sound.mk_eq] | apply Sound.at

theorem execMarginSetRewrite_sound (array : Nat) (group : BitVec 5) {s : State} (hs : s.Sound) :
    Result.Sound (execMarginSetRewrite array group s) := by
  unfold execMarginSetRewrite
  try dsimp only
  with_reducible repeat' first
    | exact trivial | apply Result.sound_next | assumption | apply State.setMset_sound | apply State.keepSets_sound
    | split | dsimp only

theorem State.writeBacking_sound {s : State} (hs : s.Sound) :
    (State.writeBacking s).Sound := by
  unfold State.writeBacking
  try dsimp only
  with_reducible repeat' first
    | assumption | apply State.modArr_sound | apply State.runTx_sound | apply State.flushStore_sound | intro _
    | dsimp only | simp only [Sound.mk_eq] | apply Sound.at

theorem execBackingIntervalExpiry_sound {s : State} (hs : s.Sound) :
    Result.Sound (execBackingIntervalExpiry s) := by
  unfold execBackingIntervalExpiry
  try dsimp only
  with_reducible repeat' first
    | exact trivial | apply Result.sound_next | assumption | apply State.modArr_sound | apply State.modMedia_sound
    | apply State.takeId_sound | intro _ | dsimp only | simp only [Sound.mk_eq] | apply Sound.at

theorem execArrayStatusSample_sound {s : State} (hs : s.Sound) :
    Result.Sound (execArrayStatusSample s) := by
  unfold execArrayStatusSample
  try dsimp only
  with_reducible repeat' first
    | exact trivial | apply Result.sound_next | assumption | apply State.modArr_sound | intro _ | dsimp only
    | simp only [Sound.mk_eq] | apply Sound.at

end Sys2Proof.Machine
end

