-- ==== Sys2Proof/Laws/SoundEngines.lean ====
section
/-!
SUPPORT. The invariant of Safety.lean over the matrix and vector engines.
-/
namespace Sys2Proof.Machine

/-! ## Matrix.lean -/

theorem taskFault_sound (c : SlotCtx) (sync : Option (BitVec 14)) (opTag : BitVec 16) (f : DescFault) {s : State}
    (hs : s.Sound) :
    (taskFault c sync opTag f s).Sound := by
  unfold taskFault
  try dsimp only
  with_reducible repeat' first
    | assumption | apply State.schedule_sound | apply State.signal_sound | apply State.raiseExc_sound | split
    | dsimp only | simp only [Sound.mk_eq] | apply Sound.at

theorem queueMatrix_sound (c : SlotCtx) (o : MatOp) (bf16 : Bool) (slices : BitVec 8) (d : MatDesc) {s : State}
    (hs : s.Sound) :
    (queueMatrix c o bf16 slices d s).Sound := by
  unfold queueMatrix
  try dsimp only
  with_reducible repeat' first
    | assumption | apply State.modEng_sound | apply State.takeId_sound | intro _ | split | dsimp only
    | simp only [Sound.mk_eq] | apply Sound.at

theorem opMatrix_sound (o : MatOp) (c : SlotCtx) (fmt : Bool) (slices : BitVec 8) (desc : BitVec 20) {pre : State}
    {s : State} (h_pre : pre.Sound) (h_s : s.Sound) :
    (opMatrix o c fmt slices desc pre s).Sound := by
  unfold opMatrix
  try dsimp only
  with_reducible repeat' first
    | assumption | apply taskFault_sound | apply queueMatrix_sound | intro _ | split | dsimp only
    | simp only [Sound.mk_eq] | apply Sound.at

theorem matrixCmd_sound (o : MatOp) (c : SlotCtx) (fmt : Bool) (slices : BitVec 8) (desc : BitVec 20) {s : State}
    (hs : s.Sound) :
    Result.Sound (matrixCmd o c fmt slices desc s) := by
  unfold matrixCmd
  try dsimp only
  with_reducible repeat' first
    | exact trivial | apply Result.sound_next | assumption | apply slotCmd_sound | apply beginStall_sound
    | apply opMatrix_sound | split | dsimp only

theorem execMatmul_sound (c : SlotCtx) (fmt : Bool) (slices : BitVec 8) (desc : BitVec 20) {s : State}
    (hs : s.Sound) :
    Result.Sound (execMatmul c fmt slices desc s) := by
  unfold execMatmul
  with_reducible repeat' first
    | exact trivial | apply Result.sound_next | assumption | apply matrixCmd_sound

theorem execMatmulAcc_sound (c : SlotCtx) (fmt : Bool) (slices : BitVec 8) (desc : BitVec 20) {s : State}
    (hs : s.Sound) :
    Result.Sound (execMatmulAcc c fmt slices desc s) := by
  unfold execMatmulAcc
  with_reducible repeat' first
    | exact trivial | apply Result.sound_next | assumption | apply matrixCmd_sound

theorem execMatmulX_sound (c : SlotCtx) (fmt : Bool) (slices : BitVec 8) (desc : BitVec 20) {s : State}
    (hs : s.Sound) :
    Result.Sound (execMatmulX c fmt slices desc s) := by
  unfold execMatmulX
  with_reducible repeat' first
    | exact trivial | apply Result.sound_next | assumption | apply matrixCmd_sound

theorem execMatmulXAcc_sound (c : SlotCtx) (fmt : Bool) (slices : BitVec 8) (desc : BitVec 20) {s : State}
    (hs : s.Sound) :
    Result.Sound (execMatmulXAcc c fmt slices desc s) := by
  unfold execMatmulXAcc
  with_reducible repeat' first
    | exact trivial | apply Result.sound_next | assumption | apply matrixCmd_sound

theorem execAccStore_sound (c : SlotCtx) (fmt : Bool) (slices : BitVec 8) (desc : BitVec 20) {s : State}
    (hs : s.Sound) :
    Result.Sound (execAccStore c fmt slices desc s) := by
  unfold execAccStore
  with_reducible repeat' first
    | exact trivial | apply Result.sound_next | assumption | apply matrixCmd_sound

theorem execAccLoad_sound (c : SlotCtx) (fmt : Bool) (slices : BitVec 8) (desc : BitVec 20) {s : State}
    (hs : s.Sound) :
    Result.Sound (execAccLoad c fmt slices desc s) := by
  unfold execAccLoad
  with_reducible repeat' first
    | exact trivial | apply Result.sound_next | assumption | apply matrixCmd_sound

theorem execOuterAcc_sound (c : SlotCtx) (fmt : Bool) (slices : BitVec 8) (desc : BitVec 20) {s : State}
    (hs : s.Sound) :
    Result.Sound (execOuterAcc c fmt slices desc s) := by
  unfold execOuterAcc
  with_reducible repeat' first
    | exact trivial | apply Result.sound_next | assumption | apply matrixCmd_sound

theorem State.addRefs_sound {s : State} (slots : List Nat) (f : Nat → Nat) (hs : s.Sound) :
    (State.addRefs s slots f).Sound := by
  unfold State.addRefs
  try dsimp only
  with_reducible repeat' first
    | assumption | apply State.modEng_sound | apply Sound.foldl | intro _ | dsimp only | simp only [Sound.mk_eq]
    | apply Sound.at

theorem readHeader_sound (x : MatTask) (f : FetchedHdr) {s : State} (h : s.Sound) : (readHeader x f s).2.Sound := by
  unfold readHeader
  dsimp only
  split
  · dsimp only; exact State.count_sound _ _ _ (State.modEng_sound _ h)
  · split
    · exact State.addRefs_sound _ _ (State.modEng_sound _ h)
    · dsimp only; exact State.count_sound _ _ _ (State.modEng_sound _ h)

theorem noteOperands_sound (x : MatTask) {s : State} (h : s.Sound) : (noteOperands x s).2.Sound := by
  unfold noteOperands
  dsimp only
  apply State.addCnt_sound
  apply State.addCnt_sound
  split
  · exact State.count_sound _ _ _ (State.countElems_sound _ _ _ _ (State.countElems_sound _ _ _ _ h))
  · exact State.countElems_sound _ _ _ _ (State.countElems_sound _ _ _ _ h)

theorem computePass_sound (x : MatTask) (p fin : Nat) {s : State} (hs : s.Sound) :
    (computePass x p fin s).2.Sound := by
  unfold computePass
  try dsimp only
  with_reducible repeat' first
    | assumption | apply State.modEng_sound | apply State.schedule_sound | apply Sound.foldl | intro _ | split
    | dsimp only | simp only [Sound.mk_eq] | apply Sound.at

theorem computePasses_sound (l : List (Nat × Nat)) {x : MatTask} {s : State} (h : s.Sound) :
    (computePasses l x s).2.Sound := by
  induction l generalizing x s with
  | nil => exact h
  | cons p t ih => exact ih (computePass_sound _ _ _ h)

theorem countGrowth_sound (x : MatTask) (w : Walk) {s : State} (hs : s.Sound) :
    (countGrowth x w s).2.Sound := by
  unfold countGrowth
  try dsimp only
  with_reducible repeat' first
    | assumption | apply State.countCycles_sound | split | dsimp only | simp only [Sound.mk_eq] | apply Sound.at

theorem finishSteps_sound (x : MatTask) (fin : Nat) {s : State} (hs : s.Sound) :
    (finishSteps x fin s).2.Sound := by
  unfold finishSteps
  try dsimp only
  with_reducible repeat' first
    | assumption | apply State.modEng_sound | apply Sound.foldl | intro _ | dsimp only | simp only [Sound.mk_eq]
    | apply Sound.at

theorem advanceTask_sound (x : MatTask) {s : State} (h : s.Sound) : (advanceTask x s).2.Sound := by
  have h1 := fun w l => computePasses_sound l (x := (countGrowth x w s).1) (countGrowth_sound x w h)
  unfold advanceTask
  dsimp only
  split
  · exact h1 _ _
  · apply finishSteps_sound
    split
    · exact h1 _ _
    · exact noteOperands_sound _ (h1 _ _)

theorem beginTask_sound (x : MatTask) {s : State} (hs : s.Sound) :
    (beginTask x s).2.Sound := by
  unfold beginTask
  try dsimp only
  with_reducible repeat' first
    | assumption | apply State.modEng_sound | apply finishSteps_sound | apply advanceTask_sound | intro _ | split
    | dsimp only | simp only [Sound.mk_eq] | apply Sound.at

theorem countWaits_sound (x : MatTask) (start : Nat) {s : State} (hs : s.Sound) :
    (countWaits x start s).Sound := by
  unfold countWaits
  try dsimp only
  with_reducible repeat' first
    | assumption | apply State.countCycles_sound | dsimp only

theorem startMatrix_sound (x : MatTask) (rest : List MatTask) (k scaleWait bankWait : Nat) {s : State} (h : s.Sound) :
    (startMatrix x rest k scaleWait bankWait s).Sound := by
  unfold startMatrix
  dsimp only
  apply State.modEng_sound
  apply beginTask_sound
  apply State.countCycles_sound
  apply State.countCycles_sound
  exact countWaits_sound _ _ (State.modEng_sound _ (State.toCycle_sound _ h))

theorem execMatrixTaskStart_sound (slot : Fin 2) (scaleWait bankWait : Nat) {s : State} (hs : s.Sound) :
    Result.Sound (execMatrixTaskStart slot scaleWait bankWait s) := by
  unfold execMatrixTaskStart
  try dsimp only
  with_reducible repeat' first
    | exact trivial | apply Result.sound_next | assumption | apply startMatrix_sound | intro _ | split | dsimp only
    | simp only [Sound.mk_eq] | apply Sound.at

theorem endMatrix_sound (x : MatTask) {s : State} (hs : s.Sound) :
    (endMatrix x s).Sound := by
  unfold endMatrix
  try dsimp only
  with_reducible repeat' first
    | assumption | apply State.modEng_sound | apply State.putMem_sound | apply State.schedule_sound
    | apply State.signal_sound | apply State.settleHalt_sound | apply State.opFailed_sound | apply State.toCycle_sound
    | apply State.addRefs_sound | apply Sound.foldl | intro _ | split | dsimp only | simp only [Sound.mk_eq]
    | apply Sound.at

theorem execMatrixTaskEnd_sound (task : Nat) {s : State} (hs : s.Sound) :
    Result.Sound (execMatrixTaskEnd task s) := by
  unfold execMatrixTaskEnd
  try dsimp only
  with_reducible repeat' first
    | exact trivial | apply Result.sound_next | assumption | apply endMatrix_sound | intro _ | split | dsimp only
    | simp only [Sound.mk_eq] | apply Sound.at

theorem putTasks_sound (slot : Nat) (ts : List MatTask) {s : State} (hs : s.Sound) :
    (putTasks slot ts s).Sound := by
  unfold putTasks
  try dsimp only
  with_reducible repeat' first
    | assumption | apply State.modEng_sound | apply advanceTask_sound | apply Sound.foldl | intro _ | dsimp only
    | simp only [Sound.mk_eq] | apply Sound.at

theorem readNext_sound (l : List MatTask) {s : State} (h : s.Sound) : (readNext l s).2.Sound := by
  induction l generalizing s with
  | nil => exact h
  | cons x t ih =>
    unfold readNext
    split
    · split
      · exact readHeader_sound _ _ h
      · exact h
    · exact ih h

theorem execExpanderHeaderRead_sound (slot : Fin 2) {s : State} (hs : s.Sound) :
    Result.Sound (execExpanderHeaderRead slot s) := by
  unfold execExpanderHeaderRead
  try dsimp only
  with_reducible repeat' first
    | exact trivial | apply Result.sound_next | assumption | apply putTasks_sound | apply readNext_sound | dsimp only

theorem State.noteBlock_sound {s : State} (x : MatTask) (c j : Nat) (f : Fetched) (hs : s.Sound) :
    (State.noteBlock s x c j f).Sound := by
  unfold State.noteBlock
  try dsimp only
  with_reducible repeat' first
    | assumption | apply State.noteUnit_sound | split | dsimp only | simp only [Sound.mk_eq] | apply Sound.at

theorem fillBlocks_sound (l : List (Nat × Nat × Nat)) (room : Nat) (x : MatTask) {s : State} (h : s.Sound) :
    (fillBlocks l room x s).2.2.Sound := by
  induction l generalizing room x s with
  | nil => exact h
  | cons p t ih =>
    unfold fillBlocks
    dsimp only
    split
    · exact h
    · exact ih _ _ (State.noteBlock_sound _ _ _ _ h)

theorem fillTask_sound (room : Nat) (x : MatTask) {s : State} (hs : s.Sound) :
    (fillTask room x s).2.2.Sound := by
  unfold fillTask
  try dsimp only
  with_reducible repeat' first
    | assumption | apply State.noteUnit_sound | apply fillBlocks_sound | split | dsimp only | simp only [Sound.mk_eq]
    | apply Sound.at

theorem fillTasks_sound (l : List MatTask) (room : Nat) {s : State} (h : s.Sound) : (fillTasks l room s).2.Sound := by
  induction l generalizing room s with
  | nil => exact h
  | cons x t ih =>
    unfold fillTasks
    split
    · exact ih _ (fillTask_sound _ _ h)
    · exact ih _ h

theorem fillFetch_sound (slot bytes late : Nat) {s : State} (hs : s.Sound) :
    (fillFetch slot bytes late s).Sound := by
  unfold fillFetch
  try dsimp only
  with_reducible repeat' first
    | assumption | apply State.toCycle_sound | apply State.noteHold_sound | apply putTasks_sound
    | apply fillTasks_sound | apply Sound.foldl | intro _ | split | dsimp only | simp only [Sound.mk_eq]
    | apply Sound.at

theorem holdFetch_sound (slot : Nat) {s : State} (hs : s.Sound) :
    (holdFetch slot s).Sound := by
  unfold holdFetch
  try dsimp only
  with_reducible repeat' first
    | assumption | apply State.modEng_sound | apply State.count_sound | intro _ | split | dsimp only
    | simp only [Sound.mk_eq] | apply Sound.at

theorem execFetchBufferFill_sound (slot : Fin 2) (bytes lateCycles : Nat) {s : State} (hs : s.Sound) :
    Result.Sound (execFetchBufferFill slot bytes lateCycles s) := by
  unfold execFetchBufferFill
  try dsimp only
  with_reducible repeat' first
    | exact trivial | apply Result.sound_next | assumption | apply fillFetch_sound | apply holdFetch_sound | intro _
    | split | dsimp only

theorem wTableLoad_sound (v : Nat) {s : State} (hs : s.Sound) :
    (wTableLoad v s).2.Sound := by
  unfold wTableLoad
  try dsimp only
  with_reducible repeat' first
    | assumption | apply State.modEng_sound | apply State.count_sound | intro _ | split | dsimp only
    | simp only [Sound.mk_eq] | apply Sound.at

theorem execTableLoad_sound (m : Master) (addr : DWord) {s : State} (hs : s.Sound) :
    Result.Sound (execTableLoad m addr s) := by
  unfold execTableLoad
  with_reducible repeat' first
    | exact trivial | apply Result.sound_next | assumption | apply entryWrite_sound | apply wTableLoad_sound

theorem wTableFree_sound (v : Nat) {s : State} (hs : s.Sound) :
    (wTableFree v s).2.Sound := by
  unfold wTableFree
  try dsimp only
  with_reducible repeat' first
    | assumption | apply State.modEng_sound | intro _ | split | dsimp only | simp only [Sound.mk_eq] | apply Sound.at

theorem execTableFree_sound (m : Master) (slot : BitVec 8) {s : State} (hs : s.Sound) :
    Result.Sound (execTableFree m slot s) := by
  unfold execTableFree
  with_reducible repeat' first
    | exact trivial | apply Result.sound_next | assumption | apply entryWrite_sound | apply wTableFree_sound

/-! ## Vector.lean -/

theorem queueVector_sound (c : SlotCtx) (op : VecOp) (u : BitVec 8) (d : VecDesc) (im : Option Image) {s : State}
    (hs : s.Sound) :
    (queueVector c op u d im s).Sound := by
  unfold queueVector
  try dsimp only
  with_reducible repeat' first
    | assumption | apply State.modEng_sound | apply State.takeId_sound | intro _ | dsimp only
    | simp only [Sound.mk_eq] | apply Sound.at

theorem opVector_sound (op : VecOp) (c : SlotCtx) (u : BitVec 8) (desc : BitVec 20) {pre : State} {s : State}
    (h_pre : pre.Sound) (h_s : s.Sound) :
    (opVector op c u desc pre s).Sound := by
  unfold opVector
  try dsimp only
  with_reducible repeat' first
    | assumption | apply taskFault_sound | apply queueVector_sound | intro _ | split | dsimp only
    | simp only [Sound.mk_eq] | apply Sound.at

theorem vectorCmd_sound (op : VecOp) (c : SlotCtx) (u : BitVec 8) (desc : BitVec 20) {s : State} (hs : s.Sound) :
    Result.Sound (vectorCmd op c u desc s) := by
  unfold vectorCmd
  try dsimp only
  with_reducible repeat' first
    | exact trivial | apply Result.sound_next | assumption | apply slotCmd_sound | apply beginStall_sound
    | apply opVector_sound | split | dsimp only

theorem execRun_sound (c : SlotCtx) (units : BitVec 8) (desc : BitVec 20) {s : State} (hs : s.Sound) :
    Result.Sound (execRun c units desc s) := by
  unfold execRun
  with_reducible repeat' first
    | exact trivial | apply Result.sound_next | assumption | apply vectorCmd_sound

theorem execConfig_sound (c : SlotCtx) (units : BitVec 8) (desc : BitVec 20) {s : State} (hs : s.Sound) :
    Result.Sound (execConfig c units desc s) := by
  unfold execConfig
  with_reducible repeat' first
    | exact trivial | apply Result.sound_next | assumption | apply vectorCmd_sound

theorem execRotate_sound (c : SlotCtx) (units : BitVec 8) (desc : BitVec 20) {s : State} (hs : s.Sound) :
    Result.Sound (execRotate c units desc s) := by
  unfold execRotate
  with_reducible repeat' first
    | exact trivial | apply Result.sound_next | assumption | apply vectorCmd_sound

theorem State.useLanes_sound {s : State} (us : List Nat) (hs : s.Sound) :
    (State.useLanes s us).Sound := by
  unfold State.useLanes
  try dsimp only
  with_reducible repeat' first
    | assumption | apply State.modEng_sound | apply Sound.foldl | intro _ | dsimp only | simp only [Sound.mk_eq]
    | apply Sound.at

theorem beginRun_sound (x : VecTask) {s : State} (h : s.Sound) : (beginRun x s).2.1.Sound := by
  unfold beginRun
  dsimp only
  repeat' split
  · exact h
  · exact h
  · exact State.useLanes_sound _ h

theorem beginConfig_sound (x : VecTask) {s : State} (h : s.Sound) : (beginConfig x s).2.1.Sound := by
  unfold beginConfig
  dsimp only
  exact State.modEng_sound _ h

theorem beginVector_sound (x : VecTask) {s : State} (h : s.Sound) : (beginVector x s).2.1.Sound := by
  unfold beginVector
  split
  · exact beginRun_sound x h
  · exact beginConfig_sound x h
  · exact h

theorem startVector_sound (x : VecTask) (rest : List VecTask) (k scaleWait : Nat) {s : State} (h : s.Sound) :
    (startVector x rest k scaleWait s).Sound := by
  unfold startVector
  dsimp only
  exact State.modEng_sound _ (beginVector_sound x (State.countCycles_sound _ _ _ (State.countCycles_sound _ _ _
    (State.modEng_sound _ (State.toCycle_sound _ h)))))

theorem execVectorTaskStart_sound (slot : Fin 2) (scaleWait : Nat) {s : State} (hs : s.Sound) :
    Result.Sound (execVectorTaskStart slot scaleWait s) := by
  unfold execVectorTaskStart
  try dsimp only
  with_reducible repeat' first
    | exact trivial | apply Result.sound_next | assumption | apply startVector_sound | apply Sound.foldl | intro _
    | split | dsimp only | simp only [Sound.mk_eq] | apply Sound.at

theorem writeStats_sound (x : VecTask) (t : Stats) {s : State} (hs : s.Sound) :
    (writeStats x t s).Sound := by
  unfold writeStats
  try dsimp only
  with_reducible repeat' first
    | assumption | apply State.putMem_sound | apply State.addCnt_sound | apply State.count_sound
    | apply State.countElems_sound | split | dsimp only

theorem installImage_sound (x : VecTask) {s : State} (hs : s.Sound) :
    (installImage x s).Sound := by
  unfold installImage
  try dsimp only
  with_reducible repeat' first
    | assumption | apply State.modEng_sound | apply Sound.foldl | intro _ | split | dsimp only
    | simp only [Sound.mk_eq] | apply Sound.at

theorem endVector_sound (x : VecTask) {s : State} (hs : s.Sound) :
    (endVector x s).Sound := by
  unfold endVector
  try dsimp only
  with_reducible repeat' first
    | assumption | apply State.modEng_sound | apply State.putMem_sound | apply State.count_sound
    | apply State.schedule_sound | apply State.signal_sound | apply State.settleHalt_sound
    | apply State.opFailed_sound | apply State.toCycle_sound | apply writeStats_sound | apply installImage_sound
    | apply Sound.foldl | intro _ | split | dsimp only | simp only [Sound.mk_eq] | apply Sound.at

theorem execVectorTaskEnd_sound (task : Nat) {s : State} (hs : s.Sound) :
    Result.Sound (execVectorTaskEnd task s) := by
  unfold execVectorTaskEnd
  try dsimp only
  with_reducible repeat' first
    | exact trivial | apply Result.sound_next | assumption | apply endVector_sound | intro _ | split | dsimp only
    | simp only [Sound.mk_eq] | apply Sound.at

end Sys2Proof.Machine
end

