-- ==== Sys2Proof/Laws/SoundMemory.lean ====
section
/-!
SUPPORT. The invariant of Safety.lean over memory accesses, the media, migration and what DMA transfers share.
-/
namespace Sys2Proof.Machine

/-! ## Memory.lean -/

theorem ctlRecv_sound (n off : Nat) (bs img : List Byte) (k : Nat) {s : State} (h : s.Sound) :
    ∀ t, ctlRecv n off bs img k s = some t → t.Sound := by
  intro t ht
  unfold ctlRecv at ht
  dsimp only at ht
  repeat' (split at ht)
  · cases ht; exact h
  · exact hostHeadOk_sound _ _ _ h t ht
  · cases ht
  · exact recvEntryWrite_sound _ _ _ h t ht

theorem ctlWrite_sound (n off : Nat) (bs : List Byte) {s : State} (h : s.Sound) :
    ∀ t, ctlWrite n off bs s = some t → t.Sound := by
  have key : ∀ (f : Nat → State → Option State) (hf : ∀ k u v, u.Sound → f k u = some v → v.Sound) (l : List Nat)
      (o : Option State), (∀ u, o = some u → u.Sound) →
      ∀ t, l.foldl (fun o k => o.bind (f k)) o = some t → t.Sound := by
    intro f hf l
    induction l with
    | nil => exact fun o ho t ht => ho t ht
    | cons k l ih =>
      intro o ho t ht
      refine ih _ ?_ t ht
      intro u hu
      obtain ⟨w, hw, hu⟩ := Option.bind_eq_some_iff.1 hu
      exact hf _ _ _ (ho w hw) hu
  intro t ht
  unfold ctlWrite at ht
  dsimp only at ht
  split at ht
  · cases ht
  · split at ht
    · cases ht
    · refine key _ (fun k u v hu hv => ctlRecv_sound _ _ _ _ _ hu v hv) _ _ ?_ t ht
      intro u hu
      split at hu
      · refine tailWrite_sound _ _ ?_ u hu
        split
        · exact State.setStream_sound _ _ h
        · exact h
      · cases hu
        split
        · exact State.setStream_sound _ _ h
        · exact h

theorem State.keepBundle_sound {s : State} (i : Nat) (hs : s.Sound) :
    (State.keepBundle s i).Sound := by
  unfold State.keepBundle
  try dsimp only
  with_reducible repeat' first
    | assumption | apply State.modSeq_sound | intro _ | dsimp only | simp only [Sound.mk_eq] | apply Sound.at

theorem ibufWrite_sound (a : Nat) (bs : List Byte) {s : State} (hs : s.Sound) :
    (ibufWrite a bs s).Sound := by
  unfold ibufWrite
  try dsimp only
  with_reducible repeat' first
    | assumption | apply State.putMem_sound | apply State.keepBundle_sound | apply Sound.foldl | intro _ | dsimp only

theorem ownerWrite_sound (a : Nat) (bs : List Byte) {s : State} (hs : s.Sound) :
    (ownerWrite a bs s).Sound := by
  unfold ownerWrite
  try dsimp only
  with_reducible repeat' first
    | assumption | apply State.putMem_sound | intro _ | split | dsimp only

theorem syncWrite_sound (a : Nat) (bs : List Byte) {s : State} (hs : s.Sound) :
    (syncWrite a bs s).Sound := by
  unfold syncWrite
  try dsimp only
  with_reducible repeat' first
    | assumption | apply State.ySet_sound | apply State.yAdd_sound | split | dsimp only

theorem State.dirtyTile_sound {s : State} (a : Nat) (hs : s.Sound) :
    (State.dirtyTile s a).Sound := by
  unfold State.dirtyTile
  try dsimp only
  with_reducible repeat' first
    | assumption | apply State.setTile_sound | split | dsimp only | simp only [Sound.mk_eq] | apply Sound.at

theorem State.writePiece_sound {s : State} (m : Master) (a : Nat) (bs : List Byte) (st : Option Nat) (hs : s.Sound) :
    (State.writePiece s m a bs st).Sound := by
  unfold State.writePiece
  try dsimp only
  with_reducible repeat' first
    | assumption | apply State.noteTier_sound | apply State.writePhys_sound | apply State.dirtyTile_sound | split
    | dsimp only | simp only [Sound.mk_eq] | apply Sound.at

theorem State.dropHeldWrite_sound {s : State} (access : Nat) (hs : s.Sound) :
    (State.dropHeldWrite s access).Sound := by
  unfold State.dropHeldWrite
  try dsimp only
  with_reducible repeat' first
    | assumption | apply State.modMig_sound | intro _ | dsimp only | simp only [Sound.mk_eq] | apply Sound.at

theorem State.dropTickets_sound {s : State} (m : Master) (hs : s.Sound) :
    (State.dropTickets s m).Sound := by
  unfold State.dropTickets
  try dsimp only
  with_reducible repeat' first
    | assumption | apply State.modMig_sound | intro _ | dsimp only | simp only [Sound.mk_eq] | apply Sound.at

theorem pathFails_sound (m : Master) {s : State} (h : s.Sound) : (pathFails m s).Sound :=
  pathAnswer_sound m h (fun _ ht => nomatch ht)

/-- The states that a path access answers have the invariant. -/
def PathRes.Sound : PathRes → Prop
  | .done t _ => t.Sound
  | .held t => t.Sound
  | _ => True

theorem State.pathRead_sound {s : State} (m : Master) (a n : Nat) (remote : Bool) (st : Option Nat) (h : s.Sound) :
    (s.pathRead m a n remote st).Sound := by
  unfold State.pathRead
  dsimp only
  repeat' split
  all_goals first
    | trivial
    | exact h
    | exact State.noteRead_sound _ _ (State.noteTier_sound _ _ _ _ h)
    | exact State.readRing_sound _ h

theorem State.tierWrite_sound {s : State} (m : Master) (a : Nat) (bs : List Byte) (st : Option Nat) (again : Bool)
    (h : s.Sound) : (s.tierWrite m a bs st again).Sound := by
  unfold State.tierWrite
  dsimp only
  split
  · exact Sound.foldl h (fun _ _ ht => State.writePiece_sound _ _ _ _ ht)
  · exact State.addCnt_sound _ _ _ (State.takeId_sound (State.modMig_sound _
      (Sound.foldl h (fun _ _ ht => State.writePiece_sound _ _ _ _ ht))))

theorem State.pathWrite_sound {s : State} (m : Master) (a : Nat) (bs : List Byte) (st : Option Nat) (again : Bool)
    (h : s.Sound) : (s.pathWrite m a bs st again).Sound := by
  unfold State.pathWrite
  repeat' split
  all_goals first
    | trivial
    | exact h
    | exact State.dropHeldWrite_sound _ h
    | exact State.tierWrite_sound _ _ _ _ _ h
    | exact ibufWrite_sound _ _ h
    | exact syncWrite_sound _ _ h
    | exact ownerWrite_sound _ _ h
    | exact ctlWrite_sound _ _ _ h _ (by assumption)

theorem readFails_sound (m : Master) (n : Nat) {s : State} (hs : s.Sound) :
    (readFails m n s).Sound := by
  unfold readFails
  try dsimp only
  with_reducible repeat' first
    | assumption | apply State.emit_sound | apply State.count_sound | apply pathFails_sound | split | dsimp only
    | simp only [Sound.mk_eq] | apply Sound.at

theorem hostFails_sound (a : Access) {s : State} (hs : s.Sound) :
    (hostFails a s).Sound := by
  unfold hostFails
  try dsimp only
  with_reducible repeat' first
    | assumption | apply pathFails_sound | apply readFails_sound | split | dsimp only | simp only [Sound.mk_eq]
    | apply Sound.at

theorem accessPath_sound (m : Master) (a : Nat) (acc : Access) {s : State} (h : s.Sound) :
    (accessPath m a acc s).Sound := by
  unfold accessPath
  split
  · rename_i n
    have hp := State.pathRead_sound m a n false none h
    split
    · rename_i heq; rw [heq] at hp; exact State.emit_sound _ hp
    · exact h
    · exact readFails_sound _ _ h
  · rename_i bs
    have hp := State.pathWrite_sound m a bs none false h
    split
    · rename_i heq; rw [heq] at hp; exact State.emit_sound _ hp
    · rename_i heq; rw [heq] at hp; exact hp
    · exact h
    · exact pathFails_sound _ h

theorem alteredAccess_sound (m : Master) (a : Access) {s : State} (hs : s.Sound) :
    (alteredAccess m a s).Sound := by
  unfold alteredAccess
  with_reducible repeat' first
    | assumption | apply State.takeFrees_sound | apply accessPath_sound

theorem execMasterAccess_sound (m : Master) (addr : BitVec 48) (a : Access) {s : State} (hs : s.Sound) :
    Result.Sound (execMasterAccess m addr a s) := by
  unfold execMasterAccess
  with_reducible repeat' first
    | exact trivial | apply Result.sound_next | assumption | apply crossing_sound | apply accessPath_sound
    | apply alteredAccess_sound

/-! ## Media.lean -/

theorem rowFailure_sound (n : Nat) {s : State} (hs : s.Sound) :
    (rowFailure n s).Sound := by
  unfold rowFailure
  try dsimp only
  with_reducible repeat' first
    | assumption | apply State.count_sound | apply State.modArray_sound | apply State.arrayLost_sound
    | apply State.retire_sound | intro _ | split | dsimp only | simp only [Sound.mk_eq] | apply Sound.at

theorem programmed_sound (n : Nat) {s : State} (hs : s.Sound) :
    (programmed n s).Sound := by
  unfold programmed
  try dsimp only
  with_reducible repeat' first
    | assumption | apply State.modArray_sound | apply State.grantHv_sound | intro _ | dsimp only
    | simp only [Sound.mk_eq] | apply Sound.at

theorem rowPass_sound (n : Nat) {s : State} (hs : s.Sound) :
    (rowPass n s).Sound := by
  unfold rowPass
  try dsimp only
  with_reducible repeat' first
    | assumption | apply State.modArray_sound | apply State.setCells_sound | apply State.setRefs_sound
    | apply programmed_sound | intro _ | split | dsimp only | simp only [Sound.mk_eq] | apply Sound.at

theorem pulse_sound (n : Nat) (inWindow : Bool) {s : State} (hs : s.Sound) :
    (pulse n inWindow s).Sound := by
  unfold pulse
  try dsimp only
  with_reducible repeat' first
    | assumption | apply State.addCnt_sound | apply State.modArray_sound | apply rowFailure_sound
    | apply rowPass_sound | intro _ | split | dsimp only | simp only [Sound.mk_eq] | apply Sound.at

theorem execPulseVerifyLoop_sound (array : Nat) (rowInWindow : Bool) {s : State} (hs : s.Sound) :
    Result.Sound (execPulseVerifyLoop array rowInWindow s) := by
  unfold execPulseVerifyLoop
  try dsimp only
  with_reducible repeat' first
    | exact trivial | apply Result.sound_next | assumption | apply pulse_sound | split | dsimp only

theorem execArrayEraseEnd_sound (array : Nat) (verify : Bool) {s : State} (hs : s.Sound) :
    Result.Sound (execArrayEraseEnd array verify s) := by
  unfold execArrayEraseEnd
  try dsimp only
  with_reducible repeat' first
    | exact trivial | apply Result.sound_next | assumption | apply State.modArray_sound | apply State.grantHv_sound
    | apply State.arrayLost_sound | apply State.retire_sound | apply State.erased_sound | intro _ | split | dsimp only
    | simp only [Sound.mk_eq] | apply Sound.at

theorem State.warnPrograms_sound {s : State} (hs : s.Sound) :
    (State.warnPrograms s).Sound := by
  unfold State.warnPrograms
  try dsimp only
  with_reducible repeat' first
    | assumption | apply State.modArr_sound | apply State.count_sound | apply State.modArray_sound | apply Sound.foldl
    | intro _ | split | dsimp only | simp only [Sound.mk_eq] | apply Sound.at

theorem State.dropRefresh_sound {s : State} (a : Nat) (hs : s.Sound) :
    (State.dropRefresh s a).Sound := by
  unfold State.dropRefresh
  try dsimp only
  with_reducible repeat' first
    | assumption | apply State.abandon_sound | split | dsimp only | simp only [Sound.mk_eq] | apply Sound.at

theorem takeInstall_sound (id : Nat) (x : AwAddr) {s : State} (hs : s.Sound) :
    (takeInstall id x s).Sound := by
  unfold takeInstall
  try dsimp only
  with_reducible repeat' first
    | assumption | apply State.modArray_sound | apply State.makeUnavailable_sound | apply State.releaseRebuild_sound
    | apply State.setAw_sound | apply State.installTake_sound | intro _ | split | dsimp only | simp only [Sound.mk_eq]
    | apply Sound.at

theorem takeMirror_sound (id : Nat) (x : AwAddr) {s : State} (hs : s.Sound) :
    (takeMirror id x s).Sound := by
  unfold takeMirror
  try dsimp only
  with_reducible repeat' first
    | assumption | apply State.setMap_sound | apply State.releaseRebuild_sound | apply State.startProgram_sound
    | apply State.setAw_sound | intro _ | split | dsimp only | simp only [Sound.mk_eq] | apply Sound.at

theorem State.rewriteSet_sound {s : State} (id : Nat) (hs : s.Sound) :
    (State.rewriteSet s id).Sound := by
  unfold State.rewriteSet
  try dsimp only
  with_reducible repeat' first
    | assumption | apply State.modArr_sound | intro _ | split | dsimp only | simp only [Sound.mk_eq] | apply Sound.at

theorem writeLibrary_sound (id : Nat) (x : AwAddr) {s : State} (hs : s.Sound) :
    (writeLibrary id x s).Sound := by
  unfold writeLibrary
  try dsimp only
  with_reducible repeat' first
    | assumption | apply State.modMedia_sound | apply State.takeId_sound | apply State.setAw_sound | intro _
    | dsimp only | simp only [Sound.mk_eq] | apply Sound.at

theorem startWrite_sound (w : ArrayWrite) (readable : Bool) {s : State} (hs : s.Sound) :
    (startWrite w readable s).Sound := by
  unfold startWrite
  try dsimp only
  with_reducible repeat' first
    | assumption | apply State.settle_sound | apply State.dropRefresh_sound | apply takeInstall_sound
    | apply takeMirror_sound | apply State.rewriteSet_sound | apply writeLibrary_sound | apply Sound.foldl | intro _
    | split | dsimp only | simp only [Sound.mk_eq] | apply Sound.at

theorem wArrayWrite_sound (v : Nat) {s : State} (hs : s.Sound) :
    (wArrayWrite v s).2.Sound := by
  unfold wArrayWrite
  try dsimp only
  with_reducible repeat' first
    | assumption | apply State.modMedia_sound | apply State.takeId_sound | apply State.noteTier_sound
    | apply startWrite_sound | intro _ | split | dsimp only | simp only [Sound.mk_eq] | apply Sound.at
    | apply Memory.wf_puts | apply Memory.wf_clear | apply Memory.wf_filter | apply twf_tset | apply capped_tset
    | apply rest_tset | apply State.Sound.mem | apply State.Sound.host | apply State.Sound.sync
    | apply State.Sound.cnt | apply State.Sound.capped | apply State.Sound.rest | exact twf_nil | omega
    | (refine SoundAt.mk ?_ ?_ ?_ ?_ ?_ ?_)

theorem execArrayWriteInstall_sound (m : Master) (addr : DWord) {s : State} (hs : s.Sound) :
    Result.Sound (execArrayWriteInstall m addr s) := by
  unfold execArrayWriteInstall
  with_reducible repeat' first
    | exact trivial | apply Result.sound_next | assumption | apply entryWrite_sound | apply wArrayWrite_sound

theorem execArrayWriteRewrite_sound (m : Master) (addr : DWord) {s : State} (hs : s.Sound) :
    Result.Sound (execArrayWriteRewrite m addr s) := by
  unfold execArrayWriteRewrite
  with_reducible repeat' first
    | exact trivial | apply Result.sound_next | assumption | apply entryWrite_sound | apply wArrayWrite_sound

theorem endWrite_sound (w : ArrayWrite) {s : State} (hs : s.Sound) :
    (endWrite w s).Sound := by
  unfold endWrite
  try dsimp only
  with_reducible repeat' first
    | assumption | apply State.modMedia_sound | apply State.addClass_sound | apply State.signal_sound
    | apply State.writeNoted_sound | apply State.freeLibrary_sound | intro _ | split | dsimp only
    | simp only [Sound.mk_eq] | apply Sound.at

theorem execAddressRebuild_sound (addr : BitVec 14) {s : State} (hs : s.Sound) :
    Result.Sound (execAddressRebuild addr s) := by
  unfold execAddressRebuild
  try dsimp only
  with_reducible repeat' first
    | exact trivial | apply Result.sound_next | assumption | apply State.grantHv_sound | apply State.rebuildTake_sound
    | split | dsimp only | simp only [Sound.mk_eq] | apply Sound.at

theorem execStorePageProgramEnd_sound (block page : Nat) (statusOk : Bool) (last : Bool) {s : State} (hs : s.Sound) :
    Result.Sound (execStorePageProgramEnd block page statusOk last s) := by
  unfold execStorePageProgramEnd
  try dsimp only
  with_reducible repeat' first
    | exact trivial | apply Result.sound_next | assumption | apply State.modMedia_sound | apply State.count_sound
    | apply State.modBlk_sound | apply State.fillBlk_sound | apply State.failBlk_sound
    | apply State.releaseStore_sound | apply State.vacate_sound | apply commitTx_sound | intro _ | split | dsimp only
    | simp only [Sound.mk_eq] | apply Sound.at

theorem State.loseSets_sound {s : State} (block item : Nat) (hs : s.Sound) :
    (State.loseSets s block item).Sound := by
  unfold State.loseSets
  try dsimp only
  with_reducible repeat' first
    | assumption | apply State.modMedia_sound | intro _ | dsimp only | simp only [Sound.mk_eq] | apply Sound.at

theorem lostPage_sound (part : Partition) (block item : Nat) {s : State} (hs : s.Sound) :
    (lostPage part block item s).Sound := by
  unfold lostPage
  try dsimp only
  with_reducible repeat' first
    | assumption | apply State.modMedia_sound | apply State.modBoot_sound | apply State.count_sound
    | apply State.rewriteStore_sound | apply State.freeLibrary_sound | apply State.loseSets_sound | intro _ | split
    | dsimp only | simp only [Sound.mk_eq] | apply Sound.at

theorem State.resumeErases_sound {s : State} (b : Nat) (hs : s.Sound) :
    (State.resumeErases s b).Sound := by
  unfold State.resumeErases
  try dsimp only
  with_reducible repeat' first
    | assumption | apply State.modMedia_sound | intro _ | split | dsimp only | simp only [Sound.mk_eq]
    | apply Sound.at

theorem execStorePageReadEnd_sound (part : Partition) (block : Nat) (item : Nat) (correctedBits : Nat) (lost : Bool)
    {s : State} (hs : s.Sound) :
    Result.Sound (execStorePageReadEnd part block item correctedBits lost s) := by
  unfold execStorePageReadEnd
  try dsimp only
  with_reducible repeat' first
    | exact trivial | apply Result.sound_next | assumption | apply State.count_sound | apply State.rewriteStore_sound
    | apply lostPage_sound | apply State.resumeErases_sound | split | dsimp only

theorem execStoreBlockEraseEnd_sound (block : Nat) (verify : Bool) {s : State} (hs : s.Sound) :
    Result.Sound (execStoreBlockEraseEnd block verify s) := by
  unfold execStoreBlockEraseEnd
  try dsimp only
  with_reducible repeat' first
    | exact trivial | apply Result.sound_next | assumption | apply State.modBlk_sound | apply State.failBlk_sound
    | intro _ | split | dsimp only | simp only [Sound.mk_eq] | apply Sound.at

theorem execStoreEraseSuspend_sound (block : Nat) {s : State} (hs : s.Sound) :
    Result.Sound (execStoreEraseSuspend block s) := by
  unfold execStoreEraseSuspend
  try dsimp only
  with_reducible repeat' first
    | exact trivial | apply Result.sound_next | assumption | apply State.modBlk_sound | intro _ | split | dsimp only
    | simp only [Sound.mk_eq] | apply Sound.at

theorem execStoreScrub_sound {s : State} (hs : s.Sound) :
    Result.Sound (execStoreScrub s) := by
  unfold execStoreScrub
  try dsimp only
  with_reducible repeat' first
    | exact trivial | apply Result.sound_next | assumption | apply State.modMedia_sound | apply State.toTick_sound
    | intro _ | dsimp only | simp only [Sound.mk_eq] | apply Sound.at

theorem execDeepWrite_sound (m : Master) (addr : BitVec 48) (data : List Byte) {s : State} (hs : s.Sound) :
    Result.Sound (execDeepWrite m addr data s) := by
  unfold execDeepWrite
  try dsimp only
  with_reducible repeat' first
    | exact trivial | apply Result.sound_next | assumption | apply crossing_sound | apply pathFails_sound
    | apply accessPath_sound | apply alteredAccess_sound | intro _ | split | dsimp only

theorem execFtlMerge_sound (extent : BitVec 18) {s : State} (hs : s.Sound) :
    Result.Sound (execFtlMerge extent s) := by
  unfold execFtlMerge
  try dsimp only
  with_reducible repeat' first
    | exact trivial | apply Result.sound_next | assumption | apply State.relocate_sound | apply State.switchExt_sound
    | split | dsimp only | simp only [Sound.mk_eq] | apply Sound.at

theorem execWearLevelMove_sound {s : State} (hs : s.Sound) :
    Result.Sound (execWearLevelMove s) := by
  unfold execWearLevelMove
  try dsimp only
  with_reducible repeat' first
    | exact trivial | apply Result.sound_next | assumption | apply State.noteTier_sound | apply State.relocate_sound
    | apply Sound.foldl | intro _ | split | dsimp only | simp only [Sound.mk_eq] | apply Sound.at

theorem State.poisonAt_sound {s : State} (loc : Nat) (hs : s.Sound) :
    (State.poisonAt s loc).Sound := by
  unfold State.poisonAt
  try dsimp only
  with_reducible repeat' first
    | assumption | apply State.addCnt_sound | apply State.setTile_sound | intro _ | split | dsimp only
    | simp only [Sound.mk_eq] | apply Sound.at

theorem execReadDisturbRelocate_sound (block : Nat) (weak : Bool) (lostTile : Option Nat) {s : State} (hs : s.Sound) :
    Result.Sound (execReadDisturbRelocate block weak lostTile s) := by
  unfold execReadDisturbRelocate
  try dsimp only
  with_reducible repeat' first
    | exact trivial | apply Result.sound_next | assumption | apply State.addCnt_sound | apply State.count_sound
    | apply State.relocate_sound | apply State.poisonAt_sound | apply Sound.foldl | intro _ | split | dsimp only
    | simp only [Sound.mk_eq] | apply Sound.at

theorem State.retarget_sound {s : State} (b : Nat) (hs : s.Sound) :
    (State.retarget s b).Sound := by
  unfold State.retarget
  try dsimp only
  with_reducible repeat' first
    | assumption | apply State.setExt_sound | apply State.eraseNand_sound | apply Sound.foldl | intro _ | split
    | dsimp only | simp only [Sound.mk_eq] | apply Sound.at

theorem State.checkSpares_sound {s : State} (hs : s.Sound) :
    (State.checkSpares s).Sound := by
  unfold State.checkSpares
  try dsimp only
  with_reducible repeat' first
    | assumption | apply State.modMedia_sound | apply State.addClass_sound | intro _ | split | dsimp only
    | simp only [Sound.mk_eq] | apply Sound.at

theorem State.vacateBad_sound {s : State} (hs : s.Sound) :
    (State.vacateBad s).Sound := by
  unfold State.vacateBad
  try dsimp only
  with_reducible repeat' first
    | assumption | apply State.relocate_sound | apply Sound.foldl | intro _ | split | dsimp only

theorem execNandStatusFail_sound (block : Nat) (erase : Bool) {s : State} (hs : s.Sound) :
    Result.Sound (execNandStatusFail block erase s) := by
  unfold execNandStatusFail
  try dsimp only
  with_reducible repeat' first
    | exact trivial | apply Result.sound_next | assumption | apply State.count_sound | apply State.setNandBlk_sound
    | apply State.retarget_sound | apply State.checkSpares_sound | apply State.vacateBad_sound | split | dsimp only
    | simp only [Sound.mk_eq] | apply Sound.at

theorem wDeepTrim_sound (v : Nat) {s : State} (hs : s.Sound) :
    (wDeepTrim v s).2.Sound := by
  unfold wDeepTrim
  try dsimp only
  with_reducible repeat' first
    | assumption | apply State.setExt_sound | apply State.releaseBlock_sound | split | dsimp only
    | simp only [Sound.mk_eq] | apply Sound.at | apply Memory.wf_puts | apply Memory.wf_clear | apply Memory.wf_filter
    | apply twf_tset | apply capped_tset | apply rest_tset | apply State.Sound.mem | apply State.Sound.host
    | apply State.Sound.sync | apply State.Sound.cnt | apply State.Sound.capped | apply State.Sound.rest
    | exact twf_nil | omega | (refine SoundAt.mk ?_ ?_ ?_ ?_ ?_ ?_)

theorem execDeepTrim_sound (m : Master) (extent : Word) {s : State} (hs : s.Sound) :
    Result.Sound (execDeepTrim m extent s) := by
  unfold execDeepTrim
  with_reducible repeat' first
    | exact trivial | apply Result.sound_next | assumption | apply entryWrite_sound | apply wDeepTrim_sound

/-! ## Migration.lean -/

theorem State.modRec_sound {s : State} (id : Nat) (f : MoveRec → MoveRec) (hs : s.Sound) :
    (State.modRec s id f).Sound := by
  unfold State.modRec
  try dsimp only
  with_reducible repeat' first
    | assumption | apply State.modMig_sound | intro _ | dsimp only | simp only [Sound.mk_eq] | apply Sound.at

theorem State.setMove_sound {s : State} (id k : Nat) (m : TileMove) (hs : s.Sound) :
    (State.setMove s id k m).Sound := by
  unfold State.setMove
  try dsimp only
  with_reducible repeat' first
    | assumption | apply State.modRec_sound | intro _ | split | dsimp only | simp only [Sound.mk_eq] | apply Sound.at

theorem State.setHold_sound {s : State} (r : MoveRec) (hs : s.Sound) :
    (State.setHold s r).Sound := by
  unfold State.setHold
  try dsimp only
  with_reducible repeat' first
    | assumption | apply State.setObj_sound | split | dsimp only | simp only [Sound.mk_eq] | apply Sound.at

theorem acceptMove_sound (addr : Nat) (ctx : Option SlotCtx) (job : Option JobRef) {s : State} (hs : s.Sound) :
    (acceptMove addr ctx job s).Sound := by
  unfold acceptMove
  try dsimp only
  with_reducible repeat' first
    | assumption | apply State.modMig_sound | apply State.takeId_sound | apply State.settleHalt_sound
    | apply State.opFailed_sound | apply State.setHold_sound | intro _ | split | dsimp only | simp only [Sound.mk_eq]
    | apply Sound.at

theorem wMoveSubmit_sound (v : Nat) {s : State} (hs : s.Sound) :
    (wMoveSubmit v s).2.Sound := by
  unfold wMoveSubmit
  try dsimp only
  with_reducible repeat' first
    | assumption | apply acceptMove_sound | split | dsimp only

theorem execMoveSubmit_sound (m : Master) (addr : DWord) {s : State} (hs : s.Sound) :
    Result.Sound (execMoveSubmit m addr s) := by
  unfold execMoveSubmit
  with_reducible repeat' first
    | exact trivial | apply Result.sound_next | assumption | apply entryWrite_sound | apply wMoveSubmit_sound

theorem opMove_sound (prefetch : Bool) (c : SlotCtx) (reg : BitVec 5) {pre : State} {s : State} (h_pre : pre.Sound)
    (h_s : s.Sound) :
    (opMove prefetch c reg pre s).Sound := by
  unfold opMove
  try dsimp only
  with_reducible repeat' first
    | assumption | apply State.modSeq_sound | apply State.takeId_sound | apply State.raiseExc_sound
    | apply State.slotFault_sound | intro _ | split | dsimp only | simp only [Sound.mk_eq] | apply Sound.at

theorem execMigrate_sound (c : SlotCtx) (reg : BitVec 5) {s : State} (hs : s.Sound) :
    Result.Sound (execMigrate c reg s) := by
  unfold execMigrate
  try dsimp only
  with_reducible repeat' first
    | exact trivial | apply Result.sound_next | assumption | apply slotCmd_sound | apply beginStall_sound
    | apply opMove_sound | split | dsimp only

theorem execPrefetch_sound (c : SlotCtx) (reg : BitVec 5) {s : State} (hs : s.Sound) :
    Result.Sound (execPrefetch c reg s) := by
  unfold execPrefetch
  try dsimp only
  with_reducible repeat' first
    | exact trivial | apply Result.sound_next | assumption | apply slotCmd_sound | apply beginStall_sound
    | apply opMove_sound | split | dsimp only

theorem execMoveAccept_sound {s : State} (hs : s.Sound) :
    Result.Sound (execMoveAccept s) := by
  unfold execMoveAccept
  try dsimp only
  with_reducible repeat' first
    | exact trivial | apply Result.sound_next | assumption | apply State.modSeq_sound | apply State.toCycle_sound
    | apply acceptMove_sound | intro _ | split | dsimp only | simp only [Sound.mk_eq] | apply Sound.at

theorem pieceWritten_sound (h : HeldWrite) {s : State} (hs : s.Sound) :
    (pieceWritten h s).Sound := by
  unfold pieceWritten
  try dsimp only
  with_reducible repeat' first
    | assumption | apply State.modMig_sound | apply State.emit_sound | apply State.dropHeldWrite_sound | intro _
    | split | dsimp only | simp only [Sound.mk_eq] | apply Sound.at

theorem pieceAt_sound (a : Nat) (h : HeldWrite) {s : State} (hs : s.Sound) :
    (pieceAt a h s).Sound := by
  unfold pieceAt
  try dsimp only
  with_reducible repeat' first
    | assumption | apply State.writePiece_sound | apply State.dropHeldWrite_sound | apply pathFails_sound
    | apply pieceWritten_sound | split | dsimp only | simp only [Sound.mk_eq] | apply Sound.at

theorem applyPiece_sound (h : HeldWrite) {s : State} (hs : s.Sound) : (applyPiece h s).Sound := pieceAt_sound _ h hs

theorem applyHeld_sound (o k : Nat) {s : State} (hs : s.Sound) :
    (applyHeld o k s).Sound := by
  unfold applyHeld
  try dsimp only
  with_reducible repeat' first
    | assumption | apply applyPiece_sound | apply Sound.foldl | intro _ | split | dsimp only

theorem State.flushHeld_sound {s : State} (hs : s.Sound) :
    (State.flushHeld s).Sound := by
  unfold State.flushHeld
  try dsimp only
  with_reducible repeat' first
    | assumption | apply applyHeld_sound | apply Sound.foldl | intro _ | split | dsimp only

theorem State.unpin_sound {s : State} (o i : Nat) (hs : s.Sound) :
    (State.unpin s o i).Sound := by
  unfold State.unpin
  with_reducible repeat' first
    | assumption | apply State.setObj_sound | simp only [Sound.mk_eq] | apply Sound.at

theorem stopTile_sound (r : MoveRec) (k : Nat) (dest : TileMove) {s : State} (hs : s.Sound) :
    (stopTile r k dest s).Sound := by
  unfold stopTile
  try dsimp only
  with_reducible repeat' first
    | assumption | apply State.setTile_sound | apply State.setMove_sound | apply applyHeld_sound
    | apply State.unpin_sound | intro _ | split | dsimp only | simp only [Sound.mk_eq] | apply Sound.at

theorem abandonEvicts_sound (o k faster : Nat) {s : State} (hs : s.Sound) :
    (abandonEvicts o k faster s).Sound := by
  unfold abandonEvicts
  try dsimp only
  with_reducible repeat' first
    | assumption | apply State.addCnt_sound | apply stopTile_sound | apply Sound.foldl | intro _ | split | dsimp only

theorem noteDeferred_sound (id n : Nat) {s : State} (hs : s.Sound) :
    (noteDeferred id n s).Sound := by
  unfold noteDeferred
  try dsimp only
  with_reducible repeat' first
    | assumption | apply State.addCnt_sound | apply State.modRec_sound | intro _ | split | dsimp only
    | simp only [Sound.mk_eq] | apply Sound.at

theorem retestTile_sound (r : MoveRec) (k : Nat) {s : State} (hs : s.Sound) :
    (retestTile r k s).Sound := by
  unfold retestTile
  try dsimp only
  with_reducible repeat' first
    | assumption | apply State.setMove_sound | apply abandonEvicts_sound | apply noteDeferred_sound | intro _ | split
    | dsimp only | simp only [Sound.mk_eq] | apply Sound.at

theorem retestOnce_sound (o : Nat) {s : State} (hs : s.Sound) :
    (retestOnce o s).Sound := by
  unfold retestOnce
  try dsimp only
  with_reducible repeat' first
    | assumption | apply retestTile_sound | apply Sound.foldl | intro _ | split | dsimp only

theorem retestObject_sound (o : Nat) {s : State} (hs : s.Sound) :
    (retestObject o s).Sound := by
  unfold retestObject
  try dsimp only
  with_reducible repeat' first
    | assumption | apply retestOnce_sound | apply Sound.foldl | intro _ | dsimp only

theorem finishRec_sound (id status : Nat) {s : State} (hs : s.Sound) :
    (finishRec id status s).Sound := by
  unfold finishRec
  try dsimp only
  with_reducible repeat' first
    | assumption | apply State.modRec_sound | intro _ | dsimp only | simp only [Sound.mk_eq] | apply Sound.at

theorem zeroTile_sound (t i : Nat) {s : State} (hs : s.Sound) :
    (zeroTile t i s).Sound := by
  unfold zeroTile
  try dsimp only
  with_reducible repeat' first
    | assumption | apply State.ftlWrite_sound | split | dsimp only | simp only [Sound.mk_eq] | apply Sound.at
    | apply Memory.wf_puts | apply Memory.wf_clear | apply Memory.wf_filter | apply twf_tset | apply capped_tset
    | apply rest_tset | apply State.Sound.mem | apply State.Sound.host | apply State.Sound.sync
    | apply State.Sound.cnt | apply State.Sound.capped | apply State.Sound.rest | exact twf_nil | omega
    | (refine SoundAt.mk ?_ ?_ ?_ ?_ ?_ ?_)

theorem createObj_sound (r : MoveRec) {s : State} (hs : s.Sound) :
    (createObj r s).Sound := by
  unfold createObj
  try dsimp only
  with_reducible repeat' first
    | assumption | apply State.setObj_sound | apply State.setTile_sound | apply finishRec_sound | apply zeroTile_sound
    | apply Sound.foldl | intro _ | split | dsimp only | simp only [Sound.mk_eq] | apply Sound.at

theorem execCreate_sound (rec : Nat) {s : State} (hs : s.Sound) :
    Result.Sound (execCreate rec s) := by
  unfold execCreate
  try dsimp only
  with_reducible repeat' first
    | exact trivial | apply Result.sound_next | assumption | apply createObj_sound | split | dsimp only
    | simp only [Sound.mk_eq] | apply Sound.at

theorem dropMoveWrite_sound (id : Nat) {s : State} (hs : s.Sound) :
    (dropMoveWrite id s).Sound := by
  unfold dropMoveWrite
  try dsimp only
  with_reducible repeat' first
    | assumption | apply State.abandon_sound | intro _ | split | dsimp only | simp only [Sound.mk_eq] | apply Sound.at

theorem stopRec_sound (r : MoveRec) (dest : TileMove) {s : State} (hs : s.Sound) :
    (stopRec r dest s).Sound := by
  unfold stopRec
  try dsimp only
  with_reducible repeat' first
    | assumption | apply stopTile_sound | apply dropMoveWrite_sound | apply Sound.foldl | intro _ | split | dsimp only

theorem failHeld_sound (o : Nat) {s : State} (hs : s.Sound) :
    (failHeld o s).Sound := by
  unfold failHeld
  try dsimp only
  with_reducible repeat' first
    | assumption | apply State.dropHeldWrite_sound | apply pathFails_sound | apply Sound.foldl | intro _ | split
    | dsimp only

theorem destroyObj_sound (r : MoveRec) {s : State} (hs : s.Sound) :
    (destroyObj r s).Sound := by
  unfold destroyObj
  try dsimp only
  with_reducible repeat' first
    | assumption | apply State.setObj_sound | apply State.setTile_sound | apply finishRec_sound | apply stopRec_sound
    | apply failHeld_sound | apply Sound.foldl | intro _ | split | dsimp only

theorem execDestroy_sound (rec : Nat) {s : State} (hs : s.Sound) :
    Result.Sound (execDestroy rec s) := by
  unfold execDestroy
  try dsimp only
  with_reducible repeat' first
    | exact trivial | apply Result.sound_next | assumption | apply destroyObj_sound | split | dsimp only
    | simp only [Sound.mk_eq] | apply Sound.at

theorem setHints_sound (r : MoveRec) {s : State} (hs : s.Sound) :
    (setHints r s).Sound := by
  unfold setHints
  try dsimp only
  with_reducible repeat' first
    | assumption | apply State.setObj_sound | apply finishRec_sound | intro _ | split | dsimp only
    | simp only [Sound.mk_eq] | apply Sound.at

theorem execSetHints_sound (rec : Nat) {s : State} (hs : s.Sound) :
    Result.Sound (execSetHints rec s) := by
  unfold execSetHints
  try dsimp only
  with_reducible repeat' first
    | exact trivial | apply Result.sound_next | assumption | apply setHints_sound | split | dsimp only
    | simp only [Sound.mk_eq] | apply Sound.at

theorem startMoves_sound (r : MoveRec) {s : State} (hs : s.Sound) :
    (startMoves r s).Sound := by
  unfold startMoves
  try dsimp only
  with_reducible repeat' first
    | assumption | apply State.modRec_sound | apply abandonEvicts_sound | apply noteDeferred_sound
    | apply retestObject_sound | apply finishRec_sound | apply Sound.foldl | intro _ | split | dsimp only
    | simp only [Sound.mk_eq] | apply Sound.at

theorem execPromote_sound (rec : Nat) {s : State} (hs : s.Sound) :
    Result.Sound (execPromote rec s) := by
  unfold execPromote
  try dsimp only
  with_reducible repeat' first
    | exact trivial | apply Result.sound_next | assumption | apply startMoves_sound | split | dsimp only
    | simp only [Sound.mk_eq] | apply Sound.at

theorem execEvict_sound (rec : Nat) {s : State} (hs : s.Sound) :
    Result.Sound (execEvict rec s) := by
  unfold execEvict
  try dsimp only
  with_reducible repeat' first
    | exact trivial | apply Result.sound_next | assumption | apply startMoves_sound | split | dsimp only
    | simp only [Sound.mk_eq] | apply Sound.at

theorem State.beginTile_sound {s : State} (r : MoveRec) (k d : Nat) (hs : s.Sound) :
    (State.beginTile s r k d).Sound := by
  unfold State.beginTile
  try dsimp only
  with_reducible repeat' first
    | assumption | apply State.setTile_sound | apply State.setMove_sound | dsimp only | simp only [Sound.mk_eq]
    | apply Sound.at

theorem State.noteCopy_sound {s : State} (r : MoveRec) (k d : Nat) (hs : s.Sound) :
    (State.noteCopy s r k d).Sound := by
  unfold State.noteCopy
  try dsimp only
  with_reducible repeat' first
    | assumption | apply State.noteTier_sound | dsimp only

theorem startCopy_sound (r : MoveRec) (k d : Nat) {s : State} (hs : s.Sound) :
    (startCopy r k d s).Sound := by
  unfold startCopy
  with_reducible repeat' first
    | assumption | apply State.beginTile_sound | apply State.noteCopy_sound

theorem reachTile_sound (r : MoveRec) (k d : Nat) {s : State} (hs : s.Sound) :
    (reachTile r k d s).2.Sound := by
  unfold reachTile
  try dsimp only
  with_reducible repeat' first
    | assumption | apply State.setMove_sound | apply noteDeferred_sound | split | dsimp only | simp only [Sound.mk_eq]
    | apply Sound.at

theorem submitToArrays_sound (r : MoveRec) {s : State} (hs : s.Sound) :
    (submitToArrays r s).Sound := by
  unfold submitToArrays
  try dsimp only
  with_reducible repeat' first
    | assumption | apply State.takeId_sound | apply startWrite_sound | apply startCopy_sound | apply reachTile_sound
    | apply Sound.foldl | intro _ | split | dsimp only | simp only [Sound.mk_eq] | apply Sound.at
    | apply Memory.wf_puts | apply Memory.wf_clear | apply Memory.wf_filter | apply twf_tset | apply capped_tset
    | apply rest_tset | apply State.Sound.mem | apply State.Sound.host | apply State.Sound.sync
    | apply State.Sound.cnt | apply State.Sound.capped | apply State.Sound.rest | exact twf_nil | omega
    | (refine SoundAt.mk ?_ ?_ ?_ ?_ ?_ ?_)

theorem settleJoined_sound (r : MoveRec) (k : Nat) (dest : TileMove) {s : State} (hs : s.Sound) :
    (settleJoined r k dest s).Sound := by
  unfold settleJoined
  try dsimp only
  with_reducible repeat' first
    | assumption | apply State.setMove_sound | apply Sound.foldl | intro _ | split | dsimp only

theorem leaveArray_sound (addr : Nat) {s : State} (hs : s.Sound) :
    (leaveArray addr s).Sound := by
  unfold leaveArray
  try dsimp only
  with_reducible repeat' first
    | assumption | apply State.modArray_sound | apply State.makeUnavailable_sound | intro _ | split | dsimp only
    | simp only [Sound.mk_eq] | apply Sound.at

theorem commitTile_sound (r : MoveRec) (k d : Nat) {s : State} (hs : s.Sound) :
    (commitTile r k d s).Sound := by
  unfold commitTile
  try dsimp only
  with_reducible repeat' first
    | assumption | apply State.modMig_sound | apply State.addCnt_sound | apply State.setTile_sound
    | apply State.setMove_sound | apply applyHeld_sound | apply State.unpin_sound | apply retestObject_sound
    | apply settleJoined_sound | apply leaveArray_sound | intro _ | split | dsimp only | simp only [Sound.mk_eq]
    | apply Sound.at

theorem recopy_sound (r : MoveRec) (k d : Nat) {s : State} (hs : s.Sound) :
    (recopy r k d s).Sound := by
  unfold recopy
  try dsimp only
  with_reducible repeat' first
    | assumption | apply State.addCnt_sound | apply State.setTile_sound | apply State.noteCopy_sound | dsimp only
    | simp only [Sound.mk_eq] | apply Sound.at

theorem endCopy_sound (r : MoveRec) (k d : Nat) {s : State} (hs : s.Sound) :
    (endCopy r k d s).Sound := by
  unfold endCopy
  try dsimp only
  with_reducible repeat' first
    | assumption | apply State.writePhys_sound | apply commitTile_sound | apply recopy_sound | split | dsimp only
    | simp only [Sound.mk_eq] | apply Sound.at

theorem poisonTile_sound (r : MoveRec) (k : Nat) {s : State} (hs : s.Sound) :
    (poisonTile r k s).Sound := by
  unfold poisonTile
  try dsimp only
  with_reducible repeat' first
    | assumption | apply State.count_sound | apply State.setTile_sound | apply stopTile_sound
    | apply retestObject_sound | apply settleJoined_sound | dsimp only | simp only [Sound.mk_eq] | apply Sound.at

theorem retryTile_sound (r : MoveRec) (k : Nat) (retried : Bool) {s : State} (hs : s.Sound) :
    (retryTile r k retried s).Sound := by
  unfold retryTile
  try dsimp only
  with_reducible repeat' first
    | assumption | apply State.setTile_sound | apply State.setMove_sound | apply stopTile_sound
    | apply retestObject_sound | apply State.noteCopy_sound | apply settleJoined_sound | split | dsimp only
    | simp only [Sound.mk_eq] | apply Sound.at

theorem execTileCopyStart_sound {s : State} (hs : s.Sound) :
    Result.Sound (execTileCopyStart s) := by
  unfold execTileCopyStart
  try dsimp only
  with_reducible repeat' first
    | exact trivial | apply Result.sound_next | assumption | apply startCopy_sound | apply reachTile_sound
    | apply submitToArrays_sound | apply poisonTile_sound | intro _ | split | dsimp only | simp only [Sound.mk_eq]
    | apply Sound.at

theorem failWrite_sound (w : ArrayWrite) (status addr row : Nat) {s : State} (hs : s.Sound) :
    (failWrite w status addr row s).Sound := by
  unfold failWrite
  try dsimp only
  with_reducible repeat' first
    | assumption | apply State.abandon_sound | intro _ | split | dsimp only | simp only [Sound.mk_eq] | apply Sound.at

theorem endArrayCopy_sound (r : MoveRec) (k d : Nat) {s : State} (hs : s.Sound) :
    (endArrayCopy r k d s).Sound := by
  unfold endArrayCopy
  try dsimp only
  with_reducible repeat' first
    | assumption | apply State.modArr_sound | apply State.startProgram_sound | apply State.grantHv_sound
    | apply State.setAw_sound | apply recopy_sound | apply failWrite_sound | intro _ | split | dsimp only
    | simp only [Sound.mk_eq] | apply Sound.at

theorem poisonArrayTile_sound (r : MoveRec) (k : Nat) {s : State} (h : s.Sound) : (poisonArrayTile r k s).Sound := by
  have h1 : (dropMoveWrite r.id (poisonTile r k s)).Sound := dropMoveWrite_sound _ (poisonTile_sound _ _ h)
  unfold poisonArrayTile
  dsimp only
  cases (dropMoveWrite r.id (poisonTile r k s)).getRec r.id with
  | none => exact h1
  | some q =>
    refine Sound.foldl h1 (fun t p ht => ?_)
    split
    · exact stopTile_sound _ _ _ ht
    · exact ht

theorem execTileCopyEnd_sound (obj : BitVec 14) (tile : BitVec 13) (how : CopyEnd) {s : State} (hs : s.Sound) :
    Result.Sound (execTileCopyEnd obj tile how s) := by
  unfold execTileCopyEnd
  try dsimp only
  with_reducible repeat' first
    | exact trivial | apply Result.sound_next | assumption | apply endCopy_sound | apply poisonTile_sound
    | apply retryTile_sound | apply endArrayCopy_sound | apply poisonArrayTile_sound | split | dsimp only
    | simp only [Sound.mk_eq] | apply Sound.at

theorem execOldLocationRelease_sound (tier : BitVec 2) (location : Nat) {s : State} (hs : s.Sound) :
    Result.Sound (execOldLocationRelease tier location s) := by
  unfold execOldLocationRelease
  try dsimp only
  with_reducible repeat' first
    | exact trivial | apply Result.sound_next | assumption | apply State.modMig_sound | intro _ | dsimp only
    | simp only [Sound.mk_eq] | apply Sound.at

theorem State.warnCopies_sound {s : State} (hs : s.Sound) :
    (State.warnCopies s).Sound := by
  unfold State.warnCopies
  try dsimp only
  with_reducible repeat' first
    | assumption | apply State.addCnt_sound | apply State.addClass_sound | split | dsimp only

theorem State.restartCopies_sound {s : State} (hs : s.Sound) :
    (State.restartCopies s).Sound := by
  unfold State.restartCopies
  try dsimp only
  with_reducible repeat' first
    | assumption | apply State.setTile_sound | apply State.noteCopy_sound | apply Sound.foldl | intro _ | split
    | dsimp only | simp only [Sound.mk_eq] | apply Sound.at

theorem endRec_sound (r : MoveRec) {s : State} (hs : s.Sound) :
    (endRec r s).Sound := by
  unfold endRec
  try dsimp only
  with_reducible repeat' first
    | assumption | apply State.modMig_sound | apply State.count_sound | apply State.signal_sound
    | apply State.writePhys_sound | intro _ | split | dsimp only | simp only [Sound.mk_eq] | apply Sound.at

theorem execMoveResultWrite_sound (rec : Nat) {s : State} (hs : s.Sound) :
    Result.Sound (execMoveResultWrite rec s) := by
  unfold execMoveResultWrite
  try dsimp only
  with_reducible repeat' first
    | exact trivial | apply Result.sound_next | assumption | apply endRec_sound | split | dsimp only
    | simp only [Sound.mk_eq] | apply Sound.at

theorem State.dropHold_sound {s : State} (o : Nat) (hs : s.Sound) :
    (State.dropHold s o).Sound := by
  unfold State.dropHold
  with_reducible repeat' first
    | assumption | apply State.setObj_sound | apply retestObject_sound

theorem execHoldEnd_sound (obj : BitVec 14) {s : State} (hs : s.Sound) :
    Result.Sound (execHoldEnd obj s) := by
  unfold execHoldEnd
  try dsimp only
  with_reducible repeat' first
    | exact trivial | apply Result.sound_next | assumption | apply State.dropHold_sound | split | dsimp only

theorem execHoldLimitExpiry_sound (obj : BitVec 14) {s : State} (hs : s.Sound) :
    Result.Sound (execHoldLimitExpiry obj s) := by
  unfold execHoldLimitExpiry
  try dsimp only
  with_reducible repeat' first
    | exact trivial | apply Result.sound_next | assumption | apply State.addCnt_sound | apply State.toTick_sound
    | apply State.dropHold_sound | split | dsimp only

theorem State.clearHolds_sound {s : State} (hs : s.Sound) :
    (State.clearHolds s).Sound := by
  unfold State.clearHolds
  try dsimp only
  with_reducible repeat' first
    | assumption | apply State.setObj_sound | apply Sound.foldl | intro _ | split | dsimp only

theorem State.abandonMoves_sound {s : State} (hs : s.Sound) :
    (State.abandonMoves s).Sound := by
  unfold State.abandonMoves
  try dsimp only
  with_reducible repeat' first
    | assumption | apply stopRec_sound | apply endRec_sound | apply Sound.foldl | intro _ | split | dsimp only
    | simp only [Sound.mk_eq] | apply Sound.at

theorem resubmit_sound (r : MoveRec) (k d : Nat) {s : State} (hs : s.Sound) :
    (resubmit r k d s).Sound := by
  unfold resubmit
  try dsimp only
  with_reducible repeat' first
    | assumption | apply State.addCnt_sound | apply State.setTile_sound | apply State.setMove_sound | dsimp only
    | simp only [Sound.mk_eq] | apply Sound.at

theorem endArrayMove_sound (w : ArrayWrite) (r : MoveRec) {s : State} (hs : s.Sound) :
    (endArrayMove w r s).Sound := by
  unfold endArrayMove
  try dsimp only
  with_reducible repeat' first
    | assumption | apply stopTile_sound | apply retestObject_sound | apply settleJoined_sound | apply commitTile_sound
    | apply resubmit_sound | apply Sound.foldl | intro _ | split | dsimp only | simp only [Sound.mk_eq]
    | apply Sound.at

theorem execArrayWriteResult_sound (write : Nat) {s : State} (hs : s.Sound) :
    Result.Sound (execArrayWriteResult write s) := by
  unfold execArrayWriteResult
  try dsimp only
  with_reducible repeat' first
    | exact trivial | apply Result.sound_next | assumption | apply endWrite_sound | apply endArrayMove_sound | intro _
    | split | dsimp only | simp only [Sound.mk_eq] | apply Sound.at

/-! ## Transfer.lean -/

theorem State.modChan_sound {s : State} (k : Nat) (f : Chan → Chan) (hs : s.Sound) :
    (State.modChan s k f).Sound := by
  unfold State.modChan
  try dsimp only
  with_reducible repeat' first
    | assumption | apply State.modDma_sound | intro _ | dsimp only | simp only [Sound.mk_eq] | apply Sound.at

theorem State.modFront_sound {s : State} (f : Desc → Desc) (hs : s.Sound) :
    (State.modFront s f).Sound := by
  unfold State.modFront
  try dsimp only
  with_reducible repeat' first
    | assumption | apply State.modChan_sound | intro _ | split | dsimp only | simp only [Sound.mk_eq] | apply Sound.at

theorem State.modRun_sound {s : State} (f : DmaRun → DmaRun) (hs : s.Sound) :
    (State.modRun s f).Sound := by
  unfold State.modRun
  try dsimp only
  with_reducible repeat' first
    | assumption | apply State.modDma_sound | intro _ | dsimp only | simp only [Sound.mk_eq] | apply Sound.at

theorem dmaFail_sound (code : Nat) {s : State} (hs : s.Sound) :
    (dmaFail code s).Sound := by
  unfold dmaFail
  try dsimp only
  with_reducible repeat' first
    | assumption | apply State.dropTickets_sound | apply State.modFront_sound | intro _ | dsimp only
    | simp only [Sound.mk_eq] | apply Sound.at

theorem dmaAdvance_sound (n : Nat) {s : State} (hs : s.Sound) :
    (dmaAdvance n s).Sound := by
  unfold dmaAdvance
  try dsimp only
  with_reducible repeat' first
    | assumption | apply State.modFront_sound | intro _ | dsimp only | simp only [Sound.mk_eq] | apply Sound.at

theorem dmaHold_sound {s : State} (hs : s.Sound) :
    (dmaHold s).Sound := by
  unfold dmaHold
  try dsimp only
  with_reducible repeat' first
    | assumption | apply State.addCnt_sound | apply State.count_sound | apply State.modRun_sound | intro _ | split
    | dsimp only | simp only [Sound.mk_eq] | apply Sound.at

theorem dmaUnhold_sound {s : State} (hs : s.Sound) :
    (dmaUnhold s).Sound := by
  unfold dmaUnhold
  try dsimp only
  with_reducible repeat' first
    | assumption | apply State.noteHold_sound | apply State.modRun_sound | intro _ | split | dsimp only
    | simp only [Sound.mk_eq] | apply Sound.at

theorem answerDma_sound (tag : BitVec 16) (write ok : Bool) (data : List Byte) {s : State} (hs : s.Sound) :
    (answerDma tag write ok data s).Sound := by
  unfold answerDma
  try dsimp only
  with_reducible repeat' first
    | assumption | apply State.modRun_sound | apply dmaFail_sound | apply dmaAdvance_sound | apply dmaUnhold_sound
    | intro _ | split | dsimp only | simp only [Sound.mk_eq] | apply Sound.at

end Sys2Proof.Machine
end

