-- ==== Sys2Proof/Laws/SoundCascade.lean ====
section
/-!
SUPPORT. The invariant of Safety.lean over the cascade, lockstep and the DMA engine.
-/
namespace Sys2Proof.Machine

/-! ## Cascade.lean -/

theorem State.setRole_sound {s : State} (r : Nat) (e : MapRole) (hs : s.Sound) :
    (State.setRole s r e).Sound := by
  unfold State.setRole
  try dsimp only
  with_reducible repeat' first
    | assumption | apply State.modCasc_sound | intro _ | dsimp only | simp only [Sound.mk_eq] | apply Sound.at

theorem State.fixMasters_sound {s : State} (hs : s.Sound) :
    (State.fixMasters s).Sound := by
  unfold State.fixMasters
  try dsimp only
  with_reducible repeat' first
    | assumption | apply State.setRole_sound | apply Sound.foldl | intro _ | dsimp only | simp only [Sound.mk_eq]
    | apply Sound.at

theorem holdRemotes_sound (k : Nat) {s : State} (hs : s.Sound) :
    (holdRemotes k s).Sound := by
  unfold holdRemotes
  try dsimp only
  with_reducible repeat' first
    | assumption | apply State.modCasc_sound | apply State.addCnt_sound | apply dmaHold_sound | intro _ | split
    | dsimp only | simp only [Sound.mk_eq] | apply Sound.at

theorem unholdRemotes_sound (k : Nat) {s : State} (hs : s.Sound) :
    (unholdRemotes k s).Sound := by
  unfold unholdRemotes
  try dsimp only
  with_reducible repeat' first
    | assumption | apply State.modCasc_sound | apply State.noteHold_sound | apply dmaUnhold_sound | apply Sound.foldl
    | intro _ | split | dsimp only | simp only [Sound.mk_eq] | apply Sound.at

theorem State.reroute_sound {s : State} (hs : s.Sound) :
    (State.reroute s).Sound := by
  unfold State.reroute
  try dsimp only
  with_reducible repeat' first
    | assumption | apply State.modCasc_sound | apply State.flushSends_sound | apply Sound.foldl | intro _ | dsimp only
    | simp only [Sound.mk_eq] | apply Sound.at

theorem execRouteChangeWaitEnd_sound (role : BitVec 5) {s : State} (hs : s.Sound) :
    Result.Sound (execRouteChangeWaitEnd role s) := by
  unfold execRouteChangeWaitEnd
  try dsimp only
  with_reducible repeat' first
    | exact trivial | apply Result.sound_next | assumption | apply State.modCasc_sound | apply State.toTick_sound
    | apply State.flushSends_sound | intro _ | split | dsimp only | simp only [Sound.mk_eq] | apply Sound.at

theorem State.restartWatch_sound {s : State} (hs : s.Sound) :
    (State.restartWatch s).Sound := by
  unfold State.restartWatch
  try dsimp only
  with_reducible repeat' first
    | assumption | apply State.modCasc_sound | intro _ | split | dsimp only | simp only [Sound.mk_eq] | apply Sound.at

theorem State.dropRecords_sound {s : State} (n e : Nat) (hs : s.Sound) :
    (State.dropRecords s n e).Sound := by
  unfold State.dropRecords
  try dsimp only
  with_reducible repeat' first
    | assumption | apply State.modCasc_sound | intro _ | dsimp only | simp only [Sound.mk_eq] | apply Sound.at

theorem cutReceiver_sound (k : Option Nat) (n e : Nat) {s : State} (hs : s.Sound) :
    (cutReceiver k n e s).Sound := by
  unfold cutReceiver
  try dsimp only
  with_reducible repeat' first
    | assumption | apply State.addCnt_sound | apply State.modStream_sound | apply State.modFar_sound
    | apply detach_sound | apply State.dropRecords_sound | intro _ | split | dsimp only | simp only [Sound.mk_eq]
    | apply Sound.at

theorem cutReceivers_sound (k : Option Nat) (crosses : Nat → Bool) {s : State} (hs : s.Sound) :
    (cutReceivers k crosses s).Sound := by
  unfold cutReceivers
  try dsimp only
  with_reducible repeat' first
    | assumption | apply cutReceiver_sound | apply Sound.foldl | intro _ | split | dsimp only

theorem noteSilent_sound (r : Nat) {s : State} (hs : s.Sound) :
    (noteSilent r s).Sound := by
  unfold noteSilent
  try dsimp only
  with_reducible repeat' first
    | assumption | apply State.modCasc_sound | intro _ | split | dsimp only | simp only [Sound.mk_eq] | apply Sound.at

theorem rebind_sound {s : State} (hs : s.Sound) :
    (rebind s).Sound := by
  unfold rebind
  try dsimp only
  with_reducible repeat' first
    | assumption | apply State.send_sound | apply Sound.foldl | intro _ | split | dsimp only

theorem linkLost_sound (ends : List Word) {s : State} (hs : s.Sound) :
    (linkLost ends s).Sound := by
  unfold linkLost
  try dsimp only
  with_reducible repeat' first
    | assumption | apply State.reroute_sound | apply noteSilent_sound | apply rebind_sound | apply Sound.foldl
    | intro _ | split | dsimp only

theorem portDown_sound (k : Nat) {s : State} (hs : s.Sound) :
    (portDown k s).Sound := by
  unfold portDown
  try dsimp only
  with_reducible repeat' first
    | assumption | apply State.modCasc_sound | apply State.count_sound | apply State.modPort_sound
    | apply cutReceivers_sound | apply linkLost_sound | intro _ | split | dsimp only | simp only [Sound.mk_eq]
    | apply Sound.at

theorem State.setLink_sound {s : State} (l : FarLink) (st : PortState) (hs : s.Sound) :
    (State.setLink s l st).Sound := by
  unfold State.setLink
  try dsimp only
  with_reducible repeat' first
    | assumption | apply State.modCasc_sound | intro _ | dsimp only | simp only [Sound.mk_eq] | apply Sound.at

theorem execLinkDown_sound (link : LinkRef) {s : State} (hs : s.Sound) :
    Result.Sound (execLinkDown link s) := by
  unfold execLinkDown
  try dsimp only
  with_reducible repeat' first
    | exact trivial | apply Result.sound_next | assumption | apply cutReceivers_sound | apply linkLost_sound
    | apply portDown_sound | apply State.setLink_sound | intro _ | split | dsimp only | simp only [Sound.mk_eq]
    | apply Sound.at

theorem execCascadePortRetry_sound (port : Fin 4) {s : State} (hs : s.Sound) :
    Result.Sound (execCascadePortRetry port s) := by
  unfold execCascadePortRetry
  try dsimp only
  with_reducible repeat' first
    | exact trivial | apply Result.sound_next | assumption | apply State.trainPort_sound | split | dsimp only

theorem State.forwardRecords_sound {s : State} (hs : s.Sound) :
    (State.forwardRecords s).Sound := by
  unfold State.forwardRecords
  try dsimp only
  with_reducible repeat' first
    | assumption | apply State.modCasc_sound | apply State.emit_sound | apply Sound.foldl | intro _ | split
    | dsimp only | simp only [Sound.mk_eq] | apply Sound.at

theorem hearRecord_sound (k : Nat) (r : TrainRec) (at_ : Word) (atPort : BitVec 2) (delay : BitVec 8) {s : State}
    (hs : s.Sound) :
    (hearRecord k r at_ atPort delay s).Sound := by
  unfold hearRecord
  try dsimp only
  with_reducible repeat' first
    | assumption | apply State.modCasc_sound | apply State.setLink_sound | apply State.forwardRecords_sound | intro _
    | split | dsimp only | simp only [Sound.mk_eq] | apply Sound.at

theorem trainStep_sound (k : Nat) (step : TrainStep) {s : State} (hs : s.Sound) :
    (trainStep k step s).Sound := by
  unfold trainStep
  try dsimp only
  with_reducible repeat' first
    | assumption | apply State.emit_sound | apply State.modPort_sound | apply portDown_sound | intro _ | split
    | dsimp only | simp only [Sound.mk_eq] | apply Sound.at

theorem execLinkTraining_sound (port : Fin 4) (step : TrainStep) {s : State} (hs : s.Sound) :
    Result.Sound (execLinkTraining port step s) := by
  unfold execLinkTraining
  try dsimp only
  with_reducible repeat' first
    | exact trivial | apply Result.sound_next | assumption | apply hearRecord_sound | apply trainStep_sound | split
    | dsimp only | simp only [Sound.mk_eq] | apply Sound.at

theorem recheckStart_sound (r : BitVec 5) {s : State} (hs : s.Sound) :
    (recheckStart r s).Sound := by
  unfold recheckStart
  try dsimp only
  with_reducible repeat' first
    | assumption | apply State.send_sound | split | dsimp only

theorem resend_sound (k : Nat) {s : State} (hs : s.Sound) :
    (resend k s).Sound := by
  unfold resend
  try dsimp only
  with_reducible repeat' first
    | assumption | apply State.sendFlit_sound | apply Sound.foldl | intro _ | dsimp only

theorem State.fixPeers_sound {s : State} (hs : s.Sound) :
    (State.fixPeers s).Sound := by
  unfold State.fixPeers
  try dsimp only
  with_reducible repeat' first
    | assumption | apply State.modPort_sound | apply Sound.foldl | intro _ | split | dsimp only
    | simp only [Sound.mk_eq] | apply Sound.at

theorem reportShade_sound (k : Nat) (r : BitVec 5) {s : State} (hs : s.Sound) :
    (reportShade k r s).Sound := by
  unfold reportShade
  try dsimp only
  with_reducible repeat' first
    | assumption | apply State.emit_sound | apply recheckStart_sound | split | dsimp only

theorem portUp_sound (k : Nat) {s : State} (hs : s.Sound) :
    (portUp k s).Sound := by
  unfold portUp
  try dsimp only
  with_reducible repeat' first
    | assumption | apply State.modCasc_sound | apply State.addClass_sound | apply State.modPort_sound
    | apply unholdRemotes_sound | apply State.reroute_sound | apply State.restartWatch_sound | apply rebind_sound
    | apply State.forwardRecords_sound | apply resend_sound | apply reportShade_sound | intro _ | split | dsimp only
    | simp only [Sound.mk_eq] | apply Sound.at

theorem endSuspension_sound (roles : List Nat) {s : State} (hs : s.Sound) :
    (endSuspension roles s).Sound := by
  unfold endSuspension
  try dsimp only
  with_reducible repeat' first
    | assumption | apply State.modCasc_sound | apply Sound.foldl | intro _ | dsimp only | simp only [Sound.mk_eq]
    | apply Sound.at

theorem execLinkUp_sound (link : LinkRef) {s : State} (hs : s.Sound) :
    Result.Sound (execLinkUp link s) := by
  unfold execLinkUp
  try dsimp only
  with_reducible repeat' first
    | exact trivial | apply Result.sound_next | assumption | apply State.reroute_sound | apply rebind_sound
    | apply State.setLink_sound | apply portUp_sound | apply endSuspension_sound | split | dsimp only
    | simp only [Sound.mk_eq] | apply Sound.at

theorem retrainPort_sound (k : Nat) {s : State} (hs : s.Sound) :
    (retrainPort k s).Sound := by
  unfold retrainPort
  try dsimp only
  with_reducible repeat' first
    | assumption | apply State.count_sound | apply State.modPort_sound | apply State.trainPort_sound
    | apply holdRemotes_sound | intro _ | split | dsimp only | simp only [Sound.mk_eq] | apply Sound.at

theorem execRetrain_sound (port : Fin 4) {s : State} (hs : s.Sound) :
    Result.Sound (execRetrain port s) := by
  unfold execRetrain
  with_reducible repeat' first
    | exact trivial | apply Result.sound_next | assumption | apply retrainPort_sound

theorem takeAck_sound (k : Nat) (ackV : Bool) (ack : BitVec 12) {s : State} (hs : s.Sound) :
    (takeAck k ackV ack s).Sound := by
  unfold takeAck
  try dsimp only
  with_reducible repeat' first
    | assumption | apply State.modPort_sound | apply received_sound | apply unholdRemotes_sound | apply Sound.foldl
    | intro _ | split | dsimp only | simp only [Sound.mk_eq] | apply Sound.at

theorem takeCredits_sound (k : Nat) (c : BitVec 8) (req rsp : BitVec 12) {s : State} (hs : s.Sound) :
    (takeCredits k c req rsp s).Sound := by
  unfold takeCredits
  try dsimp only
  with_reducible repeat' first
    | assumption | apply State.modPort_sound | apply State.flushSends_sound | intro _ | dsimp only
    | simp only [Sound.mk_eq] | apply Sound.at

theorem sendNak_sound (k : Nat) {s : State} (hs : s.Sound) :
    (sendNak k s).Sound := by
  unfold sendNak
  try dsimp only
  with_reducible repeat' first
    | assumption | apply State.modPort_sound | apply State.sendIdle_sound | intro _ | split | dsimp only
    | simp only [Sound.mk_eq] | apply Sound.at

theorem replayPort_sound (k : Nat) {s : State} (hs : s.Sound) :
    (replayPort k s).Sound := by
  unfold replayPort
  try dsimp only
  with_reducible repeat' first
    | assumption | apply State.count_sound | apply State.modPort_sound | apply holdRemotes_sound | apply resend_sound
    | apply retrainPort_sound | intro _ | split | dsimp only | simp only [Sound.mk_eq] | apply Sound.at

theorem takeLink_sound (k : Nat) (w : BitVec 1024) {s : State} (hs : s.Sound) :
    (takeLink k w s).Sound := by
  unfold takeLink
  try dsimp only
  with_reducible repeat' first
    | assumption | apply takeAck_sound | apply takeCredits_sound | apply replayPort_sound | split | dsimp only

theorem recvFlit_sound (k : Nat) (w : BitVec 1024) {s : State} (hs : s.Sound) :
    (recvFlit k w s).Sound := by
  unfold recvFlit
  try dsimp only
  with_reducible repeat' first
    | assumption | apply State.modPort_sound | apply State.sendIdle_sound | apply retrainPort_sound
    | apply sendNak_sound | apply takeLink_sound | apply Sound.foldl | intro _ | split | dsimp only
    | simp only [Sound.mk_eq] | apply Sound.at

theorem execDataFlit_sound (port : Fin 4) (flit : BitVec 1024) {s : State} (hs : s.Sound) :
    Result.Sound (execDataFlit port flit s) := by
  unfold execDataFlit
  with_reducible repeat' first
    | exact trivial | apply Result.sound_next | assumption | apply recvFlit_sound

theorem execIdleFlit_sound (port : Fin 4) (flit : BitVec 1024) {s : State} (hs : s.Sound) :
    Result.Sound (execIdleFlit port flit s) := by
  unfold execIdleFlit
  with_reducible repeat' first
    | exact trivial | apply Result.sound_next | assumption | apply recvFlit_sound

theorem execNak_sound (port : Fin 4) (ack : BitVec 12) {s : State} (hs : s.Sound) :
    Result.Sound (execNak port ack s) := by
  unfold execNak
  try dsimp only
  with_reducible repeat' first
    | exact trivial | apply Result.sound_next | assumption | apply takeAck_sound | apply replayPort_sound | split
    | dsimp only

theorem execReplayTimeout_sound (port : Fin 4) {s : State} (hs : s.Sound) :
    Result.Sound (execReplayTimeout port s) := by
  unfold execReplayTimeout
  try dsimp only
  with_reducible repeat' first
    | exact trivial | apply Result.sound_next | assumption | apply replayPort_sound | split | dsimp only

theorem quarantine_sound (k : Nat) (p : Pkt) {s : State} (hs : s.Sound) :
    (quarantine k p s).Sound := by
  unfold quarantine
  try dsimp only
  with_reducible repeat' first
    | assumption | apply State.count_sound | apply State.modPort_sound | apply State.reroute_sound
    | apply reportShade_sound | intro _ | split | dsimp only | simp only [Sound.mk_eq] | apply Sound.at

theorem farShade_sound (n : Word) (k : BitVec 2) (r : BitVec 5) {s : State} (hs : s.Sound) :
    (farShade n k r s).Sound := by
  unfold farShade
  try dsimp only
  with_reducible repeat' first
    | assumption | apply State.modCasc_sound | apply State.reroute_sound | apply recheckStart_sound
    | apply quarantine_sound | intro _ | split | dsimp only | simp only [Sound.mk_eq] | apply Sound.at

theorem execStaleEpochPacket_sound (at_ : PortAt) (p : Pkt) {s : State} (hs : s.Sound) :
    Result.Sound (execStaleEpochPacket at_ p s) := by
  unfold execStaleEpochPacket
  try dsimp only
  with_reducible repeat' first
    | exact trivial | apply Result.sound_next | assumption | apply State.freeUnits_sound | apply quarantine_sound
    | apply farShade_sound | split | dsimp only | simp only [Sound.mk_eq] | apply Sound.at

theorem recvPkt_sound (k : Nat) (t : BitVec 4) (p : Pkt) (data : List Byte) {handle : State → State} {s : State}
    (h : s.Sound) (hh : ∀ u, u.Sound → (handle u).Sound) : (recvPkt k t p data handle s).Sound := by
  unfold recvPkt
  have hu : (s.freeUnits k (chanOf p.ptype) (1 + p.units.toNat)).Sound := State.freeUnits_sound _ _ _ h
  dsimp only
  repeat' split
  · exact h
  · exact discardPkt_sound hu
  · exact h
  · exact quarantine_sound _ _ hu
  · exact hu
  · exact hh _ hu
  · exact discardPkt_sound hu
  · exact State.sendPkt_sound _ h

theorem State.reply_sound {s : State} (t : BitVec 4) (p : Pkt) (arg : Nat) (data : List Byte := []) (hs : s.Sound) :
    (State.reply s t p arg data).Sound := by
  unfold State.reply
  with_reducible repeat' first
    | assumption | apply State.send_sound

theorem writeHere_sound (p : Pkt) (data : List Byte) {s0 s : State} (h0 : s0.Sound) (h : s.Sound) :
    (writeHere p data s0 s).Sound := by
  have hp := State.pathWrite_sound (.peer p.arg) p.addr.toNat (data.take (16 * p.units.toNat)) none true h
  unfold writeHere
  split
  · rename_i heq; rw [heq] at hp; exact State.reply_sound _ _ _ _ hp
  · exact h0
  · rename_i heq; rw [heq] at hp; exact hp
  · exact State.reply_sound _ _ _ _ h
  · exact State.reply_sound _ _ _ _ h

theorem readHere_sound (p : Pkt) {s0 s : State} (h0 : s0.Sound) (h : s.Sound) : (readHere p s0 s).Sound := by
  have key : ∀ t : State, t.Sound → (if 16 < p.arg.toNat then discardPkt t
      else match t.pathRead (.peer p.arg) p.addr.toNat (16 * p.arg.toNat) with
        | .done u d => u.reply ptReadRsp p 0 d
        | .waits | .held _ => s0
        | .fails | .gated => t.reply ptReadRsp p 1).Sound := by
    intro t ht
    have hp := State.pathRead_sound (.peer p.arg) p.addr.toNat (16 * p.arg.toNat) false none ht
    split
    · exact discardPkt_sound ht
    · split
      · rename_i heq; rw [heq] at hp; exact State.reply_sound _ _ _ _ hp
      · exact h0
      · exact h0
      · exact State.reply_sound _ _ _ _ ht
      · exact State.reply_sound _ _ _ _ ht
  unfold readHere
  apply key
  split
  · exact State.restartWatch_sound h
  · exact h

theorem execCascadeWrite_sound (port : Fin 4) (p : Pkt) (data : List Byte) {s : State} (h : s.Sound) :
    Result.Sound (execCascadeWrite port p data s) :=
  crossing_sound h (fun _ ht => recvPkt_sound _ _ _ _ ht (fun _ hu => writeHere_sound _ _ ht hu))
    (fun _ ht => recvPkt_sound _ _ _ _ (State.takeFrees_sound _ ht) (fun _ hu => writeHere_sound _ _ ht hu))

theorem execCascadeRead_sound (port : Fin 4) (p : Pkt) {s : State} (h : s.Sound) :
    Result.Sound (execCascadeRead port p s) :=
  crossing_sound h (fun _ ht => recvPkt_sound _ _ _ _ ht (fun _ hu => readHere_sound _ ht hu))
    (fun _ ht => recvPkt_sound _ _ _ _ (State.takeFree_sound ht) (fun _ hu => readHere_sound _ ht hu))

theorem endRemote_sound (r : Remote) (ok : Bool) (data : List Byte) {s : State} (hs : s.Sound) :
    (endRemote r ok data s).Sound := by
  unfold endRemote
  try dsimp only
  with_reducible repeat' first
    | assumption | apply State.modCasc_sound | apply State.emit_sound | apply State.noteHold_sound
    | apply pathFails_sound | apply readFails_sound | apply answerDma_sound | intro _ | split | dsimp only
    | simp only [Sound.mk_eq] | apply Sound.at

theorem execReadRsp_sound (port : Fin 4) (p : Pkt) (data : List Byte) {s : State} (hs : s.Sound) :
    Result.Sound (execReadRsp port p data s) := by
  unfold execReadRsp
  try dsimp only
  with_reducible repeat' first
    | exact trivial | apply Result.sound_next | assumption | apply recvPkt_sound | apply endRemote_sound | intro _
    | split | dsimp only | simp only [Sound.mk_eq] | apply Sound.at

theorem execWriteAck_sound (port : Fin 4) (p : Pkt) {s : State} (hs : s.Sound) :
    Result.Sound (execWriteAck port p s) := by
  unfold execWriteAck
  try dsimp only
  with_reducible repeat' first
    | exact trivial | apply Result.sound_next | assumption | apply recvPkt_sound | apply endRemote_sound | intro _
    | split | dsimp only | simp only [Sound.mk_eq] | apply Sound.at

theorem execRemoteTimeout_sound (tag : BitVec 16) {s : State} (hs : s.Sound) :
    Result.Sound (execRemoteTimeout tag s) := by
  unfold execRemoteTimeout
  try dsimp only
  with_reducible repeat' first
    | exact trivial | apply Result.sound_next | assumption | apply State.toTick_sound | apply endRemote_sound
    | intro _ | split | dsimp only | simp only [Sound.mk_eq] | apply Sound.at

theorem startRemote_sound (role : BitVec 5) (write : Bool) (who : Requester) (addr want : Nat) (data : List Byte)
    {s : State} (hs : s.Sound) :
    (startRemote role write who addr want data s).Sound := by
  unfold startRemote
  try dsimp only
  with_reducible repeat' first
    | assumption | apply State.modCasc_sound | apply State.takeId_sound | apply State.send_sound | intro _ | split
    | dsimp only | simp only [Sound.mk_eq] | apply Sound.at

theorem execCascadeSignal_sound (port : Fin 4) (p : Pkt) {s : State} (hs : s.Sound) :
    Result.Sound (execCascadeSignal port p s) := by
  unfold execCascadeSignal
  try dsimp only
  with_reducible repeat' first
    | exact trivial | apply Result.sound_next | assumption | apply State.signalBy_sound | apply recvPkt_sound
    | intro _ | dsimp only

theorem execRingRec_sound (port : Fin 4) (p : Pkt) (data : List Byte) {s : State} (hs : s.Sound) :
    Result.Sound (execRingRec port p data s) := by
  unfold execRingRec
  try dsimp only
  with_reducible repeat' first
    | exact trivial | apply Result.sound_next | assumption | apply discardPkt_sound | apply enqueue_sound
    | apply recvPkt_sound | intro _ | split | dsimp only

theorem ringCredit_sound (p : Pkt) {t : State} (hs : t.Sound) :
    (ringCredit p t).Sound := by
  unfold ringCredit
  try dsimp only
  with_reducible repeat' first
    | assumption | apply State.modFar_sound | apply State.answerLate_sound | apply applyEnable_sound
    | apply refuseEnable_sound | intro _ | split | dsimp only | simp only [Sound.mk_eq] | apply Sound.at

theorem execRingBind_sound (port : Fin 4) (p : Pkt) {s : State} (hs : s.Sound) :
    Result.Sound (execRingBind port p s) := by
  unfold execRingBind
  try dsimp only
  with_reducible repeat' first
    | exact trivial | apply Result.sound_next | assumption | apply State.modCasc_sound | apply State.send_sound
    | apply State.answer_sound | apply recvPkt_sound | intro _ | split | dsimp only | simp only [Sound.mk_eq]
    | apply Sound.at

theorem execProbe_sound (port : Fin 4) (p : Pkt) {s : State} (hs : s.Sound) :
    Result.Sound (execProbe port p s) := by
  unfold execProbe
  try dsimp only
  with_reducible repeat' first
    | exact trivial | apply Result.sound_next | assumption | apply endWait_sound | apply State.sendProbe_sound
    | apply recvPkt_sound | apply Sound.foldl | intro _ | split | dsimp only | simp only [Sound.mk_eq]
    | apply Sound.at

theorem lockFail_sound (detail : Nat) {s : State} (hs : s.Sound) :
    (lockFail detail s).Sound := by
  unfold lockFail
  try dsimp only
  with_reducible repeat' first
    | assumption | apply State.rankHaltAll_sound | apply State.applyDue_sound | split | dsimp only

theorem fenceRole_sound (r : Nat) (was : MapRole) {s : State} (hs : s.Sound) :
    (fenceRole r was s).Sound := by
  unfold fenceRole
  try dsimp only
  with_reducible repeat' first
    | assumption | apply State.modCasc_sound | apply State.addCnt_sound | apply State.modStream_sound
    | apply State.rankHaltAll_sound | apply State.modFar_sound | apply fenceRecv_sound | apply State.dropRecords_sound
    | apply Sound.foldl | intro _ | split | dsimp only | simp only [Sound.mk_eq] | apply Sound.at

theorem tellEpoch_sound (r : Nat) (dest : List Nat) {s : State} (hs : s.Sound) :
    (tellEpoch r dest s).Sound := by
  unfold tellEpoch
  try dsimp only
  with_reducible repeat' first
    | assumption | apply State.send_sound | apply Sound.foldl | intro _ | dsimp only

theorem declareDead_sound (r : Nat) {s : State} (hs : s.Sound) :
    (declareDead r s).Sound := by
  unfold declareDead
  try dsimp only
  with_reducible repeat' first
    | assumption | apply State.modCasc_sound | apply State.count_sound | apply abortRole_sound
    | apply State.setRole_sound | apply State.fixMasters_sound | apply fenceRole_sound | apply tellEpoch_sound
    | intro _ | dsimp only | simp only [Sound.mk_eq] | apply Sound.at

theorem execLivenessReadPeriod_sound {s : State} (hs : s.Sound) :
    Result.Sound (execLivenessReadPeriod s) := by
  unfold execLivenessReadPeriod
  try dsimp only
  with_reducible repeat' first
    | exact trivial | apply Result.sound_next | assumption | apply noteSilent_sound | apply startRemote_sound
    | apply Sound.foldl | intro _ | split | dsimp only

theorem execDeadTimeExpiry_sound (role : BitVec 5) {s : State} (hs : s.Sound) :
    Result.Sound (execDeadTimeExpiry role s) := by
  unfold execDeadTimeExpiry
  try dsimp only
  with_reducible repeat' first
    | exact trivial | apply Result.sound_next | assumption | apply State.toTick_sound | apply declareDead_sound
    | split | dsimp only

theorem wDeclareDead_sound (v : Nat) {s : State} (hs : s.Sound) :
    (wDeclareDead v s).2.Sound := by
  unfold wDeclareDead
  try dsimp only
  with_reducible repeat' first
    | assumption | apply declareDead_sound | split | dsimp only

theorem execDeclareDead_sound (m : Master) (role : BitVec 8) {s : State} (hs : s.Sound) :
    Result.Sound (execDeclareDead m role s) := by
  unfold execDeclareDead
  with_reducible repeat' first
    | exact trivial | apply Result.sound_next | assumption | apply entryWrite_sound | apply wDeclareDead_sound

theorem execChainHeadLost_sound {s : State} (hs : s.Sound) :
    Result.Sound (execChainHeadLost s) := by
  unfold execChainHeadLost
  try dsimp only
  with_reducible repeat' first
    | exact trivial | apply Result.sound_next | assumption | apply State.modCasc_sound | apply State.toTick_sound
    | apply State.goFatal_sound | intro _ | split | dsimp only | simp only [Sound.mk_eq] | apply Sound.at

theorem State.dropShade_sound {s : State} (id : Word) (hs : s.Sound) :
    (State.dropShade s id).Sound := by
  unfold State.dropShade
  try dsimp only
  with_reducible repeat' first
    | assumption | apply State.modCasc_sound | intro _ | dsimp only | simp only [Sound.mk_eq] | apply Sound.at

theorem takeEpoch_sound (r : Nat) (st : RoleState) (epoch : BitVec 16) {s : State} (hs : s.Sound) :
    (takeEpoch r st epoch s).Sound := by
  unfold takeEpoch
  try dsimp only
  with_reducible repeat' first
    | assumption | apply State.modCasc_sound | apply State.takeFree_sound | apply State.setRole_sound
    | apply State.dropShade_sound | intro _ | split | dsimp only | simp only [Sound.mk_eq] | apply Sound.at

theorem afterMap_sound {s : State} (hs : s.Sound) :
    (afterMap s).Sound := by
  unfold afterMap
  with_reducible repeat' first
    | assumption | apply State.fixMasters_sound | apply State.reroute_sound | apply State.fixPeers_sound

theorem execEpoch_sound (port : Fin 4) (p : Pkt) {s : State} (hs : s.Sound) :
    Result.Sound (execEpoch port p s) := by
  unfold execEpoch
  try dsimp only
  with_reducible repeat' first
    | exact trivial | apply Result.sound_next | assumption | apply recvPkt_sound | apply fenceRole_sound
    | apply takeEpoch_sound | apply afterMap_sound | intro _ | split | dsimp only

theorem addBar_sound (b : BitVec 64) {s : State} (hs : s.Sound) :
    (addBar b s).Sound := by
  unfold addBar
  try dsimp only
  with_reducible repeat' first
    | assumption | apply State.modCasc_sound | apply State.addCnt_sound | intro _ | split | dsimp only
    | simp only [Sound.mk_eq] | apply Sound.at

theorem startRecheck_sound {s : State} (hs : s.Sound) :
    (startRecheck s).Sound := by
  unfold startRecheck
  try dsimp only
  with_reducible repeat' first
    | assumption | apply State.modCasc_sound | apply State.haltSeq_sound | apply applyEnable_sound
    | apply State.startPass_sound | intro _ | dsimp only | simp only [Sound.mk_eq] | apply Sound.at
    | apply Memory.wf_puts | apply Memory.wf_clear | apply Memory.wf_filter | apply twf_tset | apply capped_tset
    | apply rest_tset | apply State.Sound.mem | apply State.Sound.host | apply State.Sound.sync
    | apply State.Sound.cnt | apply State.Sound.capped | apply State.Sound.rest | exact twf_nil | omega
    | (refine SoundAt.mk ?_ ?_ ?_ ?_ ?_ ?_)

theorem State.clearQuarantine_sound {s : State} (r : Nat) (hs : s.Sound) :
    (State.clearQuarantine s r).Sound := by
  unfold State.clearQuarantine
  try dsimp only
  with_reducible repeat' first
    | assumption | apply State.modCasc_sound | apply State.modPort_sound | apply quarantine_sound | apply Sound.foldl
    | intro _ | split | dsimp only | simp only [Sound.mk_eq] | apply Sound.at

theorem recheckPass_sound (r : Nat) {s : State} (hs : s.Sound) :
    (recheckPass r s).Sound := by
  unfold recheckPass
  try dsimp only
  with_reducible repeat' first
    | assumption | apply State.addCnt_sound | apply State.setRole_sound | apply State.reroute_sound
    | apply tellEpoch_sound | apply State.dropShade_sound | apply afterMap_sound | apply addBar_sound
    | apply State.clearQuarantine_sound | intro _ | split | dsimp only | simp only [Sound.mk_eq] | apply Sound.at

theorem passThrough_sound (p : Pkt) {s : State} (hs : s.Sound) :
    (passThrough p s).Sound := by
  unfold passThrough
  try dsimp only
  with_reducible repeat' first
    | assumption | apply State.reroute_sound | apply State.clearQuarantine_sound | split | dsimp only

theorem execRecheck_sound (port : Fin 4) (p : Pkt) {s : State} (hs : s.Sound) :
    Result.Sound (execRecheck port p s) := by
  unfold execRecheck
  try dsimp only
  with_reducible repeat' first
    | exact trivial | apply Result.sound_next | assumption | apply State.count_sound | apply State.freeUnits_sound
    | apply discardPkt_sound | apply State.sendPkt_sound | apply State.restartWatch_sound | apply startRecheck_sound
    | apply recheckPass_sound | apply passThrough_sound | split | dsimp only | simp only [Sound.mk_eq]
    | apply Sound.at

theorem execRecheckEnd_sound (pass : Bool) (test : BitVec 16) {s : State} (hs : s.Sound) :
    Result.Sound (execRecheckEnd pass test s) := by
  unfold execRecheckEnd
  try dsimp only
  with_reducible repeat' first
    | exact trivial | apply Result.sound_next | assumption | apply State.modCasc_sound | apply State.send_sound
    | apply State.restartWatch_sound | intro _ | split | dsimp only | simp only [Sound.mk_eq] | apply Sound.at

theorem wRoleAssign_sound (v : Nat) {s : State} (hs : s.Sound) :
    (wRoleAssign v s).2.Sound := by
  unfold wRoleAssign
  try dsimp only
  with_reducible repeat' first
    | assumption | apply State.setRole_sound | apply tellEpoch_sound | apply afterMap_sound | intro _ | split
    | dsimp only | simp only [Sound.mk_eq] | apply Sound.at

theorem execRoleAssign_sound (m : Master) (value : BitVec 16) {s : State} (hs : s.Sound) :
    Result.Sound (execRoleAssign m value s) := by
  unfold execRoleAssign
  with_reducible repeat' first
    | exact trivial | apply Result.sound_next | assumption | apply entryWrite_sound | apply wRoleAssign_sound

/-! ## Lockstep.lean -/

theorem State.modLock_sound {s : State} (f : Lockstep → Lockstep) (hs : s.Sound) :
    (State.modLock s f).Sound := by
  unfold State.modLock
  try dsimp only
  with_reducible repeat' first
    | assumption | apply State.modCasc_sound | intro _ | dsimp only | simp only [Sound.mk_eq] | apply Sound.at

theorem State.tryRelease_sound {s : State} (hs : s.Sound) :
    (State.tryRelease s).Sound := by
  unfold State.tryRelease
  try dsimp only
  with_reducible repeat' first
    | assumption | apply State.sendLock_sound | apply State.modLock_sound | intro _ | split | dsimp only
    | simp only [Sound.mk_eq] | apply Sound.at

theorem State.noteReady_sound {s : State} (rs : List (BitVec 5)) (h : Nat) (hs : s.Sound) :
    (State.noteReady s rs h).Sound := by
  unfold State.noteReady
  try dsimp only
  with_reducible repeat' first
    | assumption | apply State.modLock_sound | apply State.tryRelease_sound | intro _ | split | dsimp only
    | simp only [Sound.mk_eq] | apply Sound.at

theorem State.passReady_sound {s : State} (ports : List Nat) (origin : BitVec 5) (hs : s.Sound) :
    (State.passReady s ports origin).Sound := by
  unfold State.passReady
  try dsimp only
  with_reducible repeat' first
    | assumption | apply State.putLock_sound | apply Sound.foldl | intro _ | split | dsimp only
    | simp only [Sound.mk_eq] | apply Sound.at

theorem execHold_sound (origin : BitVec 5) {s : State} (hs : s.Sound) :
    Result.Sound (execHold origin s) := by
  unfold execHold
  try dsimp only
  with_reducible repeat' first
    | exact trivial | apply Result.sound_next | assumption | apply State.forwardLock_sound | apply State.modLock_sound
    | intro _ | split | dsimp only | simp only [Sound.mk_eq] | apply Sound.at

theorem execReady_sound (origin : BitVec 5) (value : BitVec 24) {s : State} (hs : s.Sound) :
    Result.Sound (execReady origin value s) := by
  unfold execReady
  try dsimp only
  with_reducible repeat' first
    | exact trivial | apply Result.sound_next | assumption | apply State.noteReady_sound | apply State.passReady_sound
    | intro _ | split | dsimp only

theorem execRelease_sound (origin : BitVec 5) (value : BitVec 24) {s : State} (hs : s.Sound) :
    Result.Sound (execRelease origin value s) := by
  unfold execRelease
  try dsimp only
  with_reducible repeat' first
    | exact trivial | apply Result.sound_next | assumption | apply State.forwardLock_sound | apply State.modLock_sound
    | intro _ | split | dsimp only | simp only [Sound.mk_eq] | apply Sound.at

theorem State.compareBranches_sound {s : State} (hs : s.Sound) :
    (State.compareBranches s).Sound := by
  unfold State.compareBranches
  try dsimp only
  with_reducible repeat' first
    | assumption | refine State.first_sound _ ?_ _ (by assumption) | apply lockFail_sound | apply State.modLock_sound
    | apply Sound.foldl | intro _ | split | dsimp only | simp only [Sound.mk_eq] | apply Sound.at

theorem execBranch_sound (origin : BitVec 5) (value : BitVec 24) {s : State} (hs : s.Sound) :
    Result.Sound (execBranch origin value s) := by
  unfold execBranch
  try dsimp only
  with_reducible repeat' first
    | exact trivial | apply Result.sound_next | assumption | apply State.forwardLock_sound | apply State.modLock_sound
    | apply State.compareBranches_sound | intro _ | split | dsimp only | simp only [Sound.mk_eq] | apply Sound.at

theorem execStart_sound (origin : BitVec 5) (value : BitVec 24) {s : State} (hs : s.Sound) :
    Result.Sound (execStart origin value s) := by
  unfold execStart
  try dsimp only
  with_reducible repeat' first
    | exact trivial | apply Result.sound_next | assumption | apply State.modCasc_sound | apply State.forwardLock_sound
    | apply startIssue_sound | intro _ | split | dsimp only | simp only [Sound.mk_eq] | apply Sound.at

theorem execRankHalt_sound (origin : BitVec 5) (value : BitVec 24) (cause : HaltCause) {s : State} (hs : s.Sound) :
    Result.Sound (execRankHalt origin value cause s) := by
  unfold execRankHalt
  try dsimp only
  with_reducible repeat' first
    | exact trivial | apply Result.sound_next | assumption | apply State.sendLock_sound
    | apply State.forwardLock_sound | apply State.schedule_sound | split | dsimp only | simp only [Sound.mk_eq]
    | apply Sound.at

theorem execPulsePeriodExpiry_sound {s : State} (hs : s.Sound) :
    Result.Sound (execPulsePeriodExpiry s) := by
  unfold execPulsePeriodExpiry
  try dsimp only
  with_reducible repeat' first
    | exact trivial | apply Result.sound_next | assumption | apply State.sendLock_sound | apply State.passCycles_sound
    | split | dsimp only

theorem execPulse_sound (origin : BitVec 5) (value : BitVec 24) {s : State} (hs : s.Sound) :
    Result.Sound (execPulse origin value s) := by
  unfold execPulse
  try dsimp only
  with_reducible repeat' first
    | exact trivial | apply Result.sound_next | assumption | apply State.forwardLock_sound | apply lockFail_sound
    | split | dsimp only

theorem execRankPeerSignal_sound (origin : BitVec 5) (obj : BitVec 14) (issued : BitVec 24) {s : State}
    (hs : s.Sound) :
    Result.Sound (execRankPeerSignal origin obj issued s) := by
  unfold execRankPeerSignal
  try dsimp only
  with_reducible repeat' first
    | exact trivial | apply Result.sound_next | assumption | apply State.schedule_sound | apply State.signal_sound
    | apply State.passCycles_sound | split | dsimp only

/-! ## Dma.lean -/

theorem acceptDesc_sound (k addr : Nat) (inHost : Bool) (data : BitVec 512) (ctx : Option SlotCtx)
    (job : Option JobRef) {s : State} (hs : s.Sound) :
    (acceptDesc k addr inHost data ctx job s).Sound := by
  unfold acceptDesc
  try dsimp only
  with_reducible repeat' first
    | assumption | apply State.takeId_sound | apply State.modChan_sound | intro _ | split | dsimp only
    | simp only [Sound.mk_eq] | apply Sound.at

theorem readDescs_sound (k n : Nat) {s : State} (h : s.Sound) : (readDescs k n s).Sound := by
  induction n generalizing s with
  | zero => exact h
  | succ n ih =>
    unfold readDescs
    dsimp only
    split
    · exact h
    · exact ih (State.modChan_sound _ _ (acceptDesc_sound _ _ _ _ _ _ h))

theorem execDescriptorRead_sound (chan : BitVec 4) {s : State} (hs : s.Sound) :
    Result.Sound (execDescriptorRead chan s) := by
  unfold execDescriptorRead
  try dsimp only
  with_reducible repeat' first
    | exact trivial | apply Result.sound_next | assumption | apply readDescs_sound | split | dsimp only

theorem opSubmit_sound (c : SlotCtx) (chan : BitVec 4) (reg : BitVec 5) {pre : State} {s : State}
    (h_pre : pre.Sound) (h_s : s.Sound) :
    (opSubmit c chan reg pre s).Sound := by
  unfold opSubmit
  try dsimp only
  with_reducible repeat' first
    | assumption | apply State.raiseExc_sound | apply State.slotFault_sound | apply acceptDesc_sound | split
    | dsimp only | simp only [Sound.mk_eq] | apply Sound.at

theorem execSubmit_sound (c : SlotCtx) (chan : BitVec 4) (reg : BitVec 5) {s : State} (hs : s.Sound) :
    Result.Sound (execSubmit c chan reg s) := by
  unfold execSubmit
  try dsimp only
  with_reducible repeat' first
    | exact trivial | apply Result.sound_next | assumption | apply slotCmd_sound | apply beginStall_sound
    | apply opSubmit_sound | split | dsimp only

theorem execChannelTake_sound {s : State} (hs : s.Sound) :
    Result.Sound (execChannelTake s) := by
  unfold execChannelTake
  try dsimp only
  with_reducible repeat' first
    | exact trivial | apply Result.sound_next | assumption | apply State.modDma_sound | apply State.toCycle_sound
    | apply State.modChan_sound | intro _ | split | dsimp only | simp only [Sound.mk_eq] | apply Sound.at

theorem dmaRemote_sound (role addr n : Nat) (write : Bool) (data : List Byte) {s : State} (hs : s.Sound) :
    (dmaRemote role addr n write data s).Sound := by
  unfold dmaRemote
  try dsimp only
  with_reducible repeat' first
    | assumption | apply State.modRun_sound | apply startRemote_sound | intro _ | dsimp only | simp only [Sound.mk_eq]
    | apply Sound.at

/-- The states that one block of a transfer answers have the invariant. -/
def BlockRes.Sound : BlockRes → Prop
  | .kept t => t.Sound
  | .sent t => t.Sound
  | .got t _ => t.Sound
  | _ => True

theorem sourceBlock_sound (e : CopyEvents) (r : DmaRun) (d : Desc) {s : State} (h : s.Sound) :
    (sourceBlock e r d s).Sound := by
  unfold sourceBlock
  dsimp only
  repeat' split
  all_goals first
    | trivial
    | (rename_i heq
       have hp := State.pathRead_sound .host (d.src + d.done) d.block (s.farRole d.dstSpace d.dstRole) d.stream h
       rw [heq] at hp
       exact hp)
    | exact dmaRemote_sound _ _ _ _ _ h
    | exact h

theorem destBlock_sound (d : Desc) (bs : List Byte) {s : State} (h : s.Sound) : (destBlock d bs s).Sound := by
  unfold destBlock
  dsimp only
  repeat' split
  all_goals first
    | trivial
    | exact State.putHost_sound _ _ h
    | exact dmaRemote_sound _ _ _ _ _ h
    | (rename_i heq
       have hp := State.pathWrite_sound .host (d.dst + d.done) bs d.stream true h
       rw [heq] at hp
       exact hp)

theorem moveBlock_sound (e : CopyEvents) {s : State} (h : s.Sound) : (moveBlock e s).1.Sound := by
  unfold moveBlock
  split
  · exact h
  · rename_i r d _
    split
    · exact h
    · split
      · exact State.modFront_sound _ h
      · have hs := sourceBlock_sound e r d h
        split
        · exact dmaFail_sound _ (dmaUnhold_sound h)
        · exact dmaHold_sound h
        · exact h
        · rename_i heq; rw [heq] at hs; exact hs
        · rename_i heq; rw [heq] at hs; exact hs
        · rename_i t bs heq
          rw [heq] at hs
          have hd := destBlock_sound d bs (s := t) hs
          split
          · exact dmaFail_sound _ (dmaUnhold_sound hs)
          · exact dmaHold_sound h
          · exact h
          · rename_i heq2; rw [heq2] at hd; exact State.modRun_sound _ hd
          · rename_i heq2; rw [heq2] at hd; exact hd
          · rename_i heq2; rw [heq2] at hd; exact dmaAdvance_sound _ (State.modRun_sound _ (dmaUnhold_sound hd))

theorem moveBlocks_sound (e : CopyEvents) (n : Nat) {s : State} (h : s.Sound) : (moveBlocks e n s).Sound := by
  induction n generalizing s with
  | zero => exact h
  | succ n ih =>
    unfold moveBlocks
    dsimp only
    split
    · exact ih (moveBlock_sound e h)
    · exact moveBlock_sound e h

theorem transfer_sound (op : Nat) (ev : CopyEvents) {s : State} (hs : s.Sound) :
    (transfer op ev s).Sound := by
  unfold transfer
  try dsimp only
  with_reducible repeat' first
    | assumption | apply moveBlocks_sound | split | dsimp only | simp only [Sound.mk_eq] | apply Sound.at

theorem alteredTransfer_sound (op : Nat) (ev : CopyEvents) {s : State} (hs : s.Sound) :
    (alteredTransfer op ev s).Sound := by
  unfold alteredTransfer
  try dsimp only
  with_reducible repeat' first
    | assumption | apply State.takeFree_sound | apply State.modFront_sound | apply transfer_sound | intro _ | split
    | dsimp only | simp only [Sound.mk_eq] | apply Sound.at

theorem execCopy_sound (hostErrorAt deepRetryAt : Option Nat) {s : State} (hs : s.Sound) :
    Result.Sound (execCopy hostErrorAt deepRetryAt s) := by
  unfold execCopy
  try dsimp only
  with_reducible repeat' first
    | exact trivial | apply Result.sound_next | assumption | apply crossing_sound | apply transfer_sound
    | apply alteredTransfer_sound | dsimp only

theorem execFill_sound {s : State} (hs : s.Sound) :
    Result.Sound (execFill s) := by
  unfold execFill
  with_reducible repeat' first
    | exact trivial | apply Result.sound_next | assumption | apply crossing_sound | apply transfer_sound
    | apply alteredTransfer_sound

theorem execMarker_sound {s : State} (hs : s.Sound) :
    Result.Sound (execMarker s) := by
  unfold execMarker
  try dsimp only
  with_reducible repeat' first
    | exact trivial | apply Result.sound_next | assumption | apply State.modFront_sound | intro _ | split | dsimp only
    | simp only [Sound.mk_eq] | apply Sound.at

theorem execHostCompletionTimeout_sound (bytesDone : Nat) {s : State} (hs : s.Sound) :
    Result.Sound (execHostCompletionTimeout bytesDone s) := by
  unfold execHostCompletionTimeout
  try dsimp only
  with_reducible repeat' first
    | exact trivial | apply Result.sound_next | assumption | apply dmaFail_sound | apply dmaUnhold_sound
    | apply moveBlocks_sound | split | dsimp only | simp only [Sound.mk_eq] | apply Sound.at

theorem doneSync_sound (d : Desc) {s : State} (hs : s.Sound) :
    (doneSync d s).Sound := by
  unfold doneSync
  try dsimp only
  with_reducible repeat' first
    | assumption | apply State.signal_sound | split | dsimp only

theorem completeGk8_sound (k : Nat) (d : Desc) {s : State} (hs : s.Sound) :
    (completeGk8 k d s).Sound := by
  unfold completeGk8
  try dsimp only
  with_reducible repeat' first
    | assumption | apply State.modDma_sound | apply State.putHost_sound | apply State.sendMsix_sound
    | apply doneSync_sound | intro _ | split | dsimp only | simp only [Sound.mk_eq] | apply Sound.at

theorem completeNative_sound (d : Desc) {s : State} (hs : s.Sound) :
    (completeNative d s).Sound := by
  unfold completeNative
  try dsimp only
  with_reducible repeat' first
    | assumption | apply State.putMem_sound | apply State.putHost_sound | apply State.sendMsix_sound
    | apply doneSync_sound | split | dsimp only

theorem noteFailed_sound (d : Desc) {s : State} (hs : s.Sound) :
    (noteFailed d s).Sound := by
  unfold noteFailed
  try dsimp only
  with_reducible repeat' first
    | assumption | apply State.addCnt_sound | apply State.count_sound | apply State.settleHalt_sound
    | apply State.opFailed_sound | split | dsimp only | simp only [Sound.mk_eq] | apply Sound.at

theorem spoilBlock_sound (d : Desc) (k : Nat) {s : State} (h : s.Sound) : (spoilBlock d k s).Sound := by
  have ht := State.takeFrees_sound 64 h
  have hp := State.pathWrite_sound .host (d.dst + d.done + 64 * k) (s.freeBytes (min 64 (d.len - d.done - 64 * k)))
    d.stream false ht
  unfold spoilBlock
  dsimp only
  repeat' split
  · exact State.putHost_sound _ _ ht
  · exact h
  · exact h
  · rename_i heq; rw [heq] at hp; exact hp
  · exact h

theorem spoil_sound (d : Desc) {s : State} (hs : s.Sound) :
    (spoil d s).Sound := by
  unfold spoil
  try dsimp only
  with_reducible repeat' first
    | assumption | apply spoilBlock_sound | apply Sound.foldl | intro _ | split | dsimp only

theorem settleChan_sound (k : Nat) {s : State} (hs : s.Sound) :
    (settleChan k s).Sound := by
  unfold settleChan
  try dsimp only
  with_reducible repeat' first
    | assumption | apply State.modChan_sound | intro _ | split | dsimp only | simp only [Sound.mk_eq] | apply Sound.at

theorem execDescriptorComplete_sound {s : State} (hs : s.Sound) :
    Result.Sound (execDescriptorComplete s) := by
  unfold execDescriptorComplete
  try dsimp only
  with_reducible repeat' first
    | exact trivial | apply Result.sound_next | assumption | apply State.modDma_sound | apply State.modChan_sound
    | apply State.modRun_sound | apply dmaUnhold_sound | apply completeGk8_sound | apply completeNative_sound
    | apply noteFailed_sound | apply spoil_sound | apply settleChan_sound | intro _ | split | dsimp only
    | simp only [Sound.mk_eq] | apply Sound.at

theorem cancelChan_sound (k : Nat) {s : State} (hs : s.Sound) :
    (cancelChan k s).Sound := by
  unfold cancelChan
  try dsimp only
  with_reducible repeat' first
    | assumption | apply State.modChan_sound | apply settleChan_sound | intro _ | split | dsimp only
    | simp only [Sound.mk_eq] | apply Sound.at

theorem wChEnable_sound (k v : Nat) {s : State} (hs : s.Sound) :
    (wChEnable k v s).2.Sound := by
  unfold wChEnable
  try dsimp only
  with_reducible repeat' first
    | assumption | apply State.modChan_sound | apply cancelChan_sound | intro _ | split | dsimp only
    | simp only [Sound.mk_eq] | apply Sound.at

theorem wChSetting_sound (k j v : Nat) {s : State} (hs : s.Sound) :
    (wChSetting k j v s).2.Sound := by
  unfold wChSetting
  try dsimp only
  with_reducible repeat' first
    | assumption | apply State.setEnt_sound | split | dsimp only

theorem chTailWrite_sound (k v : Nat) {s : State} (h : s.Sound) : ∀ t, chTailWrite k v s = some t → t.Sound := by
  intro t ht
  unfold chTailWrite at ht
  dsimp only at ht
  split at ht
  · cases ht; exact State.modChan_sound _ _ h
  · cases ht

theorem wChTail_sound (k v : Nat) {s : State} (hs : s.Sound) :
    (wChTail k v s).2.Sound := by
  unfold wChTail
  try dsimp only
  with_reducible repeat' first
    | assumption | refine chTailWrite_sound _ _ ?_ _ (by assumption) | split | dsimp only | simp only [Sound.mk_eq]
    | apply Sound.at

theorem cqHeadWrite_sound (v : Nat) {s : State} (h : s.Sound) : ∀ t, cqHeadWrite v s = some t → t.Sound := by
  intro t ht
  unfold cqHeadWrite at ht
  dsimp only at ht
  split at ht
  · cases ht; exact State.modDma_sound _ h
  · cases ht

theorem wCqHead_sound (v : Nat) {s : State} (hs : s.Sound) :
    (wCqHead v s).2.Sound := by
  unfold wCqHead
  try dsimp only
  with_reducible repeat' first
    | assumption | refine cqHeadWrite_sound _ ?_ _ (by assumption) | split | dsimp only | simp only [Sound.mk_eq]
    | apply Sound.at

theorem wCqSetting_sound (j v : Nat) {s : State} (hs : s.Sound) :
    (wCqSetting j v s).2.Sound := by
  unfold wCqSetting
  try dsimp only
  with_reducible repeat' first
    | assumption | apply State.setEnt_sound | split | dsimp only

theorem wCqEnable_sound (v : Nat) {s : State} (hs : s.Sound) :
    (wCqEnable v s).2.Sound := by
  unfold wCqEnable
  try dsimp only
  with_reducible repeat' first
    | assumption | apply State.modDma_sound | intro _ | split | dsimp only | simp only [Sound.mk_eq] | apply Sound.at

theorem execChEnableSet_sound (m : Master) (chan : BitVec 4) {s : State} (hs : s.Sound) :
    Result.Sound (execChEnableSet m chan s) := by
  unfold execChEnableSet
  with_reducible repeat' first
    | exact trivial | apply Result.sound_next | assumption | apply entryWrite_sound | apply wChEnable_sound

theorem execChEnableClear_sound (m : Master) (chan : BitVec 4) {s : State} (hs : s.Sound) :
    Result.Sound (execChEnableClear m chan s) := by
  unfold execChEnableClear
  with_reducible repeat' first
    | exact trivial | apply Result.sound_next | assumption | apply entryWrite_sound | apply wChEnable_sound

theorem execCqEnable_sound (m : Master) (value : BitVec 8) {s : State} (hs : s.Sound) :
    Result.Sound (execCqEnable m value s) := by
  unfold execCqEnable
  with_reducible repeat' first
    | exact trivial | apply Result.sound_next | assumption | apply entryWrite_sound | apply wCqEnable_sound

theorem dropChan_sound (k : Nat) {s : State} (hs : s.Sound) :
    (dropChan k s).Sound := by
  unfold dropChan
  try dsimp only
  with_reducible repeat' first
    | assumption | apply State.modDma_sound | apply State.addCnt_sound | apply State.count_sound
    | apply State.settleHalt_sound | apply State.opFailed_sound | apply State.modChan_sound | apply dmaUnhold_sound
    | apply Sound.foldl | intro _ | split | dsimp only | simp only [Sound.mk_eq] | apply Sound.at

theorem dropHostChans_sound {s : State} (hs : s.Sound) :
    (dropHostChans s).Sound := by
  unfold dropHostChans
  try dsimp only
  with_reducible repeat' first
    | assumption | apply dropChan_sound | apply Sound.foldl | intro _ | split | dsimp only

theorem dropMailboxes_sound (lo hi : Nat) {s : State} (hs : s.Sound) :
    (dropMailboxes lo hi s).Sound := by
  unfold dropMailboxes
  try dsimp only
  with_reducible repeat' first
    | assumption | apply State.modNet_sound | apply State.modPcie_sound | apply State.dropAwaits_sound | intro _
    | split | dsimp only | simp only [Sound.mk_eq] | apply Sound.at

theorem dropApertures_sound {s : State} (hs : s.Sound) :
    (dropApertures s).Sound := by
  unfold dropApertures
  try dsimp only
  with_reducible repeat' first
    | assumption | apply State.setEnt_sound | apply Sound.foldl | intro _ | dsimp only

theorem pcieLost_sound {s : State} (hs : s.Sound) :
    (pcieLost s).Sound := by
  unfold pcieLost
  with_reducible repeat' first
    | assumption | apply dropHostChans_sound | apply dropMailboxes_sound | apply dropApertures_sound

theorem resetQueues_sound {s : State} (hs : s.Sound) :
    (resetQueues s).Sound := by
  unfold resetQueues
  try dsimp only
  with_reducible repeat' first
    | assumption | apply State.modDma_sound | apply State.modChan_sound | apply Sound.foldl | intro _ | split
    | dsimp only | simp only [Sound.mk_eq] | apply Sound.at

theorem resetPort_sound {s : State} (hs : s.Sound) :
    (resetPort s).Sound := by
  unfold resetPort
  try dsimp only
  with_reducible repeat' first
    | assumption | apply State.modPcie_sound | apply pcieLost_sound | apply resetQueues_sound | intro _ | dsimp only
    | simp only [Sound.mk_eq] | apply Sound.at

theorem pcieDown_sound {s : State} (hs : s.Sound) :
    (pcieDown s).Sound := by
  unfold pcieDown
  try dsimp only
  with_reducible repeat' first
    | assumption | apply State.count_sound | apply resetPort_sound | split | dsimp only

end Sys2Proof.Machine
end

