-- ==== Sys2Proof/Laws/SoundSystem.lean ====
section
/-!
SUPPORT. The invariant of Safety.lean over clocks, power, start-up, firmware, errors and holds.
-/
namespace Sys2Proof.Machine

/-! ## Clocks.lean -/

theorem t1Down_sound {s : State} (hs : s.Sound) :
    (t1Down s).Sound := by
  unfold t1Down
  try dsimp only
  with_reducible repeat' first
    | assumption | apply State.modNet_sound | intro _ | dsimp only | simp only [Sound.mk_eq] | apply Sound.at

theorem State.modDom_sound {s : State} (k : Nat) (f : DomClk → DomClk) (hs : s.Sound) :
    (State.modDom s k f).Sound := by
  unfold State.modDom
  try dsimp only
  with_reducible repeat' first
    | assumption | apply State.modClk_sound | intro _ | dsimp only | simp only [Sound.mk_eq] | apply Sound.at

theorem State.modPll_sound {s : State} (k : Nat) (f : Pll → Pll) (hs : s.Sound) :
    (State.modPll s k f).Sound := by
  unfold State.modPll
  try dsimp only
  with_reducible repeat' first
    | assumption | apply State.modClk_sound | intro _ | dsimp only | simp only [Sound.mk_eq] | apply Sound.at

theorem forceClk_sound (k : Nat) {s : State} (hs : s.Sound) :
    (forceClk k s).Sound := by
  unfold forceClk
  try dsimp only
  with_reducible repeat' first
    | assumption | apply State.addCnt_sound | apply State.modDom_sound | intro _ | split | dsimp only
    | simp only [Sound.mk_eq] | apply Sound.at

theorem lanternClk_sound (k : Nat) {s : State} (hs : s.Sound) :
    (lanternClk k s).Sound := by
  unfold lanternClk
  try dsimp only
  with_reducible repeat' first
    | assumption | apply State.addCnt_sound | apply State.modDom_sound | intro _ | split | dsimp only
    | simp only [Sound.mk_eq] | apply Sound.at

theorem slowClk_sound (k : Nat) {s : State} (hs : s.Sound) :
    (slowClk k s).Sound := by
  unfold slowClk
  try dsimp only
  with_reducible repeat' first
    | assumption | apply State.modDom_sound | intro _ | dsimp only | simp only [Sound.mk_eq] | apply Sound.at

theorem pllClk_sound (k : Nat) {s : State} (hs : s.Sound) :
    (pllClk k s).Sound := by
  unfold pllClk
  try dsimp only
  with_reducible repeat' first
    | assumption | apply State.modDom_sound | intro _ | split | dsimp only | simp only [Sound.mk_eq] | apply Sound.at

theorem returnClk_sound (k : Nat) {s : State} (hs : s.Sound) :
    (returnClk k s).Sound := by
  unfold returnClk
  try dsimp only
  with_reducible repeat' first
    | assumption | apply State.modDom_sound | intro _ | split | dsimp only | simp only [Sound.mk_eq] | apply Sound.at

theorem crystalClk_sound (k : Nat) {s : State} (hs : s.Sound) :
    (crystalClk k s).Sound := by
  unfold crystalClk
  try dsimp only
  with_reducible repeat' first
    | assumption | apply returnClk_sound | split | dsimp only

theorem beginSeqRamp_sound {s : State} (hs : s.Sound) :
    (beginSeqRamp s).Sound := by
  unfold beginSeqRamp
  try dsimp only
  with_reducible repeat' first
    | assumption | apply State.modClk_sound | apply State.answerLate_sound | apply State.modDom_sound | intro _
    | split | dsimp only | simp only [Sound.mk_eq] | apply Sound.at

theorem clkRampStep_sound (k : Nat) {s : State} (hs : s.Sound) :
    (clkRampStep k s).Sound := by
  unfold clkRampStep
  try dsimp only
  with_reducible repeat' first
    | assumption | apply State.toCycle_sound | apply State.toTick_sound | apply State.restartPhases_sound
    | apply State.modDom_sound | apply beginSeqRamp_sound | split | dsimp only

theorem wClkSrc_sound (m : Master) (k v : Nat) {s : State} (hs : s.Sound) :
    (wClkSrc m k v s).2.Sound := by
  unfold wClkSrc
  try dsimp only
  with_reducible repeat' first
    | assumption | apply State.modClk_sound | apply State.modDom_sound | intro _ | split | dsimp only
    | simp only [Sound.mk_eq] | apply Sound.at

theorem execClkSrcWrite_sound (m : Master) (clk : Fin 4) (value : BitVec 8) {s : State} (hs : s.Sound) :
    Result.Sound (execClkSrcWrite m clk value s) := by
  unfold execClkSrcWrite
  with_reducible repeat' first
    | exact trivial | apply Result.sound_next | assumption | apply entryWrite_sound | apply wClkSrc_sound

theorem State.measureLantern_sound {s : State} (hs : s.Sound) :
    (State.measureLantern s).Sound := by
  unfold State.measureLantern
  try dsimp only
  with_reducible repeat' first
    | assumption | apply State.modClk_sound | apply State.takeFree_sound | intro _ | dsimp only
    | simp only [Sound.mk_eq] | apply Sound.at

theorem execCrystalStable_sound {s : State} (hs : s.Sound) :
    Result.Sound (execCrystalStable s) := by
  unfold execCrystalStable
  try dsimp only
  with_reducible repeat' first
    | exact trivial | apply Result.sound_next | assumption | apply State.modClk_sound | apply State.trainPort_sound
    | apply State.restartPhases_sound | apply pllClk_sound | apply crystalClk_sound | apply State.measureLantern_sound
    | apply Sound.foldl | intro _ | split | dsimp only | simp only [Sound.mk_eq] | apply Sound.at

theorem execCrystalTimeout_sound {s : State} (hs : s.Sound) :
    Result.Sound (execCrystalTimeout s) := by
  unfold execCrystalTimeout
  try dsimp only
  with_reducible repeat' first
    | exact trivial | apply Result.sound_next | assumption | apply State.modClk_sound | apply State.toTick_sound
    | intro _ | split | dsimp only | simp only [Sound.mk_eq] | apply Sound.at

theorem State.abortPhases_sound {s : State} (hs : s.Sound) :
    (State.abortPhases s).Sound := by
  unfold State.abortPhases
  try dsimp only
  with_reducible repeat' first
    | assumption | apply State.modDisp_sound | apply State.setIdle_sound | apply abortOp_sound | apply Sound.foldl
    | intro _ | dsimp only | simp only [Sound.mk_eq] | apply Sound.at

theorem losePll_sound (k : Nat) {s : State} (hs : s.Sound) :
    (losePll k s).Sound := by
  unfold losePll
  try dsimp only
  with_reducible repeat' first
    | assumption | apply State.modPll_sound | intro _ | dsimp only

theorem clockFaultAct_sound (bit : Nat) {s : State} (hs : s.Sound) :
    (clockFaultAct bit s).Sound := by
  unfold clockFaultAct
  try dsimp only
  with_reducible repeat' first
    | assumption | apply State.modClk_sound | apply State.modMedia_sound | apply State.addClass_sound
    | apply State.haltSeq_sound | apply State.discardMaintenance_sound | apply State.discardPhases_sound
    | apply portDown_sound | apply pcieDown_sound | apply t1Down_sound | apply forceClk_sound | apply lanternClk_sound
    | apply slowClk_sound | apply State.abortPhases_sound | apply losePll_sound | apply Sound.foldl | intro _ | split
    | dsimp only | simp only [Sound.mk_eq] | apply Sound.at

theorem execClockFault_sound (bit : Fin 12) (ends : Bool) {s : State} (hs : s.Sound) :
    Result.Sound (execClockFault bit ends s) := by
  unfold execClockFault
  try dsimp only
  with_reducible repeat' first
    | exact trivial | apply Result.sound_next | assumption | apply State.modClk_sound | apply State.emit_sound
    | apply State.addCnt_sound | apply clockFaultAct_sound | apply Sound.foldl | intro _ | split | dsimp only
    | simp only [Sound.mk_eq] | apply Sound.at

theorem relocked_sound (b : Nat) {s : State} (hs : s.Sound) :
    (relocked b s).Sound := by
  unfold relocked
  try dsimp only
  with_reducible repeat' first
    | assumption | apply State.modClk_sound | apply State.modMedia_sound | apply State.count_sound
    | apply State.trainPort_sound | apply State.modPll_sound | apply returnClk_sound | intro _ | split | dsimp only
    | simp only [Sound.mk_eq] | apply Sound.at

theorem relockFailed_sound (b : Nat) {s : State} (hs : s.Sound) :
    (relockFailed b s).Sound := by
  unfold relockFailed
  try dsimp only
  with_reducible repeat' first
    | assumption | apply State.modMedia_sound | apply State.addClass_sound | apply State.goFatal_sound | intro _
    | split | dsimp only | simp only [Sound.mk_eq] | apply Sound.at

theorem execRelockAttempt_sound (pll : Fin 12) (locked : Bool) {s : State} (hs : s.Sound) :
    Result.Sound (execRelockAttempt pll locked s) := by
  unfold execRelockAttempt
  try dsimp only
  with_reducible repeat' first
    | exact trivial | apply Result.sound_next | assumption | apply State.toTick_sound | apply State.modPll_sound
    | apply relocked_sound | apply relockFailed_sound | intro _ | split | dsimp only | simp only [Sound.mk_eq]
    | apply Sound.at

theorem wClockFault_sound (v : Nat) {s : State} (hs : s.Sound) :
    (wClockFault v s).2.Sound := by
  unfold wClockFault
  try dsimp only
  with_reducible repeat' first
    | assumption | apply State.modClk_sound | intro _ | dsimp only | simp only [Sound.mk_eq] | apply Sound.at

theorem execClockFaultClear_sound (m : Master) (value : BitVec 16) {s : State} (hs : s.Sound) :
    Result.Sound (execClockFaultClear m value s) := by
  unfold execClockFaultClear
  with_reducible repeat' first
    | exact trivial | apply Result.sound_next | assumption | apply entryWrite_sound | apply wClockFault_sound

theorem wClkOut_sound (v : Nat) {s : State} (hs : s.Sound) :
    (wClkOut v s).2.Sound := by
  unfold wClkOut
  try dsimp only
  with_reducible repeat' first
    | assumption | apply State.modClk_sound | intro _ | split | dsimp only | simp only [Sound.mk_eq] | apply Sound.at

theorem execClkOutSel_sound (m : Master) (value : BitVec 8) {s : State} (hs : s.Sound) :
    Result.Sound (execClkOutSel m value s) := by
  unfold execClkOutSel
  with_reducible repeat' first
    | exact trivial | apply Result.sound_next | assumption | apply entryWrite_sound | apply wClkOut_sound

theorem wClockEnable_sound (v : Nat) {s : State} (hs : s.Sound) :
    (wClockEnable v s).2.Sound := by
  unfold wClockEnable
  try dsimp only
  with_reducible repeat' first
    | assumption | apply State.modClk_sound | intro _ | split | dsimp only | simp only [Sound.mk_eq] | apply Sound.at

theorem execClockEnable_sound (m : Master) (value : BitVec 16) {s : State} (hs : s.Sound) :
    Result.Sound (execClockEnable m value s) := by
  unfold execClockEnable
  with_reducible repeat' first
    | exact trivial | apply Result.sound_next | assumption | apply entryWrite_sound | apply wClockEnable_sound

theorem execBlockGated_sound (block : Fin 11) {s : State} (hs : s.Sound) :
    Result.Sound (execBlockGated block s) := by
  unfold execBlockGated
  try dsimp only
  with_reducible repeat' first
    | exact trivial | apply Result.sound_next | assumption | apply State.modClk_sound | intro _ | split | dsimp only
    | simp only [Sound.mk_eq] | apply Sound.at

theorem wCascPower_sound (v : Nat) {s : State} (hs : s.Sound) :
    (wCascPower v s).2.Sound := by
  unfold wCascPower
  try dsimp only
  with_reducible repeat' first
    | assumption | apply State.setEnt_sound | apply State.setDom_sound | apply portDown_sound | apply Sound.foldl
    | intro _ | split | dsimp only

theorem execCascPortPower_sound (m : Master) (value : BitVec 8) {s : State} (hs : s.Sound) :
    Result.Sound (execCascPortPower m value s) := by
  unfold execCascPortPower
  with_reducible repeat' first
    | exact trivial | apply Result.sound_next | assumption | apply entryWrite_sound | apply wCascPower_sound

/-! ## Power.lean -/

theorem startWake_sound (l : List (Nat × Option Nat)) {s : State} (hs : s.Sound) :
    (startWake l s).Sound := by
  unfold startWake
  try dsimp only
  with_reducible repeat' first
    | assumption | apply State.modPwr_sound | intro _ | split | dsimp only | simp only [Sound.mk_eq] | apply Sound.at

theorem wakeEvent_sound (bit : Nat) (mode : Option Nat) {s : State} (hs : s.Sound) :
    (wakeEvent bit mode s).Sound := by
  unfold wakeEvent
  try dsimp only
  with_reducible repeat' first
    | assumption | apply State.modPwr_sound | apply startWake_sound | intro _ | split | dsimp only
    | simp only [Sound.mk_eq] | apply Sound.at

theorem execWakeN_sound (lowNs : Nat) {s : State} (hs : s.Sound) :
    Result.Sound (execWakeN lowNs s) := by
  unfold execWakeN
  try dsimp only
  with_reducible repeat' first
    | exact trivial | apply Result.sound_next | assumption | apply wakeEvent_sound | split | dsimp only

theorem execT1LinkEnergy_sound {s : State} (hs : s.Sound) :
    Result.Sound (execT1LinkEnergy s) := by
  unfold execT1LinkEnergy
  try dsimp only
  with_reducible repeat' first
    | exact trivial | apply Result.sound_next | assumption | apply wakeEvent_sound | split | dsimp only

theorem changeMode_sound (m : Master) (v : Nat) {s : State} (hs : s.Sound) :
    (changeMode m v s).Sound := by
  unfold changeMode
  try dsimp only
  with_reducible repeat' first
    | assumption | apply State.modPwr_sound | apply State.addCnt_sound | apply State.applyUnits_sound
    | apply State.recomputeCeiling_sound | intro _ | dsimp only | simp only [Sound.mk_eq] | apply Sound.at

theorem wMode_sound (m : Master) (v : Nat) {s : State} (hs : s.Sound) :
    (wMode m v s).2.Sound := by
  unfold wMode
  try dsimp only
  with_reducible repeat' first
    | assumption | apply State.modPwr_sound | apply State.addCnt_sound | apply wakeEvent_sound
    | apply changeMode_sound | intro _ | split | dsimp only | simp only [Sound.mk_eq] | apply Sound.at

theorem execModeWrite_sound (m : Master) (value : BitVec 8) {s : State} (hs : s.Sound) :
    Result.Sound (execModeWrite m value s) := by
  unfold execModeWrite
  with_reducible repeat' first
    | exact trivial | apply Result.sound_next | assumption | apply entryWrite_sound | apply wMode_sound

theorem execUmbraEntry_sound (m : Master) {s : State} (hs : s.Sound) :
    Result.Sound (execUmbraEntry m s) := by
  unfold execUmbraEntry
  with_reducible repeat' first
    | exact trivial | apply Result.sound_next | assumption | apply entryWrite_sound | apply wMode_sound

theorem modeApplied_sound {s : State} (hs : s.Sound) :
    (modeApplied s).Sound := by
  unfold modeApplied
  try dsimp only
  with_reducible repeat' first
    | assumption | apply State.modPwr_sound | apply State.answerLate_sound | intro _ | split | dsimp only
    | simp only [Sound.mk_eq] | apply Sound.at

theorem parkTile_sound (p : Nat × Nat) {a : State × Bool} (h : a.1.Sound) : (parkTile a p).1.Sound := by
  unfold parkTile
  dsimp only
  split
  · exact State.addCnt_sound _ _ _ (State.modMig_sound _ (State.putMem_sound _ _ h))
  · exact h

theorem parkFold_sound {s : State} (h : s.Sound) : (List.foldl parkTile (s, false) s.tilesToPark).1.Sound :=
  foldl_pair_sound (a := (s, false)) h (fun _ p hb => parkTile_sound p hb)

theorem State.park_sound {s : State} (h : s.Sound) : s.park.Sound := by
  have h1 := parkFold_sound h
  unfold State.park
  dsimp only
  split
  · exact State.count_sound _ _ _ h1
  · exact h1

theorem State.stopUpkeep_sound {s : State} (hs : s.Sound) :
    (State.stopUpkeep s).Sound := by
  unfold State.stopUpkeep
  try dsimp only
  with_reducible repeat' first
    | assumption | apply State.modArr_sound | refine State.first_sound _ ?_ _ (by assumption)
    | apply State.abandon_sound | apply State.releaseRebuild_sound | apply State.discardMaintenance_sound
    | apply Sound.foldl | intro _ | dsimp only | simp only [Sound.mk_eq] | apply Sound.at

theorem State.loseSequencer_sound {s : State} (hs : s.Sound) :
    (State.loseSequencer s).Sound := by
  unfold State.loseSequencer
  with_reducible repeat' first
    | assumption | simp only [Sound.mk_eq] | apply Sound.at | apply Memory.wf_puts | apply Memory.wf_clear
    | apply Memory.wf_filter | apply twf_tset | apply capped_tset | apply rest_tset | apply State.Sound.mem
    | apply State.Sound.host | apply State.Sound.sync | apply State.Sound.cnt | apply State.Sound.capped
    | apply State.Sound.rest | exact twf_nil | omega | (refine SoundAt.mk ?_ ?_ ?_ ?_ ?_ ?_)

theorem State.loseChannels_sound {s : State} (hs : s.Sound) :
    (State.loseChannels s).Sound := by
  unfold State.loseChannels
  try dsimp only
  with_reducible repeat' first
    | assumption | intro _ | dsimp only | simp only [Sound.mk_eq] | apply Sound.at

theorem State.domainsOff_sound {s : State} (hs : s.Sound) :
    (State.domainsOff s).Sound := by
  unfold State.domainsOff
  try dsimp only
  with_reducible repeat' first
    | assumption | apply State.modPwr_sound | intro _ | dsimp only | simp only [Sound.mk_eq] | apply Sound.at

theorem State.switchOff_sound {s : State} (hs : s.Sound) :
    (State.switchOff s).Sound := by
  unfold State.switchOff
  try dsimp only
  with_reducible repeat' first
    | assumption | apply State.modCasc_sound | apply portDown_sound | apply pcieDown_sound
    | apply State.loseSequencer_sound | apply State.loseChannels_sound | apply State.domainsOff_sound
    | apply Sound.foldl | intro _ | dsimp only | simp only [Sound.mk_eq] | apply Sound.at

theorem State.enterUmbra_sound {s : State} (hs : s.Sound) :
    (State.enterUmbra s).Sound := by
  unfold State.enterUmbra
  try dsimp only
  with_reducible repeat' first
    | assumption | apply State.modPwr_sound | apply State.recomputeCeiling_sound | apply State.writeBacking_sound
    | apply State.clearHolds_sound | apply State.abandonMoves_sound | apply State.park_sound
    | apply State.stopUpkeep_sound | apply State.switchOff_sound | intro _ | dsimp only | simp only [Sound.mk_eq]
    | apply Sound.at

theorem State.loadMaps_sound {s : State} (hs : s.Sound) :
    (State.loadMaps s).Sound := by
  unfold State.loadMaps
  try dsimp only
  with_reducible repeat' first
    | assumption | apply State.modArr_sound | apply State.modArray_sound | apply Sound.foldl | intro _ | dsimp only
    | simp only [Sound.mk_eq] | apply Sound.at

theorem State.loadPeri_sound {s : State} (hs : s.Sound) :
    (State.loadPeri s).Sound := by
  unfold State.loadPeri
  try dsimp only
  with_reducible repeat' first
    | assumption | apply State.modArr_sound | apply Sound.foldl | intro _ | dsimp only | simp only [Sound.mk_eq]
    | apply Sound.at

theorem State.loadMargins_sound {s : State} (hs : s.Sound) :
    (State.loadMargins s).Sound := by
  unfold State.loadMargins
  try dsimp only
  with_reducible repeat' first
    | assumption | apply State.modArr_sound | apply State.modArray_sound | apply State.setMset_sound
    | apply State.loadPeri_sound | apply Sound.foldl | intro _ | dsimp only | simp only [Sound.mk_eq] | apply Sound.at

theorem State.clearSlew_sound {s : State} (hs : s.Sound) :
    (State.clearSlew s).Sound := by
  unfold State.clearSlew
  try dsimp only
  with_reducible repeat' first
    | assumption | apply State.modArr_sound | intro _ | dsimp only | simp only [Sound.mk_eq] | apply Sound.at

theorem State.unpark_sound {s : State} (hs : s.Sound) :
    (State.unpark s).Sound := by
  unfold State.unpark
  try dsimp only
  with_reducible repeat' first
    | assumption | apply State.modMig_sound | apply State.putMem_sound | apply Sound.foldl | intro _ | dsimp only
    | simp only [Sound.mk_eq] | apply Sound.at | apply Memory.wf_puts | apply Memory.wf_clear | apply Memory.wf_filter
    | apply twf_tset | apply capped_tset | apply rest_tset | apply State.Sound.mem | apply State.Sound.host
    | apply State.Sound.sync | apply State.Sound.cnt | apply State.Sound.capped | apply State.Sound.rest
    | exact twf_nil | omega | (refine SoundAt.mk ?_ ?_ ?_ ?_ ?_ ?_)

theorem execUmbraWake_sound {s : State} (hs : s.Sound) :
    Result.Sound (execUmbraWake s) := by
  unfold execUmbraWake
  try dsimp only
  with_reducible repeat' first
    | exact trivial | apply Result.sound_next | assumption | apply State.emit_sound | apply State.wakeNext_sound
    | split | dsimp only

theorem State.leaveUmbra_sound {s : State} (hs : s.Sound) :
    (State.leaveUmbra s).Sound := by
  unfold State.leaveUmbra
  try dsimp only
  with_reducible repeat' first
    | assumption | apply State.modPwr_sound | apply State.applyUnits_sound | apply domainOn_sound
    | apply State.recomputeCeiling_sound | apply State.startPass_sound | apply State.loadMaps_sound
    | apply State.loadMargins_sound | apply State.clearSlew_sound | apply State.unpark_sound | apply Sound.foldl
    | intro _ | split | dsimp only | simp only [Sound.mk_eq] | apply Sound.at

theorem State.thermalTrip_sound {s : State} (hs : s.Sound) :
    (State.thermalTrip s).Sound := by
  unfold State.thermalTrip
  try dsimp only
  with_reducible repeat' first
    | assumption | apply State.modArr_sound | apply State.modPwr_sound | apply State.goFatal_sound
    | apply t1Down_sound | apply State.switchOff_sound | intro _ | dsimp only | simp only [Sound.mk_eq]
    | apply Sound.at | apply Memory.wf_puts | apply Memory.wf_clear | apply Memory.wf_filter | apply twf_tset
    | apply capped_tset | apply rest_tset | apply State.Sound.mem | apply State.Sound.host | apply State.Sound.sync
    | apply State.Sound.cnt | apply State.Sound.capped | apply State.Sound.rest | exact twf_nil | omega
    | (refine SoundAt.mk ?_ ?_ ?_ ?_ ?_ ?_)

theorem State.thermalCheck_sound {s : State} (hs : s.Sound) :
    (State.thermalCheck s).Sound := by
  unfold State.thermalCheck
  try dsimp only
  with_reducible repeat' first
    | assumption | apply State.modPwr_sound | apply State.count_sound | apply State.applyUnits_sound
    | apply State.recomputeCeiling_sound | apply State.thermalTrip_sound | intro _ | split | dsimp only
    | simp only [Sound.mk_eq] | apply Sound.at

theorem execLogicTempSample_sound (sensor : Fin 16) (quarters : Int) {s : State} (hs : s.Sound) :
    Result.Sound (execLogicTempSample sensor quarters s) := by
  unfold execLogicTempSample
  try dsimp only
  with_reducible repeat' first
    | exact trivial | apply Result.sound_next | assumption | apply State.modPwr_sound | apply State.thermalCheck_sound
    | intro _ | dsimp only | simp only [Sound.mk_eq] | apply Sound.at

theorem execBankTempSample_sound (bank : BitVec 6) (quarters : Int) {s : State} (hs : s.Sound) :
    Result.Sound (execBankTempSample bank quarters s) := by
  unfold execBankTempSample
  try dsimp only
  with_reducible repeat' first
    | exact trivial | apply Result.sound_next | assumption | apply State.modArr_sound | apply State.noteBank_sound
    | apply State.ktempCheck_sound | apply State.startEarly_sound | apply State.thermalCheck_sound | intro _ | split
    | dsimp only | simp only [Sound.mk_eq] | apply Sound.at

theorem State.warningActions_sound {s : State} (hs : s.Sound) :
    (State.warningActions s).Sound := by
  unfold State.warningActions
  try dsimp only
  with_reducible repeat' first
    | assumption | apply State.modMedia_sound | apply State.discardPhases_sound | apply State.warnPrograms_sound
    | apply State.warnCopies_sound | intro _ | dsimp only | simp only [Sound.mk_eq] | apply Sound.at

theorem execSupplyWarning_sound (rail : Fin 8) {s : State} (hs : s.Sound) :
    Result.Sound (execSupplyWarning rail s) := by
  unfold execSupplyWarning
  try dsimp only
  with_reducible repeat' first
    | exact trivial | apply Result.sound_next | assumption | apply State.modPwr_sound | apply State.count_sound
    | refine State.first_sound _ ?_ _ (by assumption) | apply State.warningActions_sound | intro _ | split
    | dsimp only | simp only [Sound.mk_eq] | apply Sound.at

theorem State.releaseAborted_sound {s : State} (hs : s.Sound) :
    (State.releaseAborted s).Sound := by
  unfold State.releaseAborted
  try dsimp only
  with_reducible repeat' first
    | assumption | apply State.setIdle_sound | apply Sound.foldl | intro _ | split | dsimp only

theorem execSupplyWarningClear_sound (rail : Fin 8) {s : State} (hs : s.Sound) :
    Result.Sound (execSupplyWarningClear rail s) := by
  unfold execSupplyWarningClear
  try dsimp only
  with_reducible repeat' first
    | exact trivial | apply Result.sound_next | assumption | apply State.modMedia_sound | apply State.modPwr_sound
    | apply State.grantHv_sound | apply State.restartPhases_sound | apply State.vacateBad_sound
    | apply State.flushHeld_sound | apply State.restartCopies_sound | apply State.releaseAborted_sound | intro _
    | split | dsimp only | simp only [Sound.mk_eq] | apply Sound.at

theorem wSupplyLatched_sound (v : Nat) {s : State} (hs : s.Sound) :
    (wSupplyLatched v s).2.Sound := by
  unfold wSupplyLatched
  try dsimp only
  with_reducible repeat' first
    | assumption | apply State.modPwr_sound | intro _ | dsimp only | simp only [Sound.mk_eq] | apply Sound.at

theorem execSupplyLatchedClear_sound (m : Master) (value : BitVec 8) {s : State} (hs : s.Sound) :
    Result.Sound (execSupplyLatchedClear m value s) := by
  unfold execSupplyLatchedClear
  with_reducible repeat' first
    | exact trivial | apply Result.sound_next | assumption | apply entryWrite_sound | apply wSupplyLatched_sound

/-! ## Boot.lean -/

theorem State.kept_sound {s : State} (halo : Bool) (h : s.Sound) : (s.kept halo).Sound := by
  unfold State.kept State.reset
  rw [Sound.mk_eq]
  exact ⟨Memory.wf_filter _ h.mem, h.host, rfl, rfl, rfl, rfl⟩

theorem deviceReset_sound (cause : Nat) (rail : Option (Fin 8)) (halo recLoad : Bool) {s : State} (hs : s.Sound) :
    (deviceReset cause rail halo recLoad s).Sound := by
  unfold deviceReset
  try dsimp only
  with_reducible repeat' first
    | assumption | apply State.kept_sound | split | dsimp only | simp only [Sound.mk_eq] | apply Sound.at

theorem startB0_sound (p : Straps) {s : State} (hs : s.Sound) :
    (startB0 p s).Sound := by
  unfold startB0
  try dsimp only
  with_reducible repeat' first
    | assumption | apply State.modPwr_sound | intro _ | split | dsimp only | simp only [Sound.mk_eq] | apply Sound.at

theorem resetB0_sound (p : Straps) {s : State} (hs : s.Sound) :
    (resetB0 p s).Sound := by
  unfold resetB0
  try dsimp only
  with_reducible repeat' first
    | assumption | apply startB0_sound | split | dsimp only

theorem restartB0_sound {s : State} (hs : s.Sound) :
    (restartB0 s).Sound := by
  unfold restartB0
  with_reducible repeat' first
    | assumption | apply State.takeFree_sound | apply resetB0_sound

theorem execPowerOn_sound (straps : Straps) (outOfOrder : Option (Fin 8)) {s : State} (hs : s.Sound) :
    Result.Sound (execPowerOn straps outOfOrder s) := by
  unfold execPowerOn
  try dsimp only
  with_reducible repeat' first
    | exact trivial | apply Result.sound_next | assumption | apply State.modBoot_sound | apply startB0_sound | intro _
    | split | dsimp only | simp only [Sound.mk_eq] | apply Sound.at

theorem execResetN_sound (lowNs : Nat) (straps : Straps) {s : State} (hs : s.Sound) :
    Result.Sound (execResetN lowNs straps s) := by
  unfold execResetN
  try dsimp only
  with_reducible repeat' first
    | exact trivial | apply Result.sound_next | assumption | apply State.takeFree_sound | apply deviceReset_sound
    | apply resetB0_sound | split | dsimp only

theorem execSupplyReset_sound (rail : Fin 8) {s : State} (hs : s.Sound) :
    Result.Sound (execSupplyReset rail s) := by
  unfold execSupplyReset
  try dsimp only
  with_reducible repeat' first
    | exact trivial | apply Result.sound_next | assumption | apply deviceReset_sound | split | dsimp only

theorem State.modRecord_sound {s : State} (f : Ledger → Ledger) (hs : s.Sound) :
    (State.modRecord s f).Sound := by
  unfold State.modRecord
  try dsimp only
  with_reducible repeat' first
    | assumption | apply State.modBoot_sound | intro _ | dsimp only | simp only [Sound.mk_eq] | apply Sound.at

theorem enterRecovery_sound {s : State} (hs : s.Sound) :
    (enterRecovery s).Sound := by
  unfold enterRecovery
  try dsimp only
  with_reducible repeat' first
    | assumption | apply State.modBoot_sound | apply State.setDom_sound | apply Sound.foldl | intro _ | split
    | dsimp only | simp only [Sound.mk_eq] | apply Sound.at

theorem failMandatory_sound (k : Nat) {s : State} (hs : s.Sound) :
    (failMandatory k s).Sound := by
  unfold failMandatory
  try dsimp only
  with_reducible repeat' first
    | assumption | apply State.modBoot_sound | apply State.goFatal_sound | apply State.queueLedger_sound
    | apply enterRecovery_sound | intro _ | split | dsimp only | simp only [Sound.mk_eq] | apply Sound.at

theorem execSelfRestart_sound {s : State} (hs : s.Sound) :
    Result.Sound (execSelfRestart s) := by
  unfold execSelfRestart
  try dsimp only
  with_reducible repeat' first
    | exact trivial | apply Result.sound_next | assumption | apply State.toTick_sound | apply State.flushStore_sound
    | apply deviceReset_sound | apply restartB0_sound | split | dsimp only | simp only [Sound.mk_eq] | apply Sound.at

theorem formChain_sound {s : State} (hs : s.Sound) :
    (formChain s).Sound := by
  unfold formChain
  try dsimp only
  with_reducible repeat' first
    | assumption | apply State.modCasc_sound | apply State.addCnt_sound | apply State.restartWatch_sound
    | apply afterMap_sound | apply startRecheck_sound | apply Sound.foldl | intro _ | split | dsimp only
    | simp only [Sound.mk_eq] | apply Sound.at

theorem lockPlls_sound (ks : List Nat) {s : State} (hs : s.Sound) :
    (lockPlls ks s).Sound := by
  unfold lockPlls
  try dsimp only
  with_reducible repeat' first
    | assumption | apply State.modPll_sound | apply Sound.foldl | intro _ | dsimp only

theorem enableBlocks_sound (m : BitVec 11) {s : State} (hs : s.Sound) :
    (enableBlocks m s).Sound := by
  unfold enableBlocks
  try dsimp only
  with_reducible repeat' first
    | assumption | apply State.modClk_sound | intro _ | dsimp only | simp only [Sound.mk_eq] | apply Sound.at

theorem domsOn_sound (ds : List Nat) {s : State} (hs : s.Sound) :
    (domsOn ds s).Sound := by
  unfold domsOn
  try dsimp only
  with_reducible repeat' first
    | assumption | apply State.setDom_sound | apply Sound.foldl | intro _ | dsimp only

theorem loadStored_sound {s : State} (hs : s.Sound) :
    (loadStored s).Sound := by
  unfold loadStored
  try dsimp only
  with_reducible repeat' first
    | assumption | apply State.modNet_sound | apply Sound.foldl | intro _ | split | dsimp only
    | simp only [Sound.mk_eq] | apply Sound.at

theorem State.startOutcomes_sound {s : State} (hs : s.Sound) :
    (State.startOutcomes s).Sound := by
  unfold State.startOutcomes
  try dsimp only
  with_reducible repeat' first
    | assumption | apply State.modArr_sound | apply State.takeId_sound | apply State.modArray_sound
    | apply Sound.foldl | intro _ | split | dsimp only | simp only [Sound.mk_eq] | apply Sound.at

theorem countLedger_sound {s : State} (hs : s.Sound) :
    (countLedger s).Sound := by
  unfold countLedger
  try dsimp only
  with_reducible repeat' first
    | assumption | apply State.addCnt_sound | apply State.count_sound | apply Sound.foldl | intro _ | split
    | dsimp only

theorem provideMaps_sound {s : State} (hs : s.Sound) :
    (provideMaps s).Sound := by
  unfold provideMaps
  try dsimp only
  with_reducible repeat' first
    | assumption | apply State.modBoot_sound | apply State.loadMaps_sound | apply loadStored_sound
    | apply State.startOutcomes_sound | apply countLedger_sound | intro _ | dsimp only | simp only [Sound.mk_eq]
    | apply Sound.at

theorem provideBulk_sound (gib : Nat) {s : State} (hs : s.Sound) :
    (provideBulk gib s).Sound := by
  unfold provideBulk
  try dsimp only
  with_reducible repeat' first
    | assumption | apply State.modMig_sound | apply State.setEnt_sound | apply lockPlls_sound
    | apply enableBlocks_sound | apply domsOn_sound | intro _ | dsimp only | simp only [Sound.mk_eq] | apply Sound.at

theorem awaitPass_sound (n : Nat) {s : State} (hs : s.Sound) :
    (awaitPass n s).Sound := by
  unfold awaitPass
  try dsimp only
  with_reducible repeat' first
    | assumption | apply State.modArr_sound | apply State.modArray_sound | apply State.setMap_sound | intro _ | split
    | dsimp only | simp only [Sound.mk_eq] | apply Sound.at

theorem provideMargins_sound (alt : Bool) {s : State} (hs : s.Sound) :
    (provideMargins alt s).Sound := by
  unfold provideMargins
  try dsimp only
  with_reducible repeat' first
    | assumption | apply State.rebuildFree_sound | apply State.loadMargins_sound | apply awaitPass_sound
    | apply Sound.foldl | intro _ | split | dsimp only

theorem readMarks_sound (blocks found : Nat) {s : State} (hs : s.Sound) :
    (readMarks blocks found s).Sound := by
  unfold readMarks
  try dsimp only
  with_reducible repeat' first
    | assumption | apply State.modMedia_sound | apply State.setNandBlk_sound | apply Sound.foldl | intro _ | split
    | dsimp only | simp only [Sound.mk_eq] | apply Sound.at

theorem provideDeep_sound (alt : Bool) (found : Nat) {s : State} (hs : s.Sound) :
    (provideDeep alt found s).Sound := by
  unfold provideDeep
  try dsimp only
  with_reducible repeat' first
    | assumption | apply State.modMig_sound | apply State.modMedia_sound | apply State.setEnt_sound
    | apply State.addClass_sound | apply State.checkSpares_sound | apply lockPlls_sound | apply enableBlocks_sound
    | apply domsOn_sound | apply readMarks_sound | intro _ | split | dsimp only | simp only [Sound.mk_eq]
    | apply Sound.at

theorem beginPorts_sound {s : State} (hs : s.Sound) :
    (beginPorts s).Sound := by
  unfold beginPorts
  try dsimp only
  with_reducible repeat' first
    | assumption | apply State.setDom_sound | apply State.trainPort_sound | apply lockPlls_sound
    | apply enableBlocks_sound | apply Sound.foldl | intro _ | dsimp only

theorem providePcie_sound {s : State} (hs : s.Sound) :
    (providePcie s).Sound := by
  unfold providePcie
  with_reducible repeat' first
    | assumption | apply enableBlocks_sound | apply domsOn_sound

theorem provideService_sound {s : State} (hs : s.Sound) :
    (provideService s).Sound := by
  unfold provideService
  try dsimp only
  with_reducible repeat' first
    | assumption | apply State.modPwr_sound | apply State.applyUnits_sound | apply domainOn_sound
    | apply State.recomputeCeiling_sound | apply enableBlocks_sound | apply domsOn_sound | apply Sound.foldl | intro _
    | split | dsimp only | simp only [Sound.mk_eq] | apply Sound.at

theorem provide_sound (k : Nat) (alt : Bool) (found : Nat) {s : State} (hs : s.Sound) :
    (provide k alt found s).Sound := by
  unfold provide
  try dsimp only
  with_reducible repeat' first
    | assumption | apply State.modClk_sound | apply State.modBoot_sound | apply lockPlls_sound
    | apply provideMaps_sound | apply provideBulk_sound | apply provideMargins_sound | apply provideDeep_sound
    | apply providePcie_sound | apply provideService_sound | intro _ | split | dsimp only | simp only [Sound.mk_eq]
    | apply Sound.at

theorem startService_sound {s : State} (hs : s.Sound) :
    (startService s).Sound := by
  unfold startService
  try dsimp only
  with_reducible repeat' first
    | assumption | apply State.modBoot_sound | apply State.queueLedger_sound | apply State.startPass_sound | intro _
    | dsimp only | simp only [Sound.mk_eq] | apply Sound.at

theorem nextStep_sound (k : Nat) {s : State} (hs : s.Sound) :
    (nextStep k s).Sound := by
  unfold nextStep
  try dsimp only
  with_reducible repeat' first
    | assumption | apply State.modBoot_sound | apply formChain_sound | apply beginPorts_sound
    | apply startService_sound | intro _ | split | dsimp only | simp only [Sound.mk_eq] | apply Sound.at

theorem endStep_sound (k : Nat) (v : BitVec 3) (alt : Bool) {s : State} (hs : s.Sound) :
    (endStep k v alt s).Sound := by
  unfold endStep
  try dsimp only
  with_reducible repeat' first
    | assumption | apply State.count_sound | apply State.modRecord_sound | intro _ | split | dsimp only

theorem failStep_sound (k : Fin 12) (alt : Bool) (detail : Word) {s : State} (hs : s.Sound) :
    (failStep k alt detail s).Sound := by
  unfold failStep
  try dsimp only
  with_reducible repeat' first
    | assumption | apply State.modBoot_sound | apply State.addCnt_sound | apply State.count_sound
    | apply State.modRecord_sound | apply failMandatory_sound | apply nextStep_sound | apply endStep_sound | intro _
    | split | dsimp only | simp only [Sound.mk_eq] | apply Sound.at

theorem endInRecovery_sound (detail : Word) {s : State} (hs : s.Sound) :
    (endInRecovery detail s).Sound := by
  unfold endInRecovery
  try dsimp only
  with_reducible repeat' first
    | assumption | apply State.addCnt_sound | apply State.modRecord_sound | apply enterRecovery_sound
    | apply endStep_sound | intro _ | split | dsimp only

theorem execBootStepEnd_sound (how : StepEnd) (found : Nat) {s : State} (hs : s.Sound) :
    Result.Sound (execBootStepEnd how found s) := by
  unfold execBootStepEnd
  try dsimp only
  with_reducible repeat' first
    | exact trivial | apply Result.sound_next | assumption | apply State.modBoot_sound | apply provide_sound
    | apply nextStep_sound | apply endStep_sound | apply failStep_sound | apply endInRecovery_sound | intro _ | split
    | dsimp only | simp only [Sound.mk_eq] | apply Sound.at

theorem execDdrPeriodicTraining_sound {s : State} (hs : s.Sound) :
    Result.Sound (execDdrPeriodicTraining s) := by
  unfold execDdrPeriodicTraining
  with_reducible repeat' first
    | exact trivial | apply Result.sound_next | assumption

theorem wAltClear_sound (v : Nat) {s : State} (hs : s.Sound) :
    (wAltClear v s).2.Sound := by
  unfold wAltClear
  try dsimp only
  with_reducible repeat' first
    | assumption | apply State.modBoot_sound | intro _ | split | dsimp only | simp only [Sound.mk_eq] | apply Sound.at

theorem execAltClear_sound (m : Master) (value : BitVec 16) {s : State} (hs : s.Sound) :
    Result.Sound (execAltClear m value s) := by
  unfold execAltClear
  with_reducible repeat' first
    | exact trivial | apply Result.sound_next | assumption | apply entryWrite_sound | apply wAltClear_sound

theorem wLedgerIndex_sound (v : Nat) {s : State} (hs : s.Sound) :
    (wLedgerIndex v s).2.Sound := by
  unfold wLedgerIndex
  try dsimp only
  with_reducible repeat' first
    | assumption | apply State.setEnt_sound | split | dsimp only

theorem execLedgerIndex_sound (m : Master) (value : Word) {s : State} (hs : s.Sound) :
    Result.Sound (execLedgerIndex m value s) := by
  unfold execLedgerIndex
  with_reducible repeat' first
    | exact trivial | apply Result.sound_next | assumption | apply entryWrite_sound | apply wLedgerIndex_sound

theorem wRestart_sound (m : Master) (v : Nat) {s : State} (hs : s.Sound) :
    (wRestart m v s).2.Sound := by
  unfold wRestart
  try dsimp only
  with_reducible repeat' first
    | assumption | apply State.answer_sound | apply deviceReset_sound | apply restartB0_sound | split | dsimp only

theorem execRestart_sound (m : Master) (value : BitVec 8) {s : State} (hs : s.Sound) :
    Result.Sound (execRestart m value s) := by
  unfold execRestart
  with_reducible repeat' first
    | exact trivial | apply Result.sound_next | assumption | apply entryWrite_sound | apply wRestart_sound

/-! ## Firmware.lean -/

theorem endUpdate_sound (code : Nat) {s : State} (hs : s.Sound) :
    (endUpdate code s).Sound := by
  unfold endUpdate
  try dsimp only
  with_reducible repeat' first
    | assumption | apply State.modBoot_sound | apply State.count_sound | apply State.queueLedger_sound | intro _
    | split | dsimp only | simp only [Sound.mk_eq] | apply Sound.at

theorem wFwUpdate_sound (a : Nat) {s : State} (hs : s.Sound) :
    (wFwUpdate a s).2.Sound := by
  unfold wFwUpdate
  try dsimp only
  with_reducible repeat' first
    | assumption | apply State.modBoot_sound | intro _ | split | dsimp only | simp only [Sound.mk_eq] | apply Sound.at

theorem execFwUpdate_sound (m : Master) (addr : DWord) {s : State} (hs : s.Sound) :
    Result.Sound (execFwUpdate m addr s) := by
  unfold execFwUpdate
  with_reducible repeat' first
    | exact trivial | apply Result.sound_next | assumption | apply entryWrite_sound | apply wFwUpdate_sound

theorem execFwVerifyEnd_sound {s : State} (hs : s.Sound) :
    Result.Sound (execFwVerifyEnd s) := by
  unfold execFwVerifyEnd
  try dsimp only
  with_reducible repeat' first
    | exact trivial | apply Result.sound_next | assumption | apply State.modBoot_sound | apply endUpdate_sound
    | intro _ | split | dsimp only | simp only [Sound.mk_eq] | apply Sound.at

theorem handCore_sound {s : State} (hs : s.Sound) :
    (handCore s).Sound := by
  unfold handCore
  try dsimp only
  with_reducible repeat' first
    | assumption | apply State.modBoot_sound | intro _ | split | dsimp only | simp only [Sound.mk_eq] | apply Sound.at

theorem revertCores_sound (revertFails : Bool) {s : State} (hs : s.Sound) :
    (revertCores revertFails s).Sound := by
  unfold revertCores
  try dsimp only
  with_reducible repeat' first
    | assumption | apply deviceReset_sound | apply restartB0_sound | apply endUpdate_sound | split | dsimp only

theorem wFwConfirm_sound (v : Nat) {s : State} (hs : s.Sound) :
    (wFwConfirm v s).2.Sound := by
  unfold wFwConfirm
  try dsimp only
  with_reducible repeat' first
    | assumption | apply State.modBoot_sound | intro _ | split | dsimp only | simp only [Sound.mk_eq] | apply Sound.at

theorem execFwConfirm_sound (m : Master) (value : BitVec 8) {s : State} (hs : s.Sound) :
    Result.Sound (execFwConfirm m value s) := by
  unfold execFwConfirm
  with_reducible repeat' first
    | exact trivial | apply Result.sound_next | assumption | apply entryWrite_sound | apply wFwConfirm_sound

theorem execFwConfirmTimeExpiry_sound {s : State} (hs : s.Sound) :
    Result.Sound (execFwConfirmTimeExpiry s) := by
  unfold execFwConfirmTimeExpiry
  try dsimp only
  with_reducible repeat' first
    | exact trivial | apply Result.sound_next | assumption | apply State.modBoot_sound | apply State.toTick_sound
    | intro _ | split | dsimp only | simp only [Sound.mk_eq] | apply Sound.at

theorem State.writeImage_sound {s : State} (i : ImageInfo) (hs : s.Sound) :
    (State.writeImage s i).Sound := by
  unfold State.writeImage
  try dsimp only
  with_reducible repeat' first
    | assumption | apply State.modBoot_sound | apply State.runTx_sound | intro _ | dsimp only

theorem execFwCommitEnd_sound (ok : Bool) {s : State} (hs : s.Sound) :
    Result.Sound (execFwCommitEnd ok s) := by
  unfold execFwCommitEnd
  try dsimp only
  with_reducible repeat' first
    | exact trivial | apply Result.sound_next | assumption | apply endUpdate_sound | apply State.writeImage_sound
    | split | dsimp only

theorem execRecovery_sound {s : State} (hs : s.Sound) :
    Result.Sound (execRecovery s) := by
  unfold execRecovery
  try dsimp only
  with_reducible repeat' first
    | exact trivial | apply Result.sound_next | assumption | apply State.queueLedger_sound
    | apply State.flushStore_sound | apply deviceReset_sound | apply restartB0_sound | apply endUpdate_sound
    | apply State.writeImage_sound | split | dsimp only | simp only [Sound.mk_eq] | apply Sound.at

theorem wAttRequest_sound (v : Nat) {s : State} (hs : s.Sound) :
    (wAttRequest v s).2.Sound := by
  unfold wAttRequest
  try dsimp only
  with_reducible repeat' first
    | assumption | apply State.modBoot_sound | intro _ | split | dsimp only | simp only [Sound.mk_eq] | apply Sound.at

theorem execAttRequest_sound (m : Master) (value : BitVec 8) {s : State} (hs : s.Sound) :
    Result.Sound (execAttRequest m value s) := by
  unfold execAttRequest
  with_reducible repeat' first
    | exact trivial | apply Result.sound_next | assumption | apply entryWrite_sound | apply wAttRequest_sound

theorem execAttReportDone_sound {s : State} (hs : s.Sound) :
    Result.Sound (execAttReportDone s) := by
  unfold execAttReportDone
  try dsimp only
  with_reducible repeat' first
    | exact trivial | apply Result.sound_next | assumption | apply State.modBoot_sound | apply State.takeFree_sound
    | apply State.addCnt_sound | intro _ | split | dsimp only | simp only [Sound.mk_eq] | apply Sound.at

/-! ## Errors.lean -/

theorem execFatalEvent_sound (cause detail : BitVec 8) {s : State} (hs : s.Sound) :
    Result.Sound (execFatalEvent cause detail s) := by
  unfold execFatalEvent
  try dsimp only
  with_reducible repeat' first
    | exact trivial | apply Result.sound_next | assumption | apply State.goFatal_sound | split | dsimp only

theorem wCounter_sound (i j v : Nat) {s : State} (hs : s.Sound) :
    (wCounter i j v s).2.Sound := by
  unfold wCounter
  try dsimp only
  with_reducible repeat' first
    | assumption | split | dsimp only | simp only [Sound.mk_eq] | apply Sound.at | apply Memory.wf_puts
    | apply Memory.wf_clear | apply Memory.wf_filter | apply twf_tset | apply capped_tset | apply rest_tset
    | apply State.Sound.mem | apply State.Sound.host | apply State.Sound.sync | apply State.Sound.cnt
    | apply State.Sound.capped | apply State.Sound.rest | exact twf_nil | omega
    | (refine SoundAt.mk ?_ ?_ ?_ ?_ ?_ ?_)

theorem wCountersClear_sound (v : Nat) {s : State} (h : s.Sound) : (wCountersClear v s).2.Sound := by
  unfold wCountersClear
  split
  · dsimp only
    rw [Sound.mk_eq]
    exact ⟨h.mem, h.host, h.sync, rfl, rfl, rfl⟩
  · exact h

theorem execCountersClear_sound (m : Master) (value : BitVec 8) {s : State} (hs : s.Sound) :
    Result.Sound (execCountersClear m value s) := by
  unfold execCountersClear
  with_reducible repeat' first
    | exact trivial | apply Result.sound_next | assumption | apply entryWrite_sound | apply wCountersClear_sound

theorem wHoldBackTimeout_sound (v : Nat) {s : State} (hs : s.Sound) :
    (wHoldBackTimeout v s).2.Sound := by
  unfold wHoldBackTimeout
  try dsimp only
  with_reducible repeat' first
    | assumption | apply State.setEnt_sound | split | dsimp only

theorem execHoldBackTimeoutWrite_sound (m : Master) (value : Word) {s : State} (hs : s.Sound) :
    Result.Sound (execHoldBackTimeoutWrite m value s) := by
  unfold execHoldBackTimeoutWrite
  with_reducible repeat' first
    | exact trivial | apply Result.sound_next | assumption | apply entryWrite_sound | apply wHoldBackTimeout_sound

theorem wHoldLongest_sound (v : Nat) {s : State} (hs : s.Sound) :
    (wHoldLongest v s).2.Sound := by
  unfold wHoldLongest
  try dsimp only
  with_reducible repeat' first
    | assumption | split | dsimp only | simp only [Sound.mk_eq] | apply Sound.at

theorem execHoldLongestClear_sound (m : Master) (value : Word) {s : State} (hs : s.Sound) :
    Result.Sound (execHoldLongestClear m value s) := by
  unfold execHoldLongestClear
  with_reducible repeat' first
    | exact trivial | apply Result.sound_next | assumption | apply entryWrite_sound | apply wHoldLongest_sound

theorem expire_sound (start : Nat) {s : State} (hs : s.Sound) :
    (expire start s).Sound := by
  unfold expire
  with_reducible repeat' first
    | assumption | apply State.addCnt_sound | apply State.toTick_sound

theorem expirePhaseOp_sound (o : PhaseOp) {s : State} (hs : s.Sound) :
    (expirePhaseOp o s).Sound := by
  unfold expirePhaseOp
  try dsimp only
  with_reducible repeat' first
    | assumption | apply State.settleHalt_sound | apply State.opFailed_sound | apply State.noteHold_sound
    | apply State.modOp_sound | apply State.countLate_sound | apply State.settle_sound | apply State.setIdle_sound
    | apply abortOp_sound | intro _ | split | dsimp only | simp only [Sound.mk_eq] | apply Sound.at

theorem expireDescriptor_sound {s : State} (hs : s.Sound) :
    (expireDescriptor s).Sound := by
  unfold expireDescriptor
  try dsimp only
  with_reducible repeat' first
    | assumption | apply State.modCasc_sound | apply State.modRun_sound | apply dmaFail_sound | apply dmaUnhold_sound
    | intro _ | split | dsimp only | simp only [Sound.mk_eq] | apply Sound.at

theorem expireScalar_sound (a : ScalarAccess) {s : State} (hs : s.Sound) :
    (expireScalar a s).Sound := by
  unfold expireScalar
  try dsimp only
  with_reducible repeat' first
    | assumption | apply State.settleHalt_sound | apply State.raiseExc_sound | apply State.opFailed_sound
    | apply endAccess_sound | dsimp only | simp only [Sound.mk_eq] | apply Sound.at

theorem expireMatrix_sound (x : MatTask) {s : State} (hs : s.Sound) :
    (expireMatrix x s).Sound := by
  unfold expireMatrix
  try dsimp only
  with_reducible repeat' first
    | assumption | apply State.modEng_sound | apply State.settleHalt_sound | apply State.opFailed_sound
    | apply State.noteHold_sound | apply putTasks_sound | intro _ | split | dsimp only | simp only [Sound.mk_eq]
    | apply Sound.at

theorem expireRemote_sound (r : Remote) {s : State} (hs : s.Sound) :
    (expireRemote r s).Sound := by
  unfold expireRemote
  try dsimp only
  with_reducible repeat' first
    | assumption | apply State.addClass_sound | apply endRemote_sound | split | dsimp only | simp only [Sound.mk_eq]
    | apply Sound.at

theorem execHoldBackExpiry_sound (op : HeldOp) {s : State} (hs : s.Sound) :
    Result.Sound (execHoldBackExpiry op s) := by
  unfold execHoldBackExpiry
  try dsimp only
  with_reducible repeat' first
    | exact trivial | apply Result.sound_next | assumption | apply expire_sound | apply expirePhaseOp_sound
    | apply expireDescriptor_sound | apply expireScalar_sound | apply expireMatrix_sound | apply expireRemote_sound
    | intro _ | split | dsimp only | simp only [Sound.mk_eq] | apply Sound.at

end Sys2Proof.Machine
end

