-- ==== Sys2Proof/Laws/SoundHost.lean ====
section
/-!
SUPPORT. The invariant of Safety.lean over the dictionary, sessions, PCI Express and the issue of bundles.
-/
namespace Sys2Proof.Machine

/-! ## Dictionary.lean -/

theorem State.setWindow_sound {s : State} (m : Master) (a : Nat) (hs : s.Sound) :
    (State.setWindow s m a).Sound := by
  unfold State.setWindow
  try dsimp only
  with_reducible repeat' first
    | assumption | apply State.modNet_sound | intro _ | split | dsimp only | simp only [Sound.mk_eq] | apply Sound.at

theorem putSetting_sound (i j v : Nat) (ok : Bool) {s : State} (hs : s.Sound) :
    (putSetting i j v ok s).2.Sound := by
  unfold putSetting
  try dsimp only
  with_reducible repeat' first
    | assumption | apply State.setEnt_sound | split | dsimp only

theorem wNetSetting_sound (j v : Nat) {s : State} (hs : s.Sound) :
    (wNetSetting j v s).2.Sound := by
  unfold wNetSetting
  try dsimp only
  with_reducible repeat' first
    | assumption | apply putSetting_sound | split | dsimp only | simp only [Sound.mk_eq] | apply Sound.at

theorem wArraySetting_sound (i j v : Nat) {s : State} (hs : s.Sound) :
    (wArraySetting i j v s).2.Sound := by
  unfold wArraySetting
  try dsimp only
  with_reducible repeat' first
    | assumption | apply putSetting_sound | split | dsimp only | simp only [Sound.mk_eq] | apply Sound.at

theorem wSeqSetting_sound (j v : Nat) {s : State} (hs : s.Sound) :
    (wSeqSetting j v s).2.Sound := by
  unfold wSeqSetting
  try dsimp only
  with_reducible repeat' first
    | assumption | apply putSetting_sound | split | dsimp only | simp only [Sound.mk_eq] | apply Sound.at

theorem wGuard_sound (j v : Nat) {s : State} (hs : s.Sound) :
    (wGuard j v s).2.Sound := by
  unfold wGuard
  try dsimp only
  with_reducible repeat' first
    | assumption | apply putSetting_sound | split | dsimp only

theorem wStreamSetting_sound (j v : Nat) {s : State} (hs : s.Sound) :
    (wStreamSetting j v s).2.Sound := by
  unfold wStreamSetting
  try dsimp only
  with_reducible repeat' first
    | assumption | apply putSetting_sound | split | dsimp only | simp only [Sound.mk_eq] | apply Sound.at

theorem wPool_sound (j v : Nat) {s : State} (hs : s.Sound) :
    (wPool j v s).2.Sound := by
  unfold wPool
  try dsimp only
  with_reducible repeat' first
    | assumption | apply State.setEnt_sound | split | dsimp only

theorem wMediaSetting_sound (j v : Nat) {s : State} (hs : s.Sound) :
    (wMediaSetting j v s).2.Sound := by
  unfold wMediaSetting
  try dsimp only
  with_reducible repeat' first
    | assumption | apply putSetting_sound | split | dsimp only | simp only [Sound.mk_eq] | apply Sound.at

theorem wCascSetting_sound (j v : Nat) {s : State} (hs : s.Sound) :
    (wCascSetting j v s).2.Sound := by
  unfold wCascSetting
  try dsimp only
  with_reducible repeat' first
    | assumption | apply putSetting_sound | split | dsimp only | simp only [Sound.mk_eq] | apply Sound.at

theorem wT1Role_sound (m : Master) (v : Nat) {s : State} (hs : s.Sound) :
    (wT1Role m v s).2.Sound := by
  unfold wT1Role
  try dsimp only
  with_reducible repeat' first
    | assumption | apply State.modNet_sound | apply State.setEnt_sound | apply State.answer_sound | apply t1Down_sound
    | intro _ | split | dsimp only | simp only [Sound.mk_eq] | apply Sound.at

theorem storeSettings_sound (m : Master) {s : State} (hs : s.Sound) :
    (storeSettings m s).Sound := by
  unfold storeSettings
  try dsimp only
  with_reducible repeat' first
    | assumption | apply State.modMedia_sound | apply State.takeId_sound | apply Sound.foldl | intro _ | dsimp only
    | simp only [Sound.mk_eq] | apply Sound.at

theorem wStoreSettings_sound (m : Master) (v : Nat) {s : State} (hs : s.Sound) :
    (wStoreSettings m v s).2.Sound := by
  unfold wStoreSettings
  try dsimp only
  with_reducible repeat' first
    | assumption | apply storeSettings_sound | split | dsimp only

theorem wWakeSources_sound (v : Nat) {s : State} (hs : s.Sound) :
    (wWakeSources v s).2.Sound := by
  unfold wWakeSources
  with_reducible repeat' first
    | assumption | apply putSetting_sound

theorem wWindowAddr_sound (m : Master) (v : Nat) {s : State} (hs : s.Sound) :
    (wWindowAddr m v s).2.Sound := by
  unfold wWindowAddr
  try dsimp only
  with_reducible repeat' first
    | assumption | apply State.setWindow_sound | split | dsimp only

theorem wNonce_sound (data : List Byte) {s : State} (hs : s.Sound) :
    (wNonce data s).2.Sound := by
  unfold wNonce
  try dsimp only
  with_reducible repeat' first
    | assumption | apply State.modBoot_sound | intro _ | split | dsimp only | simp only [Sound.mk_eq] | apply Sound.at

theorem wAperture_sound (j v : Nat) {s : State} (hs : s.Sound) :
    (wAperture j v s).2.Sound := by
  unfold wAperture
  try dsimp only
  with_reducible repeat' first
    | assumption | apply State.setEnt_sound | dsimp only

theorem writePower_sound (m : Master) (j v : Nat) {s : State} (hs : s.Sound) :
    (writePower m j v s).2.Sound := by
  unfold writePower
  try dsimp only
  with_reducible repeat' first
    | assumption | apply wClkSrc_sound | apply wClockFault_sound | apply wClkOut_sound | apply wClockEnable_sound
    | apply wCascPower_sound | apply wMode_sound | apply wSupplyLatched_sound | apply putSetting_sound
    | apply wWakeSources_sound | split | dsimp only | simp only [Sound.mk_eq] | apply Sound.at

theorem writeNet_sound (m : Master) (i j v : Nat) {s : State} (hs : s.Sound) :
    (writeNet m i j v s).2.Sound := by
  unfold writeNet
  try dsimp only
  with_reducible repeat' first
    | assumption | apply wNetSetting_sound | apply wT1Role_sound | apply wStoreSettings_sound
    | apply wWindowAddr_sound | split | dsimp only | simp only [Sound.mk_eq] | apply Sound.at

theorem writeArrays_sound (i j v : Nat) {s : State} (hs : s.Sound) :
    (writeArrays i j v s).2.Sound := by
  unfold writeArrays
  try dsimp only
  with_reducible repeat' first
    | assumption | apply wReplanNow_sound | apply wArrayWrite_sound | apply wArraySetting_sound | split | dsimp only

theorem writeCompute_sound (m : Master) (i j v : Nat) {s : State} (hs : s.Sound) :
    (writeCompute m i j v s).2.Sound := by
  unfold writeCompute
  try dsimp only
  with_reducible repeat' first
    | assumption | apply wSeqControl_sound | apply wStreamEnable_sound | apply wUnitPower_sound
    | apply wTableLoad_sound | apply wTableFree_sound | apply wSeqSetting_sound | apply wGuard_sound
    | apply wStreamSetting_sound | split | dsimp only | simp only [Sound.mk_eq] | apply Sound.at

theorem writeMemory_sound (i j v : Nat) {s : State} (hs : s.Sound) :
    (writeMemory i j v s).2.Sound := by
  unfold writeMemory
  try dsimp only
  with_reducible repeat' first
    | assumption | apply State.setEnt_sound | apply wDeepTrim_sound | apply wMoveSubmit_sound | apply wChEnable_sound
    | apply wChSetting_sound | apply wChTail_sound | apply wCqHead_sound | apply wCqSetting_sound
    | apply wCqEnable_sound | apply putSetting_sound | apply wPool_sound | apply wMediaSetting_sound
    | apply wAperture_sound | split | dsimp only | simp only [Sound.mk_eq] | apply Sound.at

theorem writeSystem_sound (m : Master) (i j v : Nat) {s : State} (hs : s.Sound) :
    (writeSystem m i j v s).2.Sound := by
  unfold writeSystem
  try dsimp only
  with_reducible repeat' first
    | assumption | apply wDeclareDead_sound | apply wRoleAssign_sound | apply wAltClear_sound
    | apply wLedgerIndex_sound | apply wRestart_sound | apply wFwUpdate_sound | apply wFwConfirm_sound
    | apply wAttRequest_sound | apply wCounter_sound | apply wCountersClear_sound | apply wHoldBackTimeout_sound
    | apply wHoldLongest_sound | apply putSetting_sound | apply wCascSetting_sound | split | dsimp only
    | simp only [Sound.mk_eq] | apply Sound.at

theorem writeNat_sound (m : Master) (i j v : Nat) {s : State} (hs : s.Sound) :
    (writeNat m i j v s).2.Sound := by
  unfold writeNat
  try dsimp only
  with_reducible repeat' first
    | assumption | apply writePower_sound | apply writeNet_sound | apply writeArrays_sound | apply writeCompute_sound
    | apply writeMemory_sound | apply writeSystem_sound | split | dsimp only

theorem windowTry_sound (m : Master) (r : DictReq) (write : Bool) {s : State} (h : s.Sound) :
    (windowTry m r write s).2.Sound := by
  have hw := State.pathWrite_sound m (s.windowAddr m) r.data none true h
  have hr := State.pathRead_sound m (s.windowAddr m) r.want false none h
  unfold windowTry
  dsimp only
  cases write
  · simp only [Bool.false_eq_true, if_false]
    repeat' split
    all_goals first
      | exact State.answer_sound _ _ _ _ _ h
      | exact h
      | (rename_i heq; rw [heq] at hr; exact State.answer_sound _ _ _ _ _ (State.setWindow_sound _ _ hr))
      | (rename_i heq; rw [heq] at hr; exact hr)
  · simp only [if_true]
    repeat' split
    all_goals first
      | exact State.answer_sound _ _ _ _ _ h
      | exact h
      | (rename_i heq; rw [heq] at hw; exact State.answer_sound _ _ _ _ _ (State.setWindow_sound _ _ hw))
      | (rename_i heq; rw [heq] at hw; exact hw)

theorem serveEntry_sound (m : Master) (r : DictReq) (write : Bool) (w : Row) {s : State} (h : s.Sound) :
    (serveEntry m r write w s).2.Sound := by
  unfold serveEntry
  dsimp only
  split
  · exact windowTry_sound m r _ h
  · split
    · split
      · exact answerWrite_sound _ _ (wNonce_sound _ h)
      · exact answerWrite_sound _ _ (writeNat_sound _ _ _ _ h)
    · exact State.answer_sound _ _ _ _ _ h

theorem decideRequest_sound (m : Master) (r : DictReq) (write : Bool) {s : State} (h : s.Sound) :
    (decideRequest m r write s).2.Sound := by
  unfold decideRequest
  dsimp only
  split
  · exact State.answer_sound _ _ _ _ _ h
  · split
    · exact State.answer_sound _ _ _ _ _ h
    · exact serveEntry_sound m r _ _ h

theorem serveRequest_sound (m : Master) (r : DictReq) (write : Bool) {s : State} (hs : s.Sound) :
    (serveRequest m r write s).Sound := by
  unfold serveRequest
  try dsimp only
  with_reducible repeat' first
    | assumption | apply holdRequest_sound | apply waitRequest_sound | apply decideRequest_sound | split | dsimp only

theorem runHeld_sound {s : State} (hs : s.Sound) :
    (runHeld s).Sound := by
  unfold runHeld
  try dsimp only
  with_reducible repeat' first
    | assumption | apply State.modNet_sound | apply serveRequest_sound | apply Sound.foldl | intro _ | dsimp only
    | simp only [Sound.mk_eq] | apply Sound.at

theorem dictRequest_sound (m : Master) (r : DictReq) (write : Bool) {s : State} (hs : s.Sound) :
    (dictRequest m r write s).Sound := by
  unfold dictRequest
  try dsimp only
  with_reducible repeat' first
    | assumption | apply serveRequest_sound | apply runHeld_sound | split | dsimp only

theorem execRead_sound (m : Master) (r : DictReq) {s : State} (hs : s.Sound) :
    Result.Sound (execRead m r s) := by
  unfold execRead
  with_reducible repeat' first
    | exact trivial | apply Result.sound_next | assumption | apply dictRequest_sound

theorem execWrite_sound (m : Master) (r : DictReq) {s : State} (hs : s.Sound) :
    Result.Sound (execWrite m r s) := by
  unfold execWrite
  with_reducible repeat' first
    | exact trivial | apply Result.sound_next | assumption | apply dictRequest_sound

theorem execDictionaryWrite_sound (m : Master) (index : BitVec 16) (sub : BitVec 8) (data : List Byte) {s : State}
    (hs : s.Sound) :
    Result.Sound (execDictionaryWrite m index sub data s) := by
  unfold execDictionaryWrite
  try dsimp only
  with_reducible repeat' first
    | exact trivial | apply Result.sound_next | assumption | apply dictRequest_sound | dsimp only

theorem alteredWindow_sound (m : Master) (r : DictReq) (write : Bool) {s : State} (hs : s.Sound) :
    (alteredWindow m r write s).Sound := by
  unfold alteredWindow
  try dsimp only
  with_reducible repeat' first
    | assumption | apply State.takeFrees_sound | apply State.setWindow_sound | apply dictRequest_sound | split
    | dsimp only | simp only [Sound.mk_eq] | apply Sound.at

theorem windowRequest_sound (m : Master) (r : DictReq) (write : Bool) {s : State} (hs : s.Sound) :
    Result.Sound (windowRequest m r write s) := by
  unfold windowRequest
  with_reducible repeat' first
    | exact trivial | apply Result.sound_next | assumption | apply crossing_sound | apply dictRequest_sound
    | apply alteredWindow_sound

theorem execWindowDataRead_sound (m : Master) (n : Nat) {s : State} (hs : s.Sound) :
    Result.Sound (execWindowDataRead m n s) := by
  unfold execWindowDataRead
  with_reducible repeat' first
    | exact trivial | apply Result.sound_next | assumption | apply windowRequest_sound

theorem execWindowDataWrite_sound (m : Master) (data : List Byte) {s : State} (hs : s.Sound) :
    Result.Sound (execWindowDataWrite m data s) := by
  unfold execWindowDataWrite
  with_reducible repeat' first
    | exact trivial | apply Result.sound_next | assumption | apply windowRequest_sound

theorem execStoreSettings_sound (m : Master) (value : BitVec 8) {s : State} (hs : s.Sound) :
    Result.Sound (execStoreSettings m value s) := by
  unfold execStoreSettings
  try dsimp only
  with_reducible repeat' first
    | exact trivial | apply Result.sound_next | assumption | apply dictRequest_sound | dsimp only

theorem execT1RoleWrite_sound (m : Master) (value : BitVec 8) {s : State} (hs : s.Sound) :
    Result.Sound (execT1RoleWrite m value s) := by
  unfold execT1RoleWrite
  try dsimp only
  with_reducible repeat' first
    | exact trivial | apply Result.sound_next | assumption | apply dictRequest_sound | dsimp only

theorem execCounterClear_sound (m : Master) (index : BitVec 16) (sub : BitVec 8) (value : BitVec 16) {s : State}
    (hs : s.Sound) :
    Result.Sound (execCounterClear m index sub value s) := by
  unfold execCounterClear
  try dsimp only
  with_reducible repeat' first
    | exact trivial | apply Result.sound_next | assumption | apply dictRequest_sound | dsimp only

theorem takeFreed_sound {s : State} {t : State} (h_s : s.Sound) (h_t : t.Sound) :
    (takeFreed s t).Sound := by
  unfold takeFreed
  try dsimp only
  with_reducible repeat' first
    | assumption | apply runHeld_sound | intro _ | split | dsimp only

theorem execModeChangeApplied_sound {s : State} (hs : s.Sound) :
    Result.Sound (execModeChangeApplied s) := by
  unfold execModeChangeApplied
  with_reducible repeat' first
    | exact trivial | apply Result.sound_next | assumption | apply modeApplied_sound | apply takeFreed_sound

theorem execClkRampStep_sound (clk : Fin 4) {s : State} (hs : s.Sound) :
    Result.Sound (execClkRampStep clk s) := by
  unfold execClkRampStep
  with_reducible repeat' first
    | exact trivial | apply Result.sound_next | assumption | apply clkRampStep_sound | apply takeFreed_sound

theorem execRingCredit_sound (port : Fin 4) (p : Pkt) {s : State} (h : s.Sound) :
    Result.Sound (execRingCredit port p s) :=
  Result.sound_next (takeFreed_sound h (recvPkt_sound _ _ _ _ h (fun _ hu => ringCredit_sound _ hu)))

theorem execRingBindTimeout_sound (stream : BitVec 4) {s : State} (hs : s.Sound) :
    Result.Sound (execRingBindTimeout stream s) := by
  unfold execRingBindTimeout
  with_reducible repeat' first
    | exact trivial | apply Result.sound_next | assumption | apply ringBindTimeout_sound | apply takeFreed_sound

theorem execUmbraEntryEnd_sound {s : State} (hs : s.Sound) :
    Result.Sound (execUmbraEntryEnd s) := by
  unfold execUmbraEntryEnd
  try dsimp only
  with_reducible repeat' first
    | exact trivial | apply Result.sound_next | assumption | apply startWake_sound | apply State.enterUmbra_sound
    | apply runHeld_sound | split | dsimp only

theorem execUmbraWakeEnd_sound {s : State} (hs : s.Sound) :
    Result.Sound (execUmbraWakeEnd s) := by
  unfold execUmbraWakeEnd
  try dsimp only
  with_reducible repeat' first
    | exact trivial | apply Result.sound_next | assumption | apply State.leaveUmbra_sound | apply runHeld_sound
    | split | dsimp only

theorem execCoreHandover_sound {s : State} (hs : s.Sound) :
    Result.Sound (execCoreHandover s) := by
  unfold execCoreHandover
  try dsimp only
  with_reducible repeat' first
    | exact trivial | apply Result.sound_next | assumption | apply handCore_sound | apply runHeld_sound | split
    | dsimp only

theorem execCoreHandoverFail_sound (revertFails : Bool) {s : State} (hs : s.Sound) :
    Result.Sound (execCoreHandoverFail revertFails s) := by
  unfold execCoreHandoverFail
  try dsimp only
  with_reducible repeat' first
    | exact trivial | apply Result.sound_next | assumption | apply revertCores_sound | apply runHeld_sound | split
    | dsimp only

/-! ## Sessions.lean -/

theorem execT1LinkUp_sound (peerMaster : Bool) (sqi : BitVec 3) {s : State} (hs : s.Sound) :
    Result.Sound (execT1LinkUp peerMaster sqi s) := by
  unfold execT1LinkUp
  try dsimp only
  with_reducible repeat' first
    | exact trivial | apply Result.sound_next | assumption | apply State.modNet_sound | intro _ | split | dsimp only
    | simp only [Sound.mk_eq] | apply Sound.at

theorem execT1LinkDown_sound {s : State} (hs : s.Sound) :
    Result.Sound (execT1LinkDown s) := by
  unfold execT1LinkDown
  with_reducible repeat' first
    | exact trivial | apply Result.sound_next | assumption | apply t1Down_sound

theorem directAbort_sound (m : Master) (via : Via) (g : Segment) (code : Nat) {s : State} (hs : s.Sound) :
    (directAbort m via g code s).Sound := by
  unfold directAbort
  try dsimp only
  with_reducible repeat' first
    | assumption | apply State.count_sound | apply sendAnswer_sound | dsimp only

theorem seqAbort_sound (m : Master) (via : Via) (g : Segment) {s : State} (hs : s.Sound) :
    (seqAbort m via g s).Sound := by
  unfold seqAbort
  with_reducible repeat' first
    | assumption | apply State.count_sound | apply directAbort_sound

theorem openSession_sound (m : Master) (via : Via) {s : State} (h : s.Sound) :
    ∀ t, openSession m via s = some t → t.Sound := by
  intro t ht
  unfold openSession at ht
  dsimp only at ht
  repeat' (split at ht)
  all_goals cases ht
  all_goals exact State.modNet_sound _ (State.dropAwaits_sound _ h)

theorem acceptSeq_sound (m : Master) (via : Via) (seq : Nat) {s : State} (hs : s.Sound) :
    (acceptSeq m via seq s).Sound := by
  unfold acceptSeq
  try dsimp only
  with_reducible repeat' first
    | assumption | apply State.modNet_sound | apply State.modSession_sound | apply State.answer_sound | intro _
    | dsimp only | simp only [Sound.mk_eq] | apply Sound.at

theorem endRequest_sound (m : Master) (e : BitVec 16 × BitVec 8) (code : Nat) {s : State} (hs : s.Sound) :
    (endRequest m e code s).Sound := by
  unfold endRequest
  try dsimp only
  with_reducible repeat' first
    | assumption | apply State.modSession_sound | apply State.answer_sound | intro _ | dsimp only
    | simp only [Sound.mk_eq] | apply Sound.at

theorem dropReasm_sound (m : Master) (e : BitVec 16 × BitVec 8) (code : Nat) {s : State} (hs : s.Sound) :
    (dropReasm m e code s).Sound := by
  unfold dropReasm
  with_reducible repeat' first
    | assumption | apply State.count_sound | apply endRequest_sound

theorem putSegment_sound (m : Master) (r : Reasm) (g : Segment) {s : State} (hs : s.Sound) :
    (putSegment m r g s).Sound := by
  unfold putSegment
  try dsimp only
  with_reducible repeat' first
    | assumption | apply State.modSession_sound | apply dictRequest_sound | apply endRequest_sound
    | apply dropReasm_sound | intro _ | split | dsimp only | simp only [Sound.mk_eq] | apply Sound.at

theorem newRequest_sound (m : Master) (via : Via) (g : Segment) {s : State} (hs : s.Sound) :
    (newRequest m via g s).Sound := by
  unfold newRequest
  try dsimp only
  with_reducible repeat' first
    | assumption | apply acceptSeq_sound | apply endRequest_sound | apply dropReasm_sound | apply putSegment_sound
    | split | dsimp only

theorem sendDuplicate_sound (x : Session) (via : Via) {s : State} (hs : s.Sound) :
    (sendDuplicate x via s).Sound := by
  unfold sendDuplicate
  try dsimp only
  with_reducible repeat' first
    | assumption | apply State.addCnt_sound | apply sendAnswer_sound | apply State.answer_sound | split | dsimp only
    | simp only [Sound.mk_eq] | apply Sound.at

theorem sessionSegment_sound (x : Session) (via : Via) (g : Segment) {s : State} (hs : s.Sound) :
    (sessionSegment x via g s).Sound := by
  unfold sessionSegment
  try dsimp only
  with_reducible repeat' first
    | assumption | apply State.addCnt_sound | apply directAbort_sound | apply seqAbort_sound | apply endRequest_sound
    | apply putSegment_sound | apply newRequest_sound | apply sendDuplicate_sound | split | dsimp only
    | simp only [Sound.mk_eq] | apply Sound.at

theorem syncSegment_sound (m : Master) (via : Via) (g : Segment) {s : State} (h : s.Sound) :
    (syncSegment m via g s).Sound := by
  unfold syncSegment
  repeat' split
  all_goals first
    | exact sessionSegment_sound _ _ _ h
    | exact newRequest_sound _ _ _ (openSession_sound _ _ h _ (by assumption))
    | exact directAbort_sound _ _ _ _ h

theorem takeSegment_sound (m : Master) (via : Via) (g : Segment) {s : State} (hs : s.Sound) :
    (takeSegment m via g s).Sound := by
  unfold takeSegment
  try dsimp only
  with_reducible repeat' first
    | assumption | apply directAbort_sound | apply seqAbort_sound | apply sessionSegment_sound
    | apply syncSegment_sound | split | dsimp only | simp only [Sound.mk_eq] | apply Sound.at

theorem sourceSlot_sound (src : BitVec 64) {s : State} (h : s.Sound) : (sourceSlot src s).2.Sound := by
  unfold sourceSlot
  repeat' split
  · exact h
  · dsimp only; exact State.modNet_sound _ h
  · dsimp only; exact State.modNet_sound _ h

theorem noteFwd_sound (m : Master) (enc : Encap) (role : Nat) (g : Segment) {s : State} (h : s.Sound) :
    (noteFwd m enc role g s).2.Sound := by
  unfold noteFwd
  dsimp only
  split
  · dsimp only; exact State.modNet_sound _ h
  · dsimp only; exact State.addCnt_sound _ _ _ (State.modNet_sound _ (State.takeId_sound h))

theorem masterKind_sound (m : Master) {s : State} (hs : s.Sound) :
    (masterKind m s).2.Sound := by
  unfold masterKind
  try dsimp only
  with_reducible repeat' first
    | assumption | apply sourceSlot_sound | split | dsimp only | simp only [Sound.mk_eq] | apply Sound.at

theorem forwardSegment_sound (m : Master) (enc : Encap) (g : Segment) {s : State} (hs : s.Sound) :
    (forwardSegment m enc g s).Sound := by
  unfold forwardSegment
  try dsimp only
  with_reducible repeat' first
    | assumption | apply State.send_sound | apply directAbort_sound | apply noteFwd_sound | apply masterKind_sound
    | split | dsimp only

theorem fieldSegment_sound (m : Master) (enc : Encap) (g : Segment) {s : State} (hs : s.Sound) :
    (fieldSegment m enc g s).Sound := by
  unfold fieldSegment
  try dsimp only
  with_reducible repeat' first
    | assumption | apply takeSegment_sound | apply forwardSegment_sound | split | dsimp only | simp only [Sound.mk_eq]
    | apply Sound.at

theorem execSegmentReceive_sound (m : Master) (seg : Segment) {s : State} (hs : s.Sound) :
    Result.Sound (execSegmentReceive m seg s) := by
  unfold execSegmentReceive
  try dsimp only
  with_reducible repeat' first
    | exact trivial | apply Result.sound_next | assumption | apply fieldSegment_sound | split | dsimp only

theorem execDict_sound (port : Fin 4) (p : Pkt) (seg : Segment) {s : State} (hs : s.Sound) :
    Result.Sound (execDict port p seg s) := by
  unfold execDict
  try dsimp only
  with_reducible repeat' first
    | exact trivial | apply Result.sound_next | assumption | apply discardPkt_sound | apply recvPkt_sound
    | apply takeSegment_sound | intro _ | split | dsimp only

theorem sendMailbox_sound (n role : Nat) {s : State} (hs : s.Sound) :
    (sendMailbox n role s).Sound := by
  unfold sendMailbox
  try dsimp only
  with_reducible repeat' first
    | assumption | apply State.modNet_sound | apply State.send_sound | apply noteFwd_sound | apply Sound.foldl
    | intro _ | dsimp only | simp only [Sound.mk_eq] | apply Sound.at

theorem pumpMailboxes_sound {s : State} (hs : s.Sound) :
    (pumpMailboxes s).Sound := by
  unfold pumpMailboxes
  try dsimp only
  with_reducible repeat' first
    | assumption | apply State.modNet_sound | apply State.answer_sound | apply sendMailbox_sound | apply Sound.foldl
    | intro _ | split | dsimp only | simp only [Sound.mk_eq] | apply Sound.at

theorem suspendRole_sound (r : Nat) {s : State} (hs : s.Sound) :
    (suspendRole r s).Sound := by
  unfold suspendRole
  try dsimp only
  with_reducible repeat' first
    | assumption | apply State.modCasc_sound | intro _ | split | dsimp only | simp only [Sound.mk_eq] | apply Sound.at

theorem deliverAnswer_sound (f : Fwd) (g : Segment) {s : State} (hs : s.Sound) :
    (deliverAnswer f g s).Sound := by
  unfold deliverAnswer
  try dsimp only
  with_reducible repeat' first
    | assumption | apply State.modNet_sound | apply fillMailbox_sound | apply State.sendFrame_sound
    | apply pumpMailboxes_sound | apply suspendRole_sound | intro _ | split | dsimp only | simp only [Sound.mk_eq]
    | apply Sound.at

theorem execDictRsp_sound (port : Fin 4) (p : Pkt) (seg : Segment) {s : State} (hs : s.Sound) :
    Result.Sound (execDictRsp port p seg s) := by
  unfold execDictRsp
  try dsimp only
  with_reducible repeat' first
    | exact trivial | apply Result.sound_next | assumption | apply recvPkt_sound | apply deliverAnswer_sound | intro _
    | split | dsimp only | simp only [Sound.mk_eq] | apply Sound.at

theorem execForwardTimeout_sound (m : Master) (role : BitVec 5) {s : State} (hs : s.Sound) :
    Result.Sound (execForwardTimeout m role s) := by
  unfold execForwardTimeout
  try dsimp only
  with_reducible repeat' first
    | exact trivial | apply Result.sound_next | assumption | apply State.toTick_sound | apply abortFwd_sound
    | apply pumpMailboxes_sound | split | dsimp only | simp only [Sound.mk_eq] | apply Sound.at

theorem execCancel_sound (m : Master) (seq : BitVec 16) {s : State} (hs : s.Sound) :
    Result.Sound (execCancel m seq s) := by
  unfold execCancel
  try dsimp only
  with_reducible repeat' first
    | exact trivial | apply Result.sound_next | assumption | apply takeSegment_sound | split | dsimp only
    | apply Memory.wf_puts | apply Memory.wf_clear | apply Memory.wf_filter | apply twf_tset | apply capped_tset
    | apply rest_tset | apply State.Sound.mem | apply State.Sound.host | apply State.Sound.sync
    | apply State.Sound.cnt | apply State.Sound.capped | apply State.Sound.rest | exact twf_nil | omega
    | (refine SoundAt.mk ?_ ?_ ?_ ?_ ?_ ?_)

theorem execSegTimeout_sound (m : Master) {s : State} (hs : s.Sound) :
    Result.Sound (execSegTimeout m s) := by
  unfold execSegTimeout
  try dsimp only
  with_reducible repeat' first
    | exact trivial | apply Result.sound_next | assumption | apply State.toTick_sound | apply dropReasm_sound
    | intro _ | split | dsimp only | simp only [Sound.mk_eq] | apply Sound.at

theorem arpAnswer_sound (vlan : Option (BitVec 16)) (mac : BitVec 48) (senderIp : BitVec 32) {s : State}
    (hs : s.Sound) :
    (arpAnswer vlan mac senderIp s).Sound := by
  unfold arpAnswer
  with_reducible repeat' first
    | assumption | apply State.emit_sound

theorem echoAnswer_sound (vlan : Option (BitVec 16)) (mac : BitVec 48) (senderIp : BitVec 32) (rest : List Byte)
    {s : State} (hs : s.Sound) :
    (echoAnswer vlan mac senderIp rest s).Sound := by
  unfold echoAnswer
  with_reducible repeat' first
    | assumption | apply State.emit_sound

theorem ipFrame_sound (x : FrameIn) {s : State} (hs : s.Sound) :
    (ipFrame x s).Sound := by
  unfold ipFrame
  try dsimp only
  with_reducible repeat' first
    | assumption | apply State.addCnt_sound | apply arpAnswer_sound | apply echoAnswer_sound | intro _ | split
    | dsimp only | simp only [Sound.mk_eq] | apply Sound.at

theorem execFrameReceive_sound (frame : List Byte) {s : State} (hs : s.Sound) :
    Result.Sound (execFrameReceive frame s) := by
  unfold execFrameReceive
  try dsimp only
  with_reducible repeat' first
    | exact trivial | apply Result.sound_next | assumption | apply State.addCnt_sound | apply fieldSegment_sound
    | apply ipFrame_sound | intro _ | split | dsimp only | simp only [Sound.mk_eq] | apply Sound.at

theorem execArpRequest_sound (mac : BitVec 48) (senderIp ip : BitVec 32) {s : State} (hs : s.Sound) :
    Result.Sound (execArpRequest mac senderIp ip s) := by
  unfold execArpRequest
  try dsimp only
  with_reducible repeat' first
    | exact trivial | apply Result.sound_next | assumption | apply State.addCnt_sound | apply arpAnswer_sound | split
    | dsimp only

theorem execIcmpEcho_sound (mac : BitVec 48) (senderIp ip : BitVec 32) (rest : List Byte) {s : State} (hs : s.Sound) :
    Result.Sound (execIcmpEcho mac senderIp ip rest s) := by
  unfold execIcmpEcho
  try dsimp only
  with_reducible repeat' first
    | exact trivial | apply Result.sound_next | assumption | apply State.addCnt_sound | apply echoAnswer_sound | split
    | dsimp only

/-! ## PcieConfig.lean -/

theorem State.modCfg_sound {s : State} (f : PcieFn) (g : PcieCfg → PcieCfg) (hs : s.Sound) :
    (State.modCfg s f g).Sound := by
  unfold State.modCfg
  try dsimp only
  with_reducible repeat' first
    | assumption | apply State.modPcie_sound | intro _ | dsimp only | simp only [Sound.mk_eq] | apply Sound.at

theorem unsupported_sound (f : PcieFn) {s : State} (hs : s.Sound) :
    (unsupported f s).Sound := by
  unfold unsupported
  try dsimp only
  with_reducible repeat' first
    | assumption | apply State.emit_sound | apply State.modCfg_sound | intro _ | dsimp only | simp only [Sound.mk_eq]
    | apply Sound.at

/-! ## Pcie.lean -/

theorem execPerst_sound {s : State} (hs : s.Sound) :
    Result.Sound (execPerst s) := by
  unfold execPerst
  try dsimp only
  with_reducible repeat' first
    | exact trivial | apply Result.sound_next | assumption | apply resetPort_sound | apply pcieDown_sound | split
    | dsimp only

theorem resetPf0_sound {s : State} (hs : s.Sound) :
    (resetPf0 s).Sound := by
  unfold resetPf0
  try dsimp only
  with_reducible repeat' first
    | assumption | apply State.modPcie_sound | apply dropHostChans_sound | apply dropMailboxes_sound
    | apply dropApertures_sound | apply resetQueues_sound | intro _ | dsimp only | simp only [Sound.mk_eq]
    | apply Sound.at

theorem resetPf1_sound {s : State} (hs : s.Sound) :
    (resetPf1 s).Sound := by
  unfold resetPf1
  try dsimp only
  with_reducible repeat' first
    | assumption | apply State.modPcie_sound | apply dropMailboxes_sound | intro _ | dsimp only
    | simp only [Sound.mk_eq] | apply Sound.at

theorem execFunctionLevelReset_sound (f : PcieFn) {s : State} (hs : s.Sound) :
    Result.Sound (execFunctionLevelReset f s) := by
  unfold execFunctionLevelReset
  try dsimp only
  with_reducible repeat' first
    | exact trivial | apply Result.sound_next | assumption | apply resetPf0_sound | apply resetPf1_sound | split
    | dsimp only | simp only [Sound.mk_eq] | apply Sound.at

theorem execPcieLinkNotUsable_sound (why : PcieLoss) {s : State} (hs : s.Sound) :
    Result.Sound (execPcieLinkNotUsable why s) := by
  unfold execPcieLinkNotUsable
  try dsimp only
  with_reducible repeat' first
    | exact trivial | apply Result.sound_next | assumption | apply State.modPcie_sound | apply pcieLost_sound
    | apply pcieDown_sound | intro _ | split | dsimp only | simp only [Sound.mk_eq] | apply Sound.at

theorem trainPcie_sound {s : State} (hs : s.Sound) :
    (trainPcie s).Sound := by
  unfold trainPcie
  try dsimp only
  with_reducible repeat' first
    | assumption | apply State.modPcie_sound | apply State.takeFree_sound | intro _ | dsimp only
    | simp only [Sound.mk_eq] | apply Sound.at

theorem execPcieLinkUsable_sound {s : State} (hs : s.Sound) :
    Result.Sound (execPcieLinkUsable s) := by
  unfold execPcieLinkUsable
  try dsimp only
  with_reducible repeat' first
    | exact trivial | apply Result.sound_next | assumption | apply State.modClk_sound | apply State.modPcie_sound
    | apply deliverWaiting_sound | apply trainPcie_sound | intro _ | split | dsimp only | simp only [Sound.mk_eq]
    | apply Sound.at

theorem sendPending_sound (v : Nat) {s : State} (hs : s.Sound) :
    (sendPending v s).Sound := by
  unfold sendPending
  try dsimp only
  with_reducible repeat' first
    | assumption | apply State.modPcie_sound | apply State.emit_sound | intro _ | split | dsimp only
    | simp only [Sound.mk_eq] | apply Sound.at

theorem unmaskVector_sound (v : Nat) {s : State} (hs : s.Sound) :
    (unmaskVector v s).Sound := by
  unfold unmaskVector
  try dsimp only
  with_reducible repeat' first
    | assumption | apply State.modPcie_sound | apply sendPending_sound | intro _ | dsimp only
    | simp only [Sound.mk_eq] | apply Sound.at

theorem functionMask_sound (on : Bool) {s : State} (hs : s.Sound) :
    (functionMask on s).Sound := by
  unfold functionMask
  try dsimp only
  with_reducible repeat' first
    | assumption | apply State.modPcie_sound | apply sendPending_sound | apply Sound.foldl | intro _ | dsimp only
    | simp only [Sound.mk_eq] | apply Sound.at

theorem msixEnable_sound (on : Bool) {s : State} (hs : s.Sound) :
    (msixEnable on s).Sound := by
  unfold msixEnable
  try dsimp only
  with_reducible repeat' first
    | assumption | apply State.modPcie_sound | apply sendPending_sound | apply Sound.foldl | intro _ | dsimp only
    | simp only [Sound.mk_eq] | apply Sound.at

theorem maskVector_sound (v : Nat) {s : State} (hs : s.Sound) :
    (maskVector v s).Sound := by
  unfold maskVector
  try dsimp only
  with_reducible repeat' first
    | assumption | apply State.modPcie_sound | intro _ | split | dsimp only | simp only [Sound.mk_eq] | apply Sound.at

theorem execMsixUnmask_sound (what : MsixMask) {s : State} (hs : s.Sound) :
    Result.Sound (execMsixUnmask what s) := by
  unfold execMsixUnmask
  try dsimp only
  with_reducible repeat' first
    | exact trivial | apply Result.sound_next | assumption | apply unmaskVector_sound | apply functionMask_sound
    | apply msixEnable_sound | intro _ | split | dsimp only | simp only [Sound.mk_eq] | apply Sound.at

theorem msixWrite_sound (a : Nat) (bs : List Byte) {s : State} (hs : s.Sound) :
    (msixWrite a bs s).Sound := by
  unfold msixWrite
  try dsimp only
  with_reducible repeat' first
    | assumption | apply State.modPcie_sound | apply unmaskVector_sound | apply maskVector_sound | apply Sound.foldl
    | intro _ | split | dsimp only | simp only [Sound.mk_eq] | apply Sound.at

theorem mbGo_sound (n v : Nat) {s : State} (hs : s.Sound) :
    (mbGo n v s).Sound := by
  unfold mbGo
  try dsimp only
  with_reducible repeat' first
    | assumption | apply State.modNet_sound | apply State.addCnt_sound | apply State.setMb_sound
    | apply State.answer_sound | apply dictRequest_sound | apply pumpMailboxes_sound | intro _ | split | dsimp only
    | simp only [Sound.mk_eq] | apply Sound.at

theorem execMbGo_sound (mb : BitVec 3) (value : Word) {s : State} (hs : s.Sound) :
    Result.Sound (execMbGo mb value s) := by
  unfold execMbGo
  try dsimp only
  with_reducible repeat' first
    | exact trivial | apply Result.sound_next | assumption | apply pathFails_sound | apply mbGo_sound | split
    | dsimp only

theorem mbWrite_sound (k off : Nat) (bs : List Byte) {s : State} (h : s.Sound) :
    ∀ t, mbWrite k off bs s = some t → t.Sound := by
  intro t ht
  unfold mbWrite at ht
  dsimp only at ht
  repeat' (split at ht)
  all_goals cases ht
  all_goals first
    | exact mbGo_sound _ _ h
    | exact h
    | exact State.addCnt_sound _ _ _ h
    | exact State.setMb_sound _ _ h

theorem doorbell_sound (off v : Nat) {s : State} (h : s.Sound) : ∀ t, doorbell off v s = some t → t.Sound := by
  intro t ht
  unfold doorbell at ht
  repeat' (split at ht)
  all_goals first
    | cases ht
    | exact tailWrite_sound _ _ h t ht
    | exact chTailWrite_sound _ _ h t ht
    | exact cqHeadWrite_sound _ h t ht

theorem hostDoorbell_sound (off v : Nat) {s : State} (h : s.Sound) : (hostDoorbell off v s).Sound := by
  unfold hostDoorbell
  split
  · exact h
  · split
    · exact unsupported_sound _ h
    · apply pathAnswer_sound _ h
      intro t ht
      split at ht
      · cases ht
      · exact doorbell_sound _ _ h t ht

theorem execStreamTail_sound (stream : BitVec 4) (value : Word) {s : State} (hs : s.Sound) :
    Result.Sound (execStreamTail stream value s) := by
  unfold execStreamTail
  with_reducible repeat' first
    | exact trivial | apply Result.sound_next | assumption | apply hostDoorbell_sound

theorem execChTail_sound (chan : BitVec 4) (value : Word) {s : State} (hs : s.Sound) :
    Result.Sound (execChTail chan value s) := by
  unfold execChTail
  with_reducible repeat' first
    | exact trivial | apply Result.sound_next | assumption | apply hostDoorbell_sound

theorem execCqHead_sound (value : Word) {s : State} (hs : s.Sound) :
    Result.Sound (execCqHead value s) := by
  unfold execCqHead
  with_reducible repeat' first
    | exact trivial | apply Result.sound_next | assumption | apply hostDoorbell_sound

theorem remoteAccess_sound (role addr : Nat) (a : Access) {s : State} (hs : s.Sound) :
    (remoteAccess role addr a s).Sound := by
  unfold remoteAccess
  try dsimp only
  with_reducible repeat' first
    | assumption | apply startRemote_sound | apply Sound.foldl | intro _ | split | dsimp only
    | simp only [Sound.mk_eq] | apply Sound.at

theorem apertureAccess_sound (off : Nat) (a : Access) {s : State} (hs : s.Sound) :
    (apertureAccess off a s).Sound := by
  unfold apertureAccess
  try dsimp only
  with_reducible repeat' first
    | assumption | apply hostFails_sound | apply accessPath_sound | apply remoteAccess_sound | split | dsimp only

theorem barRead_sound {s : State} (n : Nat) (r : Option (List Byte)) (hs : s.Sound) :
    (barRead s n r).Sound := by
  unfold barRead
  try dsimp only
  with_reducible repeat' first
    | assumption | apply State.emit_sound | apply readFails_sound | split | dsimp only | simp only [Sound.mk_eq]
    | apply Sound.at

theorem barMailbox_sound (k off : Nat) (a : Access) {s : State} (h : s.Sound) : (barMailbox k off a s).Sound := by
  unfold barMailbox
  split
  · exact barRead_sound _ _ h
  · exact pathAnswer_sound _ h (mbWrite_sound _ _ _ h)

theorem barDoorbell_sound (off : Nat) (a : Access) {s : State} (h : s.Sound) : (barDoorbell off a s).Sound := by
  unfold barDoorbell
  split
  · exact barRead_sound _ _ h
  · apply pathAnswer_sound _ h
    intro t ht
    split at ht
    · exact doorbell_sound _ _ h t ht
    · cases ht

theorem barMsix_sound (off : Nat) (a : Access) {s : State} (h : s.Sound) : (barMsix off a s).Sound := by
  unfold barMsix
  split
  · exact barRead_sound _ _ h
  · apply pathAnswer_sound _ h
    intro t ht
    split at ht
    · cases ht; exact msixWrite_sound _ _ h
    · cases ht

theorem barPba_sound (off : Nat) (a : Access) {s : State} (hs : s.Sound) :
    (barPba off a s).Sound := by
  unfold barPba
  try dsimp only
  with_reducible repeat' first
    | assumption | apply pathFails_sound | apply barRead_sound | split | dsimp only | simp only [Sound.mk_eq]
    | apply Sound.at

theorem barAperture_sound (off : Nat) (a : Access) {s : State} (h : s.Sound) : (barAperture off a s).Sound := by
  unfold barAperture
  split
  · exact barRead_sound _ _ h
  · apply pathAnswer_sound _ h
    intro t ht
    split at ht
    · cases ht; exact Sound.foldl h (fun _ _ hu => wAperture_sound _ _ hu)
    · cases ht

theorem pf0Bar0_sound (off : Nat) (a : Access) {s : State} (hs : s.Sound) :
    (pf0Bar0 off a s).Sound := by
  unfold pf0Bar0
  try dsimp only
  with_reducible repeat' first
    | assumption | apply hostFails_sound | apply accessPath_sound | apply barMailbox_sound | apply barDoorbell_sound
    | apply barMsix_sound | apply barPba_sound | apply barAperture_sound | split | dsimp only
    | simp only [Sound.mk_eq] | apply Sound.at

theorem pf1Bar0_sound (off : Nat) (a : Access) {s : State} (hs : s.Sound) :
    (pf1Bar0 off a s).Sound := by
  unfold pf1Bar0
  try dsimp only
  with_reducible repeat' first
    | assumption | apply hostFails_sound | apply barMailbox_sound | split | dsimp only | simp only [Sound.mk_eq]
    | apply Sound.at

theorem barDo_sound (f : PcieFn) (bar : BitVec 3) (off : Nat) (a : Access) {s : State} (hs : s.Sound) :
    (barDo f bar off a s).Sound := by
  unfold barDo
  try dsimp only
  with_reducible repeat' first
    | assumption | apply hostFails_sound | apply unsupported_sound | apply apertureAccess_sound | apply pf0Bar0_sound
    | apply pf1Bar0_sound | split | dsimp only | simp only [Sound.mk_eq] | apply Sound.at

theorem loseMaster_sound {s : State} (hs : s.Sound) :
    (loseMaster s).Sound := by
  unfold loseMaster
  try dsimp only
  with_reducible repeat' first
    | assumption | apply State.modPcie_sound | apply pcieLost_sound | intro _ | split | dsimp only
    | simp only [Sound.mk_eq] | apply Sound.at

theorem enterD3_sound {s : State} (hs : s.Sound) :
    (enterD3 s).Sound := by
  unfold enterD3
  try dsimp only
  with_reducible repeat' first
    | assumption | apply State.modPcie_sound | apply pcieLost_sound | intro _ | split | dsimp only
    | simp only [Sound.mk_eq] | apply Sound.at

theorem cfgCommand_sound (f : PcieFn) (v : Nat) {s : State} (hs : s.Sound) :
    (cfgCommand f v s).Sound := by
  unfold cfgCommand
  try dsimp only
  with_reducible repeat' first
    | assumption | apply State.modPcie_sound | apply deliverWaiting_sound | apply State.modCfg_sound
    | apply loseMaster_sound | intro _ | split | dsimp only | simp only [Sound.mk_eq] | apply Sound.at

theorem cfgPower_sound (f : PcieFn) (v : Nat) {s : State} (hs : s.Sound) :
    (cfgPower f v s).Sound := by
  unfold cfgPower
  try dsimp only
  with_reducible repeat' first
    | assumption | apply State.modPcie_sound | apply deliverWaiting_sound | apply enterD3_sound | intro _ | split
    | dsimp only | simp only [Sound.mk_eq] | apply Sound.at

theorem cfgWord_sound (f : PcieFn) (a v : Nat) {s : State} (hs : s.Sound) :
    (cfgWord f a v s).Sound := by
  unfold cfgWord
  try dsimp only
  with_reducible repeat' first
    | assumption | apply State.modCfg_sound | apply resetPf0_sound | apply resetPf1_sound | apply functionMask_sound
    | apply msixEnable_sound | apply cfgCommand_sound | apply cfgPower_sound | intro _ | split | dsimp only
    | simp only [Sound.mk_eq] | apply Sound.at

theorem cfgWrite_sound (f : PcieFn) (off : Nat) (bs : List Byte) {s : State} (hs : s.Sound) :
    (cfgWrite f off bs s).Sound := by
  unfold cfgWrite
  try dsimp only
  with_reducible repeat' first
    | assumption | apply cfgWord_sound | split | dsimp only

theorem configAccess_sound (f : PcieFn) (off : Nat) (a : Access) {s : State} (hs : s.Sound) :
    (configAccess f off a s).Sound := by
  unfold configAccess
  try dsimp only
  with_reducible repeat' first
    | assumption | apply State.emit_sound | apply unsupported_sound | apply cfgWrite_sound | split | dsimp only
    | simp only [Sound.mk_eq] | apply Sound.at

theorem execBarAccess_sound (f : PcieFn) (space : PcieSpace) (offset : BitVec 32) (a : Access) {s : State}
    (hs : s.Sound) :
    Result.Sound (execBarAccess f space offset a s) := by
  unfold execBarAccess
  try dsimp only
  with_reducible repeat' first
    | exact trivial | apply Result.sound_next | assumption | apply crossing_sound | apply alteredAccess_sound
    | apply barDo_sound | apply configAccess_sound | split | dsimp only | simp only [Sound.mk_eq] | apply Sound.at

/-! ## Issue.lean -/

theorem fetchBundle_sound {s : State} (h : s.Sound) : (fetchBundle s).2.Sound := by
  unfold fetchBundle
  split
  · exact h
  · exact State.takeFree_sound h

theorem rankSuppress_sound {s : State} (hs : s.Sound) :
    (rankSuppress s).Sound := by
  unfold rankSuppress
  try dsimp only
  with_reducible repeat' first
    | assumption | apply State.sendLock_sound | apply State.rankHaltAll_sound | apply beginStall_sound
    | apply State.modLock_sound | intro _ | dsimp only | simp only [Sound.mk_eq] | apply Sound.at

theorem ibufHalt_sound (c : SlotCtx) {s : State} (hs : s.Sound) :
    (ibufHalt c s).Sound := by
  unfold ibufHalt
  try dsimp only
  with_reducible repeat' first
    | assumption | apply State.failJob_sound | apply State.haltSeq_sound | apply State.raiseExc_sound
    | apply rankSuppress_sound | apply Sound.foldl | intro _ | split | dsimp only | simp only [Sound.mk_eq]
    | apply Sound.at

theorem slotOp_sound {pre : State} (i : Instr) {s : State} (h_pre : pre.Sound) (h_s : s.Sound) :
    (slotOp pre i s).Sound := by
  unfold slotOp
  try dsimp only
  with_reducible repeat' first
    | assumption | apply State.signal_sound | apply opJump_sound | apply opBnz_sound | apply opBz_sound
    | apply opLoop_sound | apply opCall_sound | apply opRet_sound | apply opIdle_sound | apply opTrap_sound
    | apply opHalt_sound | apply opSignal_sound | apply opSet_sound | apply opSetX_sound | apply opSignalPeer_sound
    | apply opAddi_sound | apply opAdd_sound | apply opSub_sound | apply opAnd_sound | apply opOr_sound
    | apply opShli_sound | apply opShri_sound | apply opMovhi_sound | apply opCyc_sound | apply opSyncRd_sound
    | apply opLd_sound | apply opSt_sound | apply opDictRd_sound | apply opDictWr_sound | apply opTagjob_sound
    | apply opJobTake_sound | apply opJobDone_sound | apply opRingPush_sound | apply opLaunch_sound
    | apply opMatrix_sound | apply opVector_sound | apply opMove_sound | apply opSubmit_sound | split | dsimp only
    | simp only [Sound.mk_eq] | apply Sound.at

theorem slotStep_sound {pre : State} (x : SlotCtx × SlotDec) {s : State} (h_pre : pre.Sound) (h_s : s.Sound) :
    (slotStep pre x s).Sound := by
  unfold slotStep
  try dsimp only
  with_reducible repeat' first
    | assumption | apply State.slotFault_sound | apply slotOp_sound | split | dsimp only | simp only [Sound.mk_eq]
    | apply Sound.at

theorem clearLock_sound (released : Bool) {s : State} (hs : s.Sound) :
    (clearLock released s).Sound := by
  unfold clearLock
  try dsimp only
  with_reducible repeat' first
    | assumption | apply State.modLock_sound | intro _ | split | dsimp only | simp only [Sound.mk_eq] | apply Sound.at

theorem issueBundle_sound (w : BitVec 512) (released : Bool) {s : State} (hs : s.Sound) :
    (issueBundle w released s).Sound := by
  unfold issueBundle
  try dsimp only
  with_reducible repeat' first
    | assumption | apply State.modSeq_sound | apply countStall_sound | apply State.settleHalt_sound
    | apply State.compareBranches_sound | apply slotStep_sound | apply clearLock_sound | apply Sound.foldl | intro _
    | split | dsimp only | simp only [Sound.mk_eq] | apply Sound.at

theorem withFetch_sound (e : Ecc) {go : BitVec 512 → State → State} {s : State} (h : s.Sound)
    (hg : ∀ w u, u.Sound → (go w u).Sound) : (withFetch e go s).Sound := by
  unfold withFetch
  split
  · exact hg _ _ (fetchBundle_sound h)
  · exact hg _ _ (State.count_sound _ _ _ (fetchBundle_sound h))
  · exact ibufHalt_sound _ (fetchBundle_sound h)

theorem issueOrStall_sound (w : BitVec 512) {s : State} (hs : s.Sound) :
    (issueOrStall w s).Sound := by
  unfold issueOrStall
  try dsimp only
  with_reducible repeat' first
    | assumption | apply beginStall_sound | apply issueBundle_sound | split | dsimp only

theorem State.firstReady_sound (w : BitVec 512) {s : State} (h : s.Sound) : ∀ t, s.firstReady w = some t → t.Sound :=
  State.first_sound _ h

theorem readIdle_sound (w : BitVec 512) {s : State} (hs : s.Sound) :
    (readIdle w s).Sound := by
  unfold readIdle
  try dsimp only
  with_reducible repeat' first
    | assumption | apply State.readRings_sound | apply Sound.foldl | intro _ | split | dsimp only
    | simp only [Sound.mk_eq] | apply Sound.at

theorem checkBundle_sound (w : BitVec 512) {s0 : State} (hs : s0.Sound) :
    (checkBundle w s0).Sound := by
  unfold checkBundle
  try dsimp only
  with_reducible repeat' first
    | assumption | apply State.asOf_sound | apply State.sendLock_sound | apply beginStall_sound
    | apply State.modLock_sound | apply readIdle_sound | intro _ | split | dsimp only | simp only [Sound.mk_eq]
    | apply Sound.at

theorem recheckBundle_sound (w : BitVec 512) {s : State} (h : s.Sound) : (recheckBundle w s).Sound := by
  have h0 := readIdle_sound w h
  unfold recheckBundle
  dsimp only
  split
  · have h1 := State.firstReady_sound w h0 _ (by assumption)
    split
    · exact State.passReady_sound _ _ (State.noteReady_sound _ _ h1)
    · exact h0
  · exact h0

theorem execRankCheck_sound (ecc : Ecc) {s : State} (hs : s.Sound) :
    Result.Sound (execRankCheck ecc s) := by
  unfold execRankCheck
  try dsimp only
  with_reducible repeat' first
    | exact trivial | apply Result.sound_next | assumption | apply State.count_sound | apply State.toCycle_sound
    | apply ibufHalt_sound | apply checkBundle_sound | apply recheckBundle_sound | split | dsimp only
    | simp only [Sound.mk_eq] | apply Sound.at

theorem rankIssue_sound (w : BitVec 512) {s : State} (hs : s.Sound) :
    (rankIssue w s).Sound := by
  unfold rankIssue
  try dsimp only
  with_reducible repeat' first
    | assumption | apply beginStall_sound | apply State.tryRelease_sound | apply issueBundle_sound
    | apply checkBundle_sound | split | dsimp only

theorem rankRelease_sound (ecc : Ecc) {s : State} (hs : s.Sound) :
    (rankRelease ecc s).Sound := by
  unfold rankRelease
  try dsimp only
  with_reducible repeat' first
    | assumption | apply State.toCycle_sound | apply State.tryRelease_sound | apply issueBundle_sound
    | apply withFetch_sound | intro _ | split | dsimp only | simp only [Sound.mk_eq] | apply Sound.at

theorem execBundleIssue_sound (ecc : Ecc) {s : State} (hs : s.Sound) :
    Result.Sound (execBundleIssue ecc s) := by
  unfold execBundleIssue
  try dsimp only
  with_reducible repeat' first
    | exact trivial | apply Result.sound_next | assumption | apply State.toCycle_sound | apply withFetch_sound
    | apply issueOrStall_sound | apply rankIssue_sound | split | dsimp only | simp only [Sound.mk_eq] | apply Sound.at

theorem execStalledBundleIssue_sound (ecc : Ecc) {s : State} (h : s.Sound) :
    Result.Sound (execStalledBundleIssue ecc s) := by
  unfold execStalledBundleIssue
  apply Result.sound_next
  have hf := State.firstReady_sound s.bundleNow h
  repeat' split
  all_goals first
    | exact h
    | exact rankRelease_sound _ h
    | exact withFetch_sound _ (hf _ (by assumption)) (fun _ _ hu => issueOrStall_sound _ hu)
    | exact hf _ (by assumption)

theorem scalarBusError_sound (a : ScalarAccess) (addr : Nat) {s : State} (hs : s.Sound) :
    (scalarBusError a addr s).Sound := by
  unfold scalarBusError
  try dsimp only
  with_reducible repeat' first
    | assumption | apply State.settleHalt_sound | apply State.raiseExc_sound | apply endAccess_sound | dsimp only
    | simp only [Sound.mk_eq] | apply Sound.at

theorem holdScalar_sound (a : ScalarAccess) {s : State} (hs : s.Sound) :
    (holdScalar a s).Sound := by
  unfold holdScalar
  try dsimp only
  with_reducible repeat' first
    | assumption | apply State.modSeq_sound | apply State.count_sound | intro _ | split | dsimp only
    | simp only [Sound.mk_eq] | apply Sound.at

theorem returnLd_sound (a : ScalarAccess) (d : BitVec 5) (addr : Nat) {s : State} (h : s.Sound) :
    (returnLd a d addr s).Sound := by
  have hp := State.pathRead_sound .bundle addr 8 false (ctxStream a.ctx) h
  unfold returnLd
  split
  · rename_i heq; rw [heq] at hp; exact State.xSet_sound _ _ (endAccess_sound _ hp)
  · exact holdScalar_sound _ h
  · exact scalarBusError_sound _ _ h

theorem returnSt_sound (a : ScalarAccess) (addr : Nat) (bs : List Byte) {s : State} (h : s.Sound) :
    (returnSt a addr bs s).Sound := by
  have hp := State.pathWrite_sound .bundle addr bs (ctxStream a.ctx) true h
  unfold returnSt
  split
  · rename_i heq; rw [heq] at hp; exact endAccess_sound _ hp
  · exact holdScalar_sound _ h
  · rename_i heq; rw [heq] at hp; exact hp
  · exact scalarBusError_sound _ _ h

theorem returnDict_sound (a : ScalarAccess) (r : DictReq) (write : Bool) {s : State} (hs : s.Sound) :
    (returnDict a r write s).Sound := by
  unfold returnDict
  try dsimp only
  with_reducible repeat' first
    | assumption | apply State.modSeq_sound | apply dictRequest_sound | intro _ | split | dsimp only
    | simp only [Sound.mk_eq] | apply Sound.at

theorem returnScalar_sound (a : ScalarAccess) {s : State} (hs : s.Sound) :
    (returnScalar a s).Sound := by
  unfold returnScalar
  try dsimp only
  with_reducible repeat' first
    | assumption | apply State.xSet_sound | apply endAccess_sound | apply returnLd_sound | apply returnSt_sound
    | apply returnDict_sound | split | dsimp only | simp only [Sound.mk_eq] | apply Sound.at

theorem alteredScalar_sound (a : ScalarAccess) {s : State} (hs : s.Sound) :
    (alteredScalar a s).Sound := by
  unfold alteredScalar
  try dsimp only
  with_reducible repeat' first
    | assumption | apply State.takeFree_sound | apply State.takeFrees_sound | apply State.xSet_sound
    | apply endAccess_sound | apply returnSt_sound | apply returnScalar_sound | split | dsimp only
    | simp only [Sound.mk_eq] | apply Sound.at

theorem withAccess_sound {f : ScalarAccess → State → State} {s : State} (hf : ∀ a t, t.Sound → (f a t).Sound)
    (h : s.Sound) : (withAccess f s).Sound := by
  unfold withAccess
  split
  · exact h
  · exact hf _ _ h

theorem execScalarAccessReturn_sound (deepRetry : Bool) {s : State} (h : s.Sound) :
    Result.Sound (execScalarAccessReturn deepRetry s) := by
  unfold execScalarAccessReturn
  split
  · exact Result.sound_next h
  · split
    · exact Result.sound_next (holdScalar_sound _ h)
    · exact crossing_sound h (fun _ ht => withAccess_sound (fun a _ hu => returnScalar_sound a hu) ht)
        (fun _ ht => withAccess_sound (fun a _ hu => alteredScalar_sound a hu) ht)

end Sys2Proof.Machine
end

