-- ==== Sys2Proof/Laws/State.lean ====
section
/-!
SUPPORT. One law per field for each named update of State, true by unfolding: what the update writes, and that it leaves
every other field. No later proof needs to unfold a record update.
-/
namespace Sys2Proof.Machine

/-! ## State.modClk -/

@[simp] theorem State.modClk_pending (s : State) (f : Clock → Clock) : (State.modClk s f).pending = s.pending := rfl
@[simp] theorem State.modClk_clk (s : State) (f : Clock → Clock) : (State.modClk s f).clk = f s.clk := rfl
@[simp] theorem State.modClk_seq (s : State) (f : Clock → Clock) : (State.modClk s f).seq = s.seq := rfl
@[simp] theorem State.modClk_sync (s : State) (f : Clock → Clock) : (State.modClk s f).sync = s.sync := rfl
@[simp] theorem State.modClk_mem (s : State) (f : Clock → Clock) : (State.modClk s f).mem = s.mem := rfl
@[simp] theorem State.modClk_host (s : State) (f : Clock → Clock) : (State.modClk s f).host = s.host := rfl
@[simp] theorem State.modClk_arr (s : State) (f : Clock → Clock) : (State.modClk s f).arr = s.arr := rfl
@[simp] theorem State.modClk_disp (s : State) (f : Clock → Clock) : (State.modClk s f).disp = s.disp := rfl
@[simp] theorem State.modClk_eng (s : State) (f : Clock → Clock) : (State.modClk s f).eng = s.eng := rfl
@[simp] theorem State.modClk_str (s : State) (f : Clock → Clock) : (State.modClk s f).str = s.str := rfl
@[simp] theorem State.modClk_bulkQ (s : State) (f : Clock → Clock) : (State.modClk s f).bulkQ = s.bulkQ := rfl
@[simp] theorem State.modClk_deepQ (s : State) (f : Clock → Clock) : (State.modClk s f).deepQ = s.deepQ := rfl
@[simp] theorem State.modClk_mig (s : State) (f : Clock → Clock) : (State.modClk s f).mig = s.mig := rfl
@[simp] theorem State.modClk_awr (s : State) (f : Clock → Clock) : (State.modClk s f).awr = s.awr := rfl
@[simp] theorem State.modClk_media (s : State) (f : Clock → Clock) : (State.modClk s f).media = s.media := rfl
@[simp] theorem State.modClk_casc (s : State) (f : Clock → Clock) : (State.modClk s f).casc = s.casc := rfl
@[simp] theorem State.modClk_net (s : State) (f : Clock → Clock) : (State.modClk s f).net = s.net := rfl
@[simp] theorem State.modClk_pcie (s : State) (f : Clock → Clock) : (State.modClk s f).pcie = s.pcie := rfl
@[simp] theorem State.modClk_dma (s : State) (f : Clock → Clock) : (State.modClk s f).dma = s.dma := rfl
@[simp] theorem State.modClk_pwr (s : State) (f : Clock → Clock) : (State.modClk s f).pwr = s.pwr := rfl
@[simp] theorem State.modClk_boot (s : State) (f : Clock → Clock) : (State.modClk s f).boot = s.boot := rfl
@[simp] theorem State.modClk_ident (s : State) (f : Clock → Clock) : (State.modClk s f).ident = s.ident := rfl
@[simp] theorem State.modClk_tap (s : State) (f : Clock → Clock) : (State.modClk s f).tap = s.tap := rfl
@[simp] theorem State.modClk_ent (s : State) (f : Clock → Clock) : (State.modClk s f).ent = s.ent := rfl
@[simp] theorem State.modClk_cnt (s : State) (f : Clock → Clock) : (State.modClk s f).cnt = s.cnt := rfl
@[simp] theorem State.modClk_cntRem (s : State) (f : Clock → Clock) : (State.modClk s f).cntRem = s.cntRem := rfl
@[simp] theorem State.modClk_holdMax (s : State) (f : Clock → Clock) : (State.modClk s f).holdMax = s.holdMax := rfl
@[simp] theorem State.modClk_out (s : State) (f : Clock → Clock) : (State.modClk s f).out = s.out := rfl
@[simp] theorem State.modClk_freeIx (s : State) (f : Clock → Clock) : (State.modClk s f).freeIx = s.freeIx := rfl
@[simp] theorem State.modClk_nextId (s : State) (f : Clock → Clock) : (State.modClk s f).nextId = s.nextId := rfl

/-! ## State.modSeq -/

@[simp] theorem State.modSeq_pending (s : State) (f : Seq → Seq) : (State.modSeq s f).pending = s.pending := rfl
@[simp] theorem State.modSeq_clk (s : State) (f : Seq → Seq) : (State.modSeq s f).clk = s.clk := rfl
@[simp] theorem State.modSeq_seq (s : State) (f : Seq → Seq) : (State.modSeq s f).seq = f s.seq := rfl
@[simp] theorem State.modSeq_sync (s : State) (f : Seq → Seq) : (State.modSeq s f).sync = s.sync := rfl
@[simp] theorem State.modSeq_mem (s : State) (f : Seq → Seq) : (State.modSeq s f).mem = s.mem := rfl
@[simp] theorem State.modSeq_host (s : State) (f : Seq → Seq) : (State.modSeq s f).host = s.host := rfl
@[simp] theorem State.modSeq_arr (s : State) (f : Seq → Seq) : (State.modSeq s f).arr = s.arr := rfl
@[simp] theorem State.modSeq_disp (s : State) (f : Seq → Seq) : (State.modSeq s f).disp = s.disp := rfl
@[simp] theorem State.modSeq_eng (s : State) (f : Seq → Seq) : (State.modSeq s f).eng = s.eng := rfl
@[simp] theorem State.modSeq_str (s : State) (f : Seq → Seq) : (State.modSeq s f).str = s.str := rfl
@[simp] theorem State.modSeq_bulkQ (s : State) (f : Seq → Seq) : (State.modSeq s f).bulkQ = s.bulkQ := rfl
@[simp] theorem State.modSeq_deepQ (s : State) (f : Seq → Seq) : (State.modSeq s f).deepQ = s.deepQ := rfl
@[simp] theorem State.modSeq_mig (s : State) (f : Seq → Seq) : (State.modSeq s f).mig = s.mig := rfl
@[simp] theorem State.modSeq_awr (s : State) (f : Seq → Seq) : (State.modSeq s f).awr = s.awr := rfl
@[simp] theorem State.modSeq_media (s : State) (f : Seq → Seq) : (State.modSeq s f).media = s.media := rfl
@[simp] theorem State.modSeq_casc (s : State) (f : Seq → Seq) : (State.modSeq s f).casc = s.casc := rfl
@[simp] theorem State.modSeq_net (s : State) (f : Seq → Seq) : (State.modSeq s f).net = s.net := rfl
@[simp] theorem State.modSeq_pcie (s : State) (f : Seq → Seq) : (State.modSeq s f).pcie = s.pcie := rfl
@[simp] theorem State.modSeq_dma (s : State) (f : Seq → Seq) : (State.modSeq s f).dma = s.dma := rfl
@[simp] theorem State.modSeq_pwr (s : State) (f : Seq → Seq) : (State.modSeq s f).pwr = s.pwr := rfl
@[simp] theorem State.modSeq_boot (s : State) (f : Seq → Seq) : (State.modSeq s f).boot = s.boot := rfl
@[simp] theorem State.modSeq_ident (s : State) (f : Seq → Seq) : (State.modSeq s f).ident = s.ident := rfl
@[simp] theorem State.modSeq_tap (s : State) (f : Seq → Seq) : (State.modSeq s f).tap = s.tap := rfl
@[simp] theorem State.modSeq_ent (s : State) (f : Seq → Seq) : (State.modSeq s f).ent = s.ent := rfl
@[simp] theorem State.modSeq_cnt (s : State) (f : Seq → Seq) : (State.modSeq s f).cnt = s.cnt := rfl
@[simp] theorem State.modSeq_cntRem (s : State) (f : Seq → Seq) : (State.modSeq s f).cntRem = s.cntRem := rfl
@[simp] theorem State.modSeq_holdMax (s : State) (f : Seq → Seq) : (State.modSeq s f).holdMax = s.holdMax := rfl
@[simp] theorem State.modSeq_out (s : State) (f : Seq → Seq) : (State.modSeq s f).out = s.out := rfl
@[simp] theorem State.modSeq_freeIx (s : State) (f : Seq → Seq) : (State.modSeq s f).freeIx = s.freeIx := rfl
@[simp] theorem State.modSeq_nextId (s : State) (f : Seq → Seq) : (State.modSeq s f).nextId = s.nextId := rfl

/-! ## State.modArr -/

@[simp] theorem State.modArr_pending (s : State) (f : Arrays → Arrays) : (State.modArr s f).pending = s.pending := rfl
@[simp] theorem State.modArr_clk (s : State) (f : Arrays → Arrays) : (State.modArr s f).clk = s.clk := rfl
@[simp] theorem State.modArr_seq (s : State) (f : Arrays → Arrays) : (State.modArr s f).seq = s.seq := rfl
@[simp] theorem State.modArr_sync (s : State) (f : Arrays → Arrays) : (State.modArr s f).sync = s.sync := rfl
@[simp] theorem State.modArr_mem (s : State) (f : Arrays → Arrays) : (State.modArr s f).mem = s.mem := rfl
@[simp] theorem State.modArr_host (s : State) (f : Arrays → Arrays) : (State.modArr s f).host = s.host := rfl
@[simp] theorem State.modArr_arr (s : State) (f : Arrays → Arrays) : (State.modArr s f).arr = f s.arr := rfl
@[simp] theorem State.modArr_disp (s : State) (f : Arrays → Arrays) : (State.modArr s f).disp = s.disp := rfl
@[simp] theorem State.modArr_eng (s : State) (f : Arrays → Arrays) : (State.modArr s f).eng = s.eng := rfl
@[simp] theorem State.modArr_str (s : State) (f : Arrays → Arrays) : (State.modArr s f).str = s.str := rfl
@[simp] theorem State.modArr_bulkQ (s : State) (f : Arrays → Arrays) : (State.modArr s f).bulkQ = s.bulkQ := rfl
@[simp] theorem State.modArr_deepQ (s : State) (f : Arrays → Arrays) : (State.modArr s f).deepQ = s.deepQ := rfl
@[simp] theorem State.modArr_mig (s : State) (f : Arrays → Arrays) : (State.modArr s f).mig = s.mig := rfl
@[simp] theorem State.modArr_awr (s : State) (f : Arrays → Arrays) : (State.modArr s f).awr = s.awr := rfl
@[simp] theorem State.modArr_media (s : State) (f : Arrays → Arrays) : (State.modArr s f).media = s.media := rfl
@[simp] theorem State.modArr_casc (s : State) (f : Arrays → Arrays) : (State.modArr s f).casc = s.casc := rfl
@[simp] theorem State.modArr_net (s : State) (f : Arrays → Arrays) : (State.modArr s f).net = s.net := rfl
@[simp] theorem State.modArr_pcie (s : State) (f : Arrays → Arrays) : (State.modArr s f).pcie = s.pcie := rfl
@[simp] theorem State.modArr_dma (s : State) (f : Arrays → Arrays) : (State.modArr s f).dma = s.dma := rfl
@[simp] theorem State.modArr_pwr (s : State) (f : Arrays → Arrays) : (State.modArr s f).pwr = s.pwr := rfl
@[simp] theorem State.modArr_boot (s : State) (f : Arrays → Arrays) : (State.modArr s f).boot = s.boot := rfl
@[simp] theorem State.modArr_ident (s : State) (f : Arrays → Arrays) : (State.modArr s f).ident = s.ident := rfl
@[simp] theorem State.modArr_tap (s : State) (f : Arrays → Arrays) : (State.modArr s f).tap = s.tap := rfl
@[simp] theorem State.modArr_ent (s : State) (f : Arrays → Arrays) : (State.modArr s f).ent = s.ent := rfl
@[simp] theorem State.modArr_cnt (s : State) (f : Arrays → Arrays) : (State.modArr s f).cnt = s.cnt := rfl
@[simp] theorem State.modArr_cntRem (s : State) (f : Arrays → Arrays) : (State.modArr s f).cntRem = s.cntRem := rfl
@[simp] theorem State.modArr_holdMax (s : State) (f : Arrays → Arrays) : (State.modArr s f).holdMax = s.holdMax := rfl
@[simp] theorem State.modArr_out (s : State) (f : Arrays → Arrays) : (State.modArr s f).out = s.out := rfl
@[simp] theorem State.modArr_freeIx (s : State) (f : Arrays → Arrays) : (State.modArr s f).freeIx = s.freeIx := rfl
@[simp] theorem State.modArr_nextId (s : State) (f : Arrays → Arrays) : (State.modArr s f).nextId = s.nextId := rfl

/-! ## State.modDisp -/

@[simp] theorem State.modDisp_pending (s : State) (f : Dispatch → Dispatch) : (State.modDisp s f).pending = s.pending := rfl
@[simp] theorem State.modDisp_clk (s : State) (f : Dispatch → Dispatch) : (State.modDisp s f).clk = s.clk := rfl
@[simp] theorem State.modDisp_seq (s : State) (f : Dispatch → Dispatch) : (State.modDisp s f).seq = s.seq := rfl
@[simp] theorem State.modDisp_sync (s : State) (f : Dispatch → Dispatch) : (State.modDisp s f).sync = s.sync := rfl
@[simp] theorem State.modDisp_mem (s : State) (f : Dispatch → Dispatch) : (State.modDisp s f).mem = s.mem := rfl
@[simp] theorem State.modDisp_host (s : State) (f : Dispatch → Dispatch) : (State.modDisp s f).host = s.host := rfl
@[simp] theorem State.modDisp_arr (s : State) (f : Dispatch → Dispatch) : (State.modDisp s f).arr = s.arr := rfl
@[simp] theorem State.modDisp_disp (s : State) (f : Dispatch → Dispatch) : (State.modDisp s f).disp = f s.disp := rfl
@[simp] theorem State.modDisp_eng (s : State) (f : Dispatch → Dispatch) : (State.modDisp s f).eng = s.eng := rfl
@[simp] theorem State.modDisp_str (s : State) (f : Dispatch → Dispatch) : (State.modDisp s f).str = s.str := rfl
@[simp] theorem State.modDisp_bulkQ (s : State) (f : Dispatch → Dispatch) : (State.modDisp s f).bulkQ = s.bulkQ := rfl
@[simp] theorem State.modDisp_deepQ (s : State) (f : Dispatch → Dispatch) : (State.modDisp s f).deepQ = s.deepQ := rfl
@[simp] theorem State.modDisp_mig (s : State) (f : Dispatch → Dispatch) : (State.modDisp s f).mig = s.mig := rfl
@[simp] theorem State.modDisp_awr (s : State) (f : Dispatch → Dispatch) : (State.modDisp s f).awr = s.awr := rfl
@[simp] theorem State.modDisp_media (s : State) (f : Dispatch → Dispatch) : (State.modDisp s f).media = s.media := rfl
@[simp] theorem State.modDisp_casc (s : State) (f : Dispatch → Dispatch) : (State.modDisp s f).casc = s.casc := rfl
@[simp] theorem State.modDisp_net (s : State) (f : Dispatch → Dispatch) : (State.modDisp s f).net = s.net := rfl
@[simp] theorem State.modDisp_pcie (s : State) (f : Dispatch → Dispatch) : (State.modDisp s f).pcie = s.pcie := rfl
@[simp] theorem State.modDisp_dma (s : State) (f : Dispatch → Dispatch) : (State.modDisp s f).dma = s.dma := rfl
@[simp] theorem State.modDisp_pwr (s : State) (f : Dispatch → Dispatch) : (State.modDisp s f).pwr = s.pwr := rfl
@[simp] theorem State.modDisp_boot (s : State) (f : Dispatch → Dispatch) : (State.modDisp s f).boot = s.boot := rfl
@[simp] theorem State.modDisp_ident (s : State) (f : Dispatch → Dispatch) : (State.modDisp s f).ident = s.ident := rfl
@[simp] theorem State.modDisp_tap (s : State) (f : Dispatch → Dispatch) : (State.modDisp s f).tap = s.tap := rfl
@[simp] theorem State.modDisp_ent (s : State) (f : Dispatch → Dispatch) : (State.modDisp s f).ent = s.ent := rfl
@[simp] theorem State.modDisp_cnt (s : State) (f : Dispatch → Dispatch) : (State.modDisp s f).cnt = s.cnt := rfl
@[simp] theorem State.modDisp_cntRem (s : State) (f : Dispatch → Dispatch) : (State.modDisp s f).cntRem = s.cntRem := rfl
@[simp] theorem State.modDisp_holdMax (s : State) (f : Dispatch → Dispatch) : (State.modDisp s f).holdMax = s.holdMax := rfl
@[simp] theorem State.modDisp_out (s : State) (f : Dispatch → Dispatch) : (State.modDisp s f).out = s.out := rfl
@[simp] theorem State.modDisp_freeIx (s : State) (f : Dispatch → Dispatch) : (State.modDisp s f).freeIx = s.freeIx := rfl
@[simp] theorem State.modDisp_nextId (s : State) (f : Dispatch → Dispatch) : (State.modDisp s f).nextId = s.nextId := rfl

/-! ## State.modEng -/

@[simp] theorem State.modEng_pending (s : State) (f : Engines → Engines) : (State.modEng s f).pending = s.pending := rfl
@[simp] theorem State.modEng_clk (s : State) (f : Engines → Engines) : (State.modEng s f).clk = s.clk := rfl
@[simp] theorem State.modEng_seq (s : State) (f : Engines → Engines) : (State.modEng s f).seq = s.seq := rfl
@[simp] theorem State.modEng_sync (s : State) (f : Engines → Engines) : (State.modEng s f).sync = s.sync := rfl
@[simp] theorem State.modEng_mem (s : State) (f : Engines → Engines) : (State.modEng s f).mem = s.mem := rfl
@[simp] theorem State.modEng_host (s : State) (f : Engines → Engines) : (State.modEng s f).host = s.host := rfl
@[simp] theorem State.modEng_arr (s : State) (f : Engines → Engines) : (State.modEng s f).arr = s.arr := rfl
@[simp] theorem State.modEng_disp (s : State) (f : Engines → Engines) : (State.modEng s f).disp = s.disp := rfl
@[simp] theorem State.modEng_eng (s : State) (f : Engines → Engines) : (State.modEng s f).eng = f s.eng := rfl
@[simp] theorem State.modEng_str (s : State) (f : Engines → Engines) : (State.modEng s f).str = s.str := rfl
@[simp] theorem State.modEng_bulkQ (s : State) (f : Engines → Engines) : (State.modEng s f).bulkQ = s.bulkQ := rfl
@[simp] theorem State.modEng_deepQ (s : State) (f : Engines → Engines) : (State.modEng s f).deepQ = s.deepQ := rfl
@[simp] theorem State.modEng_mig (s : State) (f : Engines → Engines) : (State.modEng s f).mig = s.mig := rfl
@[simp] theorem State.modEng_awr (s : State) (f : Engines → Engines) : (State.modEng s f).awr = s.awr := rfl
@[simp] theorem State.modEng_media (s : State) (f : Engines → Engines) : (State.modEng s f).media = s.media := rfl
@[simp] theorem State.modEng_casc (s : State) (f : Engines → Engines) : (State.modEng s f).casc = s.casc := rfl
@[simp] theorem State.modEng_net (s : State) (f : Engines → Engines) : (State.modEng s f).net = s.net := rfl
@[simp] theorem State.modEng_pcie (s : State) (f : Engines → Engines) : (State.modEng s f).pcie = s.pcie := rfl
@[simp] theorem State.modEng_dma (s : State) (f : Engines → Engines) : (State.modEng s f).dma = s.dma := rfl
@[simp] theorem State.modEng_pwr (s : State) (f : Engines → Engines) : (State.modEng s f).pwr = s.pwr := rfl
@[simp] theorem State.modEng_boot (s : State) (f : Engines → Engines) : (State.modEng s f).boot = s.boot := rfl
@[simp] theorem State.modEng_ident (s : State) (f : Engines → Engines) : (State.modEng s f).ident = s.ident := rfl
@[simp] theorem State.modEng_tap (s : State) (f : Engines → Engines) : (State.modEng s f).tap = s.tap := rfl
@[simp] theorem State.modEng_ent (s : State) (f : Engines → Engines) : (State.modEng s f).ent = s.ent := rfl
@[simp] theorem State.modEng_cnt (s : State) (f : Engines → Engines) : (State.modEng s f).cnt = s.cnt := rfl
@[simp] theorem State.modEng_cntRem (s : State) (f : Engines → Engines) : (State.modEng s f).cntRem = s.cntRem := rfl
@[simp] theorem State.modEng_holdMax (s : State) (f : Engines → Engines) : (State.modEng s f).holdMax = s.holdMax := rfl
@[simp] theorem State.modEng_out (s : State) (f : Engines → Engines) : (State.modEng s f).out = s.out := rfl
@[simp] theorem State.modEng_freeIx (s : State) (f : Engines → Engines) : (State.modEng s f).freeIx = s.freeIx := rfl
@[simp] theorem State.modEng_nextId (s : State) (f : Engines → Engines) : (State.modEng s f).nextId = s.nextId := rfl

/-! ## State.modMig -/

@[simp] theorem State.modMig_pending (s : State) (f : Migration → Migration) : (State.modMig s f).pending = s.pending := rfl
@[simp] theorem State.modMig_clk (s : State) (f : Migration → Migration) : (State.modMig s f).clk = s.clk := rfl
@[simp] theorem State.modMig_seq (s : State) (f : Migration → Migration) : (State.modMig s f).seq = s.seq := rfl
@[simp] theorem State.modMig_sync (s : State) (f : Migration → Migration) : (State.modMig s f).sync = s.sync := rfl
@[simp] theorem State.modMig_mem (s : State) (f : Migration → Migration) : (State.modMig s f).mem = s.mem := rfl
@[simp] theorem State.modMig_host (s : State) (f : Migration → Migration) : (State.modMig s f).host = s.host := rfl
@[simp] theorem State.modMig_arr (s : State) (f : Migration → Migration) : (State.modMig s f).arr = s.arr := rfl
@[simp] theorem State.modMig_disp (s : State) (f : Migration → Migration) : (State.modMig s f).disp = s.disp := rfl
@[simp] theorem State.modMig_eng (s : State) (f : Migration → Migration) : (State.modMig s f).eng = s.eng := rfl
@[simp] theorem State.modMig_str (s : State) (f : Migration → Migration) : (State.modMig s f).str = s.str := rfl
@[simp] theorem State.modMig_bulkQ (s : State) (f : Migration → Migration) : (State.modMig s f).bulkQ = s.bulkQ := rfl
@[simp] theorem State.modMig_deepQ (s : State) (f : Migration → Migration) : (State.modMig s f).deepQ = s.deepQ := rfl
@[simp] theorem State.modMig_mig (s : State) (f : Migration → Migration) : (State.modMig s f).mig = f s.mig := rfl
@[simp] theorem State.modMig_awr (s : State) (f : Migration → Migration) : (State.modMig s f).awr = s.awr := rfl
@[simp] theorem State.modMig_media (s : State) (f : Migration → Migration) : (State.modMig s f).media = s.media := rfl
@[simp] theorem State.modMig_casc (s : State) (f : Migration → Migration) : (State.modMig s f).casc = s.casc := rfl
@[simp] theorem State.modMig_net (s : State) (f : Migration → Migration) : (State.modMig s f).net = s.net := rfl
@[simp] theorem State.modMig_pcie (s : State) (f : Migration → Migration) : (State.modMig s f).pcie = s.pcie := rfl
@[simp] theorem State.modMig_dma (s : State) (f : Migration → Migration) : (State.modMig s f).dma = s.dma := rfl
@[simp] theorem State.modMig_pwr (s : State) (f : Migration → Migration) : (State.modMig s f).pwr = s.pwr := rfl
@[simp] theorem State.modMig_boot (s : State) (f : Migration → Migration) : (State.modMig s f).boot = s.boot := rfl
@[simp] theorem State.modMig_ident (s : State) (f : Migration → Migration) : (State.modMig s f).ident = s.ident := rfl
@[simp] theorem State.modMig_tap (s : State) (f : Migration → Migration) : (State.modMig s f).tap = s.tap := rfl
@[simp] theorem State.modMig_ent (s : State) (f : Migration → Migration) : (State.modMig s f).ent = s.ent := rfl
@[simp] theorem State.modMig_cnt (s : State) (f : Migration → Migration) : (State.modMig s f).cnt = s.cnt := rfl
@[simp] theorem State.modMig_cntRem (s : State) (f : Migration → Migration) : (State.modMig s f).cntRem = s.cntRem := rfl
@[simp] theorem State.modMig_holdMax (s : State) (f : Migration → Migration) : (State.modMig s f).holdMax = s.holdMax := rfl
@[simp] theorem State.modMig_out (s : State) (f : Migration → Migration) : (State.modMig s f).out = s.out := rfl
@[simp] theorem State.modMig_freeIx (s : State) (f : Migration → Migration) : (State.modMig s f).freeIx = s.freeIx := rfl
@[simp] theorem State.modMig_nextId (s : State) (f : Migration → Migration) : (State.modMig s f).nextId = s.nextId := rfl

/-! ## State.modMedia -/

@[simp] theorem State.modMedia_pending (s : State) (f : Media → Media) : (State.modMedia s f).pending = s.pending := rfl
@[simp] theorem State.modMedia_clk (s : State) (f : Media → Media) : (State.modMedia s f).clk = s.clk := rfl
@[simp] theorem State.modMedia_seq (s : State) (f : Media → Media) : (State.modMedia s f).seq = s.seq := rfl
@[simp] theorem State.modMedia_sync (s : State) (f : Media → Media) : (State.modMedia s f).sync = s.sync := rfl
@[simp] theorem State.modMedia_mem (s : State) (f : Media → Media) : (State.modMedia s f).mem = s.mem := rfl
@[simp] theorem State.modMedia_host (s : State) (f : Media → Media) : (State.modMedia s f).host = s.host := rfl
@[simp] theorem State.modMedia_arr (s : State) (f : Media → Media) : (State.modMedia s f).arr = s.arr := rfl
@[simp] theorem State.modMedia_disp (s : State) (f : Media → Media) : (State.modMedia s f).disp = s.disp := rfl
@[simp] theorem State.modMedia_eng (s : State) (f : Media → Media) : (State.modMedia s f).eng = s.eng := rfl
@[simp] theorem State.modMedia_str (s : State) (f : Media → Media) : (State.modMedia s f).str = s.str := rfl
@[simp] theorem State.modMedia_bulkQ (s : State) (f : Media → Media) : (State.modMedia s f).bulkQ = s.bulkQ := rfl
@[simp] theorem State.modMedia_deepQ (s : State) (f : Media → Media) : (State.modMedia s f).deepQ = s.deepQ := rfl
@[simp] theorem State.modMedia_mig (s : State) (f : Media → Media) : (State.modMedia s f).mig = s.mig := rfl
@[simp] theorem State.modMedia_awr (s : State) (f : Media → Media) : (State.modMedia s f).awr = s.awr := rfl
@[simp] theorem State.modMedia_media (s : State) (f : Media → Media) : (State.modMedia s f).media = f s.media := rfl
@[simp] theorem State.modMedia_casc (s : State) (f : Media → Media) : (State.modMedia s f).casc = s.casc := rfl
@[simp] theorem State.modMedia_net (s : State) (f : Media → Media) : (State.modMedia s f).net = s.net := rfl
@[simp] theorem State.modMedia_pcie (s : State) (f : Media → Media) : (State.modMedia s f).pcie = s.pcie := rfl
@[simp] theorem State.modMedia_dma (s : State) (f : Media → Media) : (State.modMedia s f).dma = s.dma := rfl
@[simp] theorem State.modMedia_pwr (s : State) (f : Media → Media) : (State.modMedia s f).pwr = s.pwr := rfl
@[simp] theorem State.modMedia_boot (s : State) (f : Media → Media) : (State.modMedia s f).boot = s.boot := rfl
@[simp] theorem State.modMedia_ident (s : State) (f : Media → Media) : (State.modMedia s f).ident = s.ident := rfl
@[simp] theorem State.modMedia_tap (s : State) (f : Media → Media) : (State.modMedia s f).tap = s.tap := rfl
@[simp] theorem State.modMedia_ent (s : State) (f : Media → Media) : (State.modMedia s f).ent = s.ent := rfl
@[simp] theorem State.modMedia_cnt (s : State) (f : Media → Media) : (State.modMedia s f).cnt = s.cnt := rfl
@[simp] theorem State.modMedia_cntRem (s : State) (f : Media → Media) : (State.modMedia s f).cntRem = s.cntRem := rfl
@[simp] theorem State.modMedia_holdMax (s : State) (f : Media → Media) : (State.modMedia s f).holdMax = s.holdMax := rfl
@[simp] theorem State.modMedia_out (s : State) (f : Media → Media) : (State.modMedia s f).out = s.out := rfl
@[simp] theorem State.modMedia_freeIx (s : State) (f : Media → Media) : (State.modMedia s f).freeIx = s.freeIx := rfl
@[simp] theorem State.modMedia_nextId (s : State) (f : Media → Media) : (State.modMedia s f).nextId = s.nextId := rfl

/-! ## State.modCasc -/

@[simp] theorem State.modCasc_pending (s : State) (f : Cascade → Cascade) : (State.modCasc s f).pending = s.pending := rfl
@[simp] theorem State.modCasc_clk (s : State) (f : Cascade → Cascade) : (State.modCasc s f).clk = s.clk := rfl
@[simp] theorem State.modCasc_seq (s : State) (f : Cascade → Cascade) : (State.modCasc s f).seq = s.seq := rfl
@[simp] theorem State.modCasc_sync (s : State) (f : Cascade → Cascade) : (State.modCasc s f).sync = s.sync := rfl
@[simp] theorem State.modCasc_mem (s : State) (f : Cascade → Cascade) : (State.modCasc s f).mem = s.mem := rfl
@[simp] theorem State.modCasc_host (s : State) (f : Cascade → Cascade) : (State.modCasc s f).host = s.host := rfl
@[simp] theorem State.modCasc_arr (s : State) (f : Cascade → Cascade) : (State.modCasc s f).arr = s.arr := rfl
@[simp] theorem State.modCasc_disp (s : State) (f : Cascade → Cascade) : (State.modCasc s f).disp = s.disp := rfl
@[simp] theorem State.modCasc_eng (s : State) (f : Cascade → Cascade) : (State.modCasc s f).eng = s.eng := rfl
@[simp] theorem State.modCasc_str (s : State) (f : Cascade → Cascade) : (State.modCasc s f).str = s.str := rfl
@[simp] theorem State.modCasc_bulkQ (s : State) (f : Cascade → Cascade) : (State.modCasc s f).bulkQ = s.bulkQ := rfl
@[simp] theorem State.modCasc_deepQ (s : State) (f : Cascade → Cascade) : (State.modCasc s f).deepQ = s.deepQ := rfl
@[simp] theorem State.modCasc_mig (s : State) (f : Cascade → Cascade) : (State.modCasc s f).mig = s.mig := rfl
@[simp] theorem State.modCasc_awr (s : State) (f : Cascade → Cascade) : (State.modCasc s f).awr = s.awr := rfl
@[simp] theorem State.modCasc_media (s : State) (f : Cascade → Cascade) : (State.modCasc s f).media = s.media := rfl
@[simp] theorem State.modCasc_casc (s : State) (f : Cascade → Cascade) : (State.modCasc s f).casc = f s.casc := rfl
@[simp] theorem State.modCasc_net (s : State) (f : Cascade → Cascade) : (State.modCasc s f).net = s.net := rfl
@[simp] theorem State.modCasc_pcie (s : State) (f : Cascade → Cascade) : (State.modCasc s f).pcie = s.pcie := rfl
@[simp] theorem State.modCasc_dma (s : State) (f : Cascade → Cascade) : (State.modCasc s f).dma = s.dma := rfl
@[simp] theorem State.modCasc_pwr (s : State) (f : Cascade → Cascade) : (State.modCasc s f).pwr = s.pwr := rfl
@[simp] theorem State.modCasc_boot (s : State) (f : Cascade → Cascade) : (State.modCasc s f).boot = s.boot := rfl
@[simp] theorem State.modCasc_ident (s : State) (f : Cascade → Cascade) : (State.modCasc s f).ident = s.ident := rfl
@[simp] theorem State.modCasc_tap (s : State) (f : Cascade → Cascade) : (State.modCasc s f).tap = s.tap := rfl
@[simp] theorem State.modCasc_ent (s : State) (f : Cascade → Cascade) : (State.modCasc s f).ent = s.ent := rfl
@[simp] theorem State.modCasc_cnt (s : State) (f : Cascade → Cascade) : (State.modCasc s f).cnt = s.cnt := rfl
@[simp] theorem State.modCasc_cntRem (s : State) (f : Cascade → Cascade) : (State.modCasc s f).cntRem = s.cntRem := rfl
@[simp] theorem State.modCasc_holdMax (s : State) (f : Cascade → Cascade) : (State.modCasc s f).holdMax = s.holdMax := rfl
@[simp] theorem State.modCasc_out (s : State) (f : Cascade → Cascade) : (State.modCasc s f).out = s.out := rfl
@[simp] theorem State.modCasc_freeIx (s : State) (f : Cascade → Cascade) : (State.modCasc s f).freeIx = s.freeIx := rfl
@[simp] theorem State.modCasc_nextId (s : State) (f : Cascade → Cascade) : (State.modCasc s f).nextId = s.nextId := rfl

/-! ## State.modNet -/

@[simp] theorem State.modNet_pending (s : State) (f : FieldNet → FieldNet) : (State.modNet s f).pending = s.pending := rfl
@[simp] theorem State.modNet_clk (s : State) (f : FieldNet → FieldNet) : (State.modNet s f).clk = s.clk := rfl
@[simp] theorem State.modNet_seq (s : State) (f : FieldNet → FieldNet) : (State.modNet s f).seq = s.seq := rfl
@[simp] theorem State.modNet_sync (s : State) (f : FieldNet → FieldNet) : (State.modNet s f).sync = s.sync := rfl
@[simp] theorem State.modNet_mem (s : State) (f : FieldNet → FieldNet) : (State.modNet s f).mem = s.mem := rfl
@[simp] theorem State.modNet_host (s : State) (f : FieldNet → FieldNet) : (State.modNet s f).host = s.host := rfl
@[simp] theorem State.modNet_arr (s : State) (f : FieldNet → FieldNet) : (State.modNet s f).arr = s.arr := rfl
@[simp] theorem State.modNet_disp (s : State) (f : FieldNet → FieldNet) : (State.modNet s f).disp = s.disp := rfl
@[simp] theorem State.modNet_eng (s : State) (f : FieldNet → FieldNet) : (State.modNet s f).eng = s.eng := rfl
@[simp] theorem State.modNet_str (s : State) (f : FieldNet → FieldNet) : (State.modNet s f).str = s.str := rfl
@[simp] theorem State.modNet_bulkQ (s : State) (f : FieldNet → FieldNet) : (State.modNet s f).bulkQ = s.bulkQ := rfl
@[simp] theorem State.modNet_deepQ (s : State) (f : FieldNet → FieldNet) : (State.modNet s f).deepQ = s.deepQ := rfl
@[simp] theorem State.modNet_mig (s : State) (f : FieldNet → FieldNet) : (State.modNet s f).mig = s.mig := rfl
@[simp] theorem State.modNet_awr (s : State) (f : FieldNet → FieldNet) : (State.modNet s f).awr = s.awr := rfl
@[simp] theorem State.modNet_media (s : State) (f : FieldNet → FieldNet) : (State.modNet s f).media = s.media := rfl
@[simp] theorem State.modNet_casc (s : State) (f : FieldNet → FieldNet) : (State.modNet s f).casc = s.casc := rfl
@[simp] theorem State.modNet_net (s : State) (f : FieldNet → FieldNet) : (State.modNet s f).net = f s.net := rfl
@[simp] theorem State.modNet_pcie (s : State) (f : FieldNet → FieldNet) : (State.modNet s f).pcie = s.pcie := rfl
@[simp] theorem State.modNet_dma (s : State) (f : FieldNet → FieldNet) : (State.modNet s f).dma = s.dma := rfl
@[simp] theorem State.modNet_pwr (s : State) (f : FieldNet → FieldNet) : (State.modNet s f).pwr = s.pwr := rfl
@[simp] theorem State.modNet_boot (s : State) (f : FieldNet → FieldNet) : (State.modNet s f).boot = s.boot := rfl
@[simp] theorem State.modNet_ident (s : State) (f : FieldNet → FieldNet) : (State.modNet s f).ident = s.ident := rfl
@[simp] theorem State.modNet_tap (s : State) (f : FieldNet → FieldNet) : (State.modNet s f).tap = s.tap := rfl
@[simp] theorem State.modNet_ent (s : State) (f : FieldNet → FieldNet) : (State.modNet s f).ent = s.ent := rfl
@[simp] theorem State.modNet_cnt (s : State) (f : FieldNet → FieldNet) : (State.modNet s f).cnt = s.cnt := rfl
@[simp] theorem State.modNet_cntRem (s : State) (f : FieldNet → FieldNet) : (State.modNet s f).cntRem = s.cntRem := rfl
@[simp] theorem State.modNet_holdMax (s : State) (f : FieldNet → FieldNet) : (State.modNet s f).holdMax = s.holdMax := rfl
@[simp] theorem State.modNet_out (s : State) (f : FieldNet → FieldNet) : (State.modNet s f).out = s.out := rfl
@[simp] theorem State.modNet_freeIx (s : State) (f : FieldNet → FieldNet) : (State.modNet s f).freeIx = s.freeIx := rfl
@[simp] theorem State.modNet_nextId (s : State) (f : FieldNet → FieldNet) : (State.modNet s f).nextId = s.nextId := rfl

/-! ## State.modPcie -/

@[simp] theorem State.modPcie_pending (s : State) (f : Pcie → Pcie) : (State.modPcie s f).pending = s.pending := rfl
@[simp] theorem State.modPcie_clk (s : State) (f : Pcie → Pcie) : (State.modPcie s f).clk = s.clk := rfl
@[simp] theorem State.modPcie_seq (s : State) (f : Pcie → Pcie) : (State.modPcie s f).seq = s.seq := rfl
@[simp] theorem State.modPcie_sync (s : State) (f : Pcie → Pcie) : (State.modPcie s f).sync = s.sync := rfl
@[simp] theorem State.modPcie_mem (s : State) (f : Pcie → Pcie) : (State.modPcie s f).mem = s.mem := rfl
@[simp] theorem State.modPcie_host (s : State) (f : Pcie → Pcie) : (State.modPcie s f).host = s.host := rfl
@[simp] theorem State.modPcie_arr (s : State) (f : Pcie → Pcie) : (State.modPcie s f).arr = s.arr := rfl
@[simp] theorem State.modPcie_disp (s : State) (f : Pcie → Pcie) : (State.modPcie s f).disp = s.disp := rfl
@[simp] theorem State.modPcie_eng (s : State) (f : Pcie → Pcie) : (State.modPcie s f).eng = s.eng := rfl
@[simp] theorem State.modPcie_str (s : State) (f : Pcie → Pcie) : (State.modPcie s f).str = s.str := rfl
@[simp] theorem State.modPcie_bulkQ (s : State) (f : Pcie → Pcie) : (State.modPcie s f).bulkQ = s.bulkQ := rfl
@[simp] theorem State.modPcie_deepQ (s : State) (f : Pcie → Pcie) : (State.modPcie s f).deepQ = s.deepQ := rfl
@[simp] theorem State.modPcie_mig (s : State) (f : Pcie → Pcie) : (State.modPcie s f).mig = s.mig := rfl
@[simp] theorem State.modPcie_awr (s : State) (f : Pcie → Pcie) : (State.modPcie s f).awr = s.awr := rfl
@[simp] theorem State.modPcie_media (s : State) (f : Pcie → Pcie) : (State.modPcie s f).media = s.media := rfl
@[simp] theorem State.modPcie_casc (s : State) (f : Pcie → Pcie) : (State.modPcie s f).casc = s.casc := rfl
@[simp] theorem State.modPcie_net (s : State) (f : Pcie → Pcie) : (State.modPcie s f).net = s.net := rfl
@[simp] theorem State.modPcie_pcie (s : State) (f : Pcie → Pcie) : (State.modPcie s f).pcie = f s.pcie := rfl
@[simp] theorem State.modPcie_dma (s : State) (f : Pcie → Pcie) : (State.modPcie s f).dma = s.dma := rfl
@[simp] theorem State.modPcie_pwr (s : State) (f : Pcie → Pcie) : (State.modPcie s f).pwr = s.pwr := rfl
@[simp] theorem State.modPcie_boot (s : State) (f : Pcie → Pcie) : (State.modPcie s f).boot = s.boot := rfl
@[simp] theorem State.modPcie_ident (s : State) (f : Pcie → Pcie) : (State.modPcie s f).ident = s.ident := rfl
@[simp] theorem State.modPcie_tap (s : State) (f : Pcie → Pcie) : (State.modPcie s f).tap = s.tap := rfl
@[simp] theorem State.modPcie_ent (s : State) (f : Pcie → Pcie) : (State.modPcie s f).ent = s.ent := rfl
@[simp] theorem State.modPcie_cnt (s : State) (f : Pcie → Pcie) : (State.modPcie s f).cnt = s.cnt := rfl
@[simp] theorem State.modPcie_cntRem (s : State) (f : Pcie → Pcie) : (State.modPcie s f).cntRem = s.cntRem := rfl
@[simp] theorem State.modPcie_holdMax (s : State) (f : Pcie → Pcie) : (State.modPcie s f).holdMax = s.holdMax := rfl
@[simp] theorem State.modPcie_out (s : State) (f : Pcie → Pcie) : (State.modPcie s f).out = s.out := rfl
@[simp] theorem State.modPcie_freeIx (s : State) (f : Pcie → Pcie) : (State.modPcie s f).freeIx = s.freeIx := rfl
@[simp] theorem State.modPcie_nextId (s : State) (f : Pcie → Pcie) : (State.modPcie s f).nextId = s.nextId := rfl

/-! ## State.modDma -/

@[simp] theorem State.modDma_pending (s : State) (f : Dma → Dma) : (State.modDma s f).pending = s.pending := rfl
@[simp] theorem State.modDma_clk (s : State) (f : Dma → Dma) : (State.modDma s f).clk = s.clk := rfl
@[simp] theorem State.modDma_seq (s : State) (f : Dma → Dma) : (State.modDma s f).seq = s.seq := rfl
@[simp] theorem State.modDma_sync (s : State) (f : Dma → Dma) : (State.modDma s f).sync = s.sync := rfl
@[simp] theorem State.modDma_mem (s : State) (f : Dma → Dma) : (State.modDma s f).mem = s.mem := rfl
@[simp] theorem State.modDma_host (s : State) (f : Dma → Dma) : (State.modDma s f).host = s.host := rfl
@[simp] theorem State.modDma_arr (s : State) (f : Dma → Dma) : (State.modDma s f).arr = s.arr := rfl
@[simp] theorem State.modDma_disp (s : State) (f : Dma → Dma) : (State.modDma s f).disp = s.disp := rfl
@[simp] theorem State.modDma_eng (s : State) (f : Dma → Dma) : (State.modDma s f).eng = s.eng := rfl
@[simp] theorem State.modDma_str (s : State) (f : Dma → Dma) : (State.modDma s f).str = s.str := rfl
@[simp] theorem State.modDma_bulkQ (s : State) (f : Dma → Dma) : (State.modDma s f).bulkQ = s.bulkQ := rfl
@[simp] theorem State.modDma_deepQ (s : State) (f : Dma → Dma) : (State.modDma s f).deepQ = s.deepQ := rfl
@[simp] theorem State.modDma_mig (s : State) (f : Dma → Dma) : (State.modDma s f).mig = s.mig := rfl
@[simp] theorem State.modDma_awr (s : State) (f : Dma → Dma) : (State.modDma s f).awr = s.awr := rfl
@[simp] theorem State.modDma_media (s : State) (f : Dma → Dma) : (State.modDma s f).media = s.media := rfl
@[simp] theorem State.modDma_casc (s : State) (f : Dma → Dma) : (State.modDma s f).casc = s.casc := rfl
@[simp] theorem State.modDma_net (s : State) (f : Dma → Dma) : (State.modDma s f).net = s.net := rfl
@[simp] theorem State.modDma_pcie (s : State) (f : Dma → Dma) : (State.modDma s f).pcie = s.pcie := rfl
@[simp] theorem State.modDma_dma (s : State) (f : Dma → Dma) : (State.modDma s f).dma = f s.dma := rfl
@[simp] theorem State.modDma_pwr (s : State) (f : Dma → Dma) : (State.modDma s f).pwr = s.pwr := rfl
@[simp] theorem State.modDma_boot (s : State) (f : Dma → Dma) : (State.modDma s f).boot = s.boot := rfl
@[simp] theorem State.modDma_ident (s : State) (f : Dma → Dma) : (State.modDma s f).ident = s.ident := rfl
@[simp] theorem State.modDma_tap (s : State) (f : Dma → Dma) : (State.modDma s f).tap = s.tap := rfl
@[simp] theorem State.modDma_ent (s : State) (f : Dma → Dma) : (State.modDma s f).ent = s.ent := rfl
@[simp] theorem State.modDma_cnt (s : State) (f : Dma → Dma) : (State.modDma s f).cnt = s.cnt := rfl
@[simp] theorem State.modDma_cntRem (s : State) (f : Dma → Dma) : (State.modDma s f).cntRem = s.cntRem := rfl
@[simp] theorem State.modDma_holdMax (s : State) (f : Dma → Dma) : (State.modDma s f).holdMax = s.holdMax := rfl
@[simp] theorem State.modDma_out (s : State) (f : Dma → Dma) : (State.modDma s f).out = s.out := rfl
@[simp] theorem State.modDma_freeIx (s : State) (f : Dma → Dma) : (State.modDma s f).freeIx = s.freeIx := rfl
@[simp] theorem State.modDma_nextId (s : State) (f : Dma → Dma) : (State.modDma s f).nextId = s.nextId := rfl

/-! ## State.modPwr -/

@[simp] theorem State.modPwr_pending (s : State) (f : Power → Power) : (State.modPwr s f).pending = s.pending := rfl
@[simp] theorem State.modPwr_clk (s : State) (f : Power → Power) : (State.modPwr s f).clk = s.clk := rfl
@[simp] theorem State.modPwr_seq (s : State) (f : Power → Power) : (State.modPwr s f).seq = s.seq := rfl
@[simp] theorem State.modPwr_sync (s : State) (f : Power → Power) : (State.modPwr s f).sync = s.sync := rfl
@[simp] theorem State.modPwr_mem (s : State) (f : Power → Power) : (State.modPwr s f).mem = s.mem := rfl
@[simp] theorem State.modPwr_host (s : State) (f : Power → Power) : (State.modPwr s f).host = s.host := rfl
@[simp] theorem State.modPwr_arr (s : State) (f : Power → Power) : (State.modPwr s f).arr = s.arr := rfl
@[simp] theorem State.modPwr_disp (s : State) (f : Power → Power) : (State.modPwr s f).disp = s.disp := rfl
@[simp] theorem State.modPwr_eng (s : State) (f : Power → Power) : (State.modPwr s f).eng = s.eng := rfl
@[simp] theorem State.modPwr_str (s : State) (f : Power → Power) : (State.modPwr s f).str = s.str := rfl
@[simp] theorem State.modPwr_bulkQ (s : State) (f : Power → Power) : (State.modPwr s f).bulkQ = s.bulkQ := rfl
@[simp] theorem State.modPwr_deepQ (s : State) (f : Power → Power) : (State.modPwr s f).deepQ = s.deepQ := rfl
@[simp] theorem State.modPwr_mig (s : State) (f : Power → Power) : (State.modPwr s f).mig = s.mig := rfl
@[simp] theorem State.modPwr_awr (s : State) (f : Power → Power) : (State.modPwr s f).awr = s.awr := rfl
@[simp] theorem State.modPwr_media (s : State) (f : Power → Power) : (State.modPwr s f).media = s.media := rfl
@[simp] theorem State.modPwr_casc (s : State) (f : Power → Power) : (State.modPwr s f).casc = s.casc := rfl
@[simp] theorem State.modPwr_net (s : State) (f : Power → Power) : (State.modPwr s f).net = s.net := rfl
@[simp] theorem State.modPwr_pcie (s : State) (f : Power → Power) : (State.modPwr s f).pcie = s.pcie := rfl
@[simp] theorem State.modPwr_dma (s : State) (f : Power → Power) : (State.modPwr s f).dma = s.dma := rfl
@[simp] theorem State.modPwr_pwr (s : State) (f : Power → Power) : (State.modPwr s f).pwr = f s.pwr := rfl
@[simp] theorem State.modPwr_boot (s : State) (f : Power → Power) : (State.modPwr s f).boot = s.boot := rfl
@[simp] theorem State.modPwr_ident (s : State) (f : Power → Power) : (State.modPwr s f).ident = s.ident := rfl
@[simp] theorem State.modPwr_tap (s : State) (f : Power → Power) : (State.modPwr s f).tap = s.tap := rfl
@[simp] theorem State.modPwr_ent (s : State) (f : Power → Power) : (State.modPwr s f).ent = s.ent := rfl
@[simp] theorem State.modPwr_cnt (s : State) (f : Power → Power) : (State.modPwr s f).cnt = s.cnt := rfl
@[simp] theorem State.modPwr_cntRem (s : State) (f : Power → Power) : (State.modPwr s f).cntRem = s.cntRem := rfl
@[simp] theorem State.modPwr_holdMax (s : State) (f : Power → Power) : (State.modPwr s f).holdMax = s.holdMax := rfl
@[simp] theorem State.modPwr_out (s : State) (f : Power → Power) : (State.modPwr s f).out = s.out := rfl
@[simp] theorem State.modPwr_freeIx (s : State) (f : Power → Power) : (State.modPwr s f).freeIx = s.freeIx := rfl
@[simp] theorem State.modPwr_nextId (s : State) (f : Power → Power) : (State.modPwr s f).nextId = s.nextId := rfl

/-! ## State.modBoot -/

@[simp] theorem State.modBoot_pending (s : State) (f : Boot → Boot) : (State.modBoot s f).pending = s.pending := rfl
@[simp] theorem State.modBoot_clk (s : State) (f : Boot → Boot) : (State.modBoot s f).clk = s.clk := rfl
@[simp] theorem State.modBoot_seq (s : State) (f : Boot → Boot) : (State.modBoot s f).seq = s.seq := rfl
@[simp] theorem State.modBoot_sync (s : State) (f : Boot → Boot) : (State.modBoot s f).sync = s.sync := rfl
@[simp] theorem State.modBoot_mem (s : State) (f : Boot → Boot) : (State.modBoot s f).mem = s.mem := rfl
@[simp] theorem State.modBoot_host (s : State) (f : Boot → Boot) : (State.modBoot s f).host = s.host := rfl
@[simp] theorem State.modBoot_arr (s : State) (f : Boot → Boot) : (State.modBoot s f).arr = s.arr := rfl
@[simp] theorem State.modBoot_disp (s : State) (f : Boot → Boot) : (State.modBoot s f).disp = s.disp := rfl
@[simp] theorem State.modBoot_eng (s : State) (f : Boot → Boot) : (State.modBoot s f).eng = s.eng := rfl
@[simp] theorem State.modBoot_str (s : State) (f : Boot → Boot) : (State.modBoot s f).str = s.str := rfl
@[simp] theorem State.modBoot_bulkQ (s : State) (f : Boot → Boot) : (State.modBoot s f).bulkQ = s.bulkQ := rfl
@[simp] theorem State.modBoot_deepQ (s : State) (f : Boot → Boot) : (State.modBoot s f).deepQ = s.deepQ := rfl
@[simp] theorem State.modBoot_mig (s : State) (f : Boot → Boot) : (State.modBoot s f).mig = s.mig := rfl
@[simp] theorem State.modBoot_awr (s : State) (f : Boot → Boot) : (State.modBoot s f).awr = s.awr := rfl
@[simp] theorem State.modBoot_media (s : State) (f : Boot → Boot) : (State.modBoot s f).media = s.media := rfl
@[simp] theorem State.modBoot_casc (s : State) (f : Boot → Boot) : (State.modBoot s f).casc = s.casc := rfl
@[simp] theorem State.modBoot_net (s : State) (f : Boot → Boot) : (State.modBoot s f).net = s.net := rfl
@[simp] theorem State.modBoot_pcie (s : State) (f : Boot → Boot) : (State.modBoot s f).pcie = s.pcie := rfl
@[simp] theorem State.modBoot_dma (s : State) (f : Boot → Boot) : (State.modBoot s f).dma = s.dma := rfl
@[simp] theorem State.modBoot_pwr (s : State) (f : Boot → Boot) : (State.modBoot s f).pwr = s.pwr := rfl
@[simp] theorem State.modBoot_boot (s : State) (f : Boot → Boot) : (State.modBoot s f).boot = f s.boot := rfl
@[simp] theorem State.modBoot_ident (s : State) (f : Boot → Boot) : (State.modBoot s f).ident = s.ident := rfl
@[simp] theorem State.modBoot_tap (s : State) (f : Boot → Boot) : (State.modBoot s f).tap = s.tap := rfl
@[simp] theorem State.modBoot_ent (s : State) (f : Boot → Boot) : (State.modBoot s f).ent = s.ent := rfl
@[simp] theorem State.modBoot_cnt (s : State) (f : Boot → Boot) : (State.modBoot s f).cnt = s.cnt := rfl
@[simp] theorem State.modBoot_cntRem (s : State) (f : Boot → Boot) : (State.modBoot s f).cntRem = s.cntRem := rfl
@[simp] theorem State.modBoot_holdMax (s : State) (f : Boot → Boot) : (State.modBoot s f).holdMax = s.holdMax := rfl
@[simp] theorem State.modBoot_out (s : State) (f : Boot → Boot) : (State.modBoot s f).out = s.out := rfl
@[simp] theorem State.modBoot_freeIx (s : State) (f : Boot → Boot) : (State.modBoot s f).freeIx = s.freeIx := rfl
@[simp] theorem State.modBoot_nextId (s : State) (f : Boot → Boot) : (State.modBoot s f).nextId = s.nextId := rfl

/-! ## State.emit -/

@[simp] theorem State.emit_pending (s : State) (e : Emit) : (State.emit s e).pending = s.pending := rfl
@[simp] theorem State.emit_clk (s : State) (e : Emit) : (State.emit s e).clk = s.clk := rfl
@[simp] theorem State.emit_seq (s : State) (e : Emit) : (State.emit s e).seq = s.seq := rfl
@[simp] theorem State.emit_sync (s : State) (e : Emit) : (State.emit s e).sync = s.sync := rfl
@[simp] theorem State.emit_mem (s : State) (e : Emit) : (State.emit s e).mem = s.mem := rfl
@[simp] theorem State.emit_host (s : State) (e : Emit) : (State.emit s e).host = s.host := rfl
@[simp] theorem State.emit_arr (s : State) (e : Emit) : (State.emit s e).arr = s.arr := rfl
@[simp] theorem State.emit_disp (s : State) (e : Emit) : (State.emit s e).disp = s.disp := rfl
@[simp] theorem State.emit_eng (s : State) (e : Emit) : (State.emit s e).eng = s.eng := rfl
@[simp] theorem State.emit_str (s : State) (e : Emit) : (State.emit s e).str = s.str := rfl
@[simp] theorem State.emit_bulkQ (s : State) (e : Emit) : (State.emit s e).bulkQ = s.bulkQ := rfl
@[simp] theorem State.emit_deepQ (s : State) (e : Emit) : (State.emit s e).deepQ = s.deepQ := rfl
@[simp] theorem State.emit_mig (s : State) (e : Emit) : (State.emit s e).mig = s.mig := rfl
@[simp] theorem State.emit_awr (s : State) (e : Emit) : (State.emit s e).awr = s.awr := rfl
@[simp] theorem State.emit_media (s : State) (e : Emit) : (State.emit s e).media = s.media := rfl
@[simp] theorem State.emit_casc (s : State) (e : Emit) : (State.emit s e).casc = s.casc := rfl
@[simp] theorem State.emit_net (s : State) (e : Emit) : (State.emit s e).net = s.net := rfl
@[simp] theorem State.emit_pcie (s : State) (e : Emit) : (State.emit s e).pcie = s.pcie := rfl
@[simp] theorem State.emit_dma (s : State) (e : Emit) : (State.emit s e).dma = s.dma := rfl
@[simp] theorem State.emit_pwr (s : State) (e : Emit) : (State.emit s e).pwr = s.pwr := rfl
@[simp] theorem State.emit_boot (s : State) (e : Emit) : (State.emit s e).boot = s.boot := rfl
@[simp] theorem State.emit_ident (s : State) (e : Emit) : (State.emit s e).ident = s.ident := rfl
@[simp] theorem State.emit_tap (s : State) (e : Emit) : (State.emit s e).tap = s.tap := rfl
@[simp] theorem State.emit_ent (s : State) (e : Emit) : (State.emit s e).ent = s.ent := rfl
@[simp] theorem State.emit_cnt (s : State) (e : Emit) : (State.emit s e).cnt = s.cnt := rfl
@[simp] theorem State.emit_cntRem (s : State) (e : Emit) : (State.emit s e).cntRem = s.cntRem := rfl
@[simp] theorem State.emit_holdMax (s : State) (e : Emit) : (State.emit s e).holdMax = s.holdMax := rfl
@[simp] theorem State.emit_out (s : State) (e : Emit) : (State.emit s e).out = s.out ++ [e] := rfl
@[simp] theorem State.emit_freeIx (s : State) (e : Emit) : (State.emit s e).freeIx = s.freeIx := rfl
@[simp] theorem State.emit_nextId (s : State) (e : Emit) : (State.emit s e).nextId = s.nextId := rfl

/-! ## State.takeFree -/

@[simp] theorem State.takeFree_pending (s : State) : (State.takeFree s).pending = s.pending := rfl
@[simp] theorem State.takeFree_clk (s : State) : (State.takeFree s).clk = s.clk := rfl
@[simp] theorem State.takeFree_seq (s : State) : (State.takeFree s).seq = s.seq := rfl
@[simp] theorem State.takeFree_sync (s : State) : (State.takeFree s).sync = s.sync := rfl
@[simp] theorem State.takeFree_mem (s : State) : (State.takeFree s).mem = s.mem := rfl
@[simp] theorem State.takeFree_host (s : State) : (State.takeFree s).host = s.host := rfl
@[simp] theorem State.takeFree_arr (s : State) : (State.takeFree s).arr = s.arr := rfl
@[simp] theorem State.takeFree_disp (s : State) : (State.takeFree s).disp = s.disp := rfl
@[simp] theorem State.takeFree_eng (s : State) : (State.takeFree s).eng = s.eng := rfl
@[simp] theorem State.takeFree_str (s : State) : (State.takeFree s).str = s.str := rfl
@[simp] theorem State.takeFree_bulkQ (s : State) : (State.takeFree s).bulkQ = s.bulkQ := rfl
@[simp] theorem State.takeFree_deepQ (s : State) : (State.takeFree s).deepQ = s.deepQ := rfl
@[simp] theorem State.takeFree_mig (s : State) : (State.takeFree s).mig = s.mig := rfl
@[simp] theorem State.takeFree_awr (s : State) : (State.takeFree s).awr = s.awr := rfl
@[simp] theorem State.takeFree_media (s : State) : (State.takeFree s).media = s.media := rfl
@[simp] theorem State.takeFree_casc (s : State) : (State.takeFree s).casc = s.casc := rfl
@[simp] theorem State.takeFree_net (s : State) : (State.takeFree s).net = s.net := rfl
@[simp] theorem State.takeFree_pcie (s : State) : (State.takeFree s).pcie = s.pcie := rfl
@[simp] theorem State.takeFree_dma (s : State) : (State.takeFree s).dma = s.dma := rfl
@[simp] theorem State.takeFree_pwr (s : State) : (State.takeFree s).pwr = s.pwr := rfl
@[simp] theorem State.takeFree_boot (s : State) : (State.takeFree s).boot = s.boot := rfl
@[simp] theorem State.takeFree_ident (s : State) : (State.takeFree s).ident = s.ident := rfl
@[simp] theorem State.takeFree_tap (s : State) : (State.takeFree s).tap = s.tap := rfl
@[simp] theorem State.takeFree_ent (s : State) : (State.takeFree s).ent = s.ent := rfl
@[simp] theorem State.takeFree_cnt (s : State) : (State.takeFree s).cnt = s.cnt := rfl
@[simp] theorem State.takeFree_cntRem (s : State) : (State.takeFree s).cntRem = s.cntRem := rfl
@[simp] theorem State.takeFree_holdMax (s : State) : (State.takeFree s).holdMax = s.holdMax := rfl
@[simp] theorem State.takeFree_out (s : State) : (State.takeFree s).out = s.out := rfl
@[simp] theorem State.takeFree_freeIx (s : State) : (State.takeFree s).freeIx = s.freeIx + 1 := rfl
@[simp] theorem State.takeFree_nextId (s : State) : (State.takeFree s).nextId = s.nextId := rfl

/-! ## State.takeFrees -/

@[simp] theorem State.takeFrees_pending (s : State) (n : Nat) : (State.takeFrees s n).pending = s.pending := rfl
@[simp] theorem State.takeFrees_clk (s : State) (n : Nat) : (State.takeFrees s n).clk = s.clk := rfl
@[simp] theorem State.takeFrees_seq (s : State) (n : Nat) : (State.takeFrees s n).seq = s.seq := rfl
@[simp] theorem State.takeFrees_sync (s : State) (n : Nat) : (State.takeFrees s n).sync = s.sync := rfl
@[simp] theorem State.takeFrees_mem (s : State) (n : Nat) : (State.takeFrees s n).mem = s.mem := rfl
@[simp] theorem State.takeFrees_host (s : State) (n : Nat) : (State.takeFrees s n).host = s.host := rfl
@[simp] theorem State.takeFrees_arr (s : State) (n : Nat) : (State.takeFrees s n).arr = s.arr := rfl
@[simp] theorem State.takeFrees_disp (s : State) (n : Nat) : (State.takeFrees s n).disp = s.disp := rfl
@[simp] theorem State.takeFrees_eng (s : State) (n : Nat) : (State.takeFrees s n).eng = s.eng := rfl
@[simp] theorem State.takeFrees_str (s : State) (n : Nat) : (State.takeFrees s n).str = s.str := rfl
@[simp] theorem State.takeFrees_bulkQ (s : State) (n : Nat) : (State.takeFrees s n).bulkQ = s.bulkQ := rfl
@[simp] theorem State.takeFrees_deepQ (s : State) (n : Nat) : (State.takeFrees s n).deepQ = s.deepQ := rfl
@[simp] theorem State.takeFrees_mig (s : State) (n : Nat) : (State.takeFrees s n).mig = s.mig := rfl
@[simp] theorem State.takeFrees_awr (s : State) (n : Nat) : (State.takeFrees s n).awr = s.awr := rfl
@[simp] theorem State.takeFrees_media (s : State) (n : Nat) : (State.takeFrees s n).media = s.media := rfl
@[simp] theorem State.takeFrees_casc (s : State) (n : Nat) : (State.takeFrees s n).casc = s.casc := rfl
@[simp] theorem State.takeFrees_net (s : State) (n : Nat) : (State.takeFrees s n).net = s.net := rfl
@[simp] theorem State.takeFrees_pcie (s : State) (n : Nat) : (State.takeFrees s n).pcie = s.pcie := rfl
@[simp] theorem State.takeFrees_dma (s : State) (n : Nat) : (State.takeFrees s n).dma = s.dma := rfl
@[simp] theorem State.takeFrees_pwr (s : State) (n : Nat) : (State.takeFrees s n).pwr = s.pwr := rfl
@[simp] theorem State.takeFrees_boot (s : State) (n : Nat) : (State.takeFrees s n).boot = s.boot := rfl
@[simp] theorem State.takeFrees_ident (s : State) (n : Nat) : (State.takeFrees s n).ident = s.ident := rfl
@[simp] theorem State.takeFrees_tap (s : State) (n : Nat) : (State.takeFrees s n).tap = s.tap := rfl
@[simp] theorem State.takeFrees_ent (s : State) (n : Nat) : (State.takeFrees s n).ent = s.ent := rfl
@[simp] theorem State.takeFrees_cnt (s : State) (n : Nat) : (State.takeFrees s n).cnt = s.cnt := rfl
@[simp] theorem State.takeFrees_cntRem (s : State) (n : Nat) : (State.takeFrees s n).cntRem = s.cntRem := rfl
@[simp] theorem State.takeFrees_holdMax (s : State) (n : Nat) : (State.takeFrees s n).holdMax = s.holdMax := rfl
@[simp] theorem State.takeFrees_out (s : State) (n : Nat) : (State.takeFrees s n).out = s.out := rfl
@[simp] theorem State.takeFrees_freeIx (s : State) (n : Nat) : (State.takeFrees s n).freeIx = s.freeIx + n := rfl
@[simp] theorem State.takeFrees_nextId (s : State) (n : Nat) : (State.takeFrees s n).nextId = s.nextId := rfl

/-! ## State.takeId -/

@[simp] theorem State.takeId_pending (s : State) : (State.takeId s).pending = s.pending := rfl
@[simp] theorem State.takeId_clk (s : State) : (State.takeId s).clk = s.clk := rfl
@[simp] theorem State.takeId_seq (s : State) : (State.takeId s).seq = s.seq := rfl
@[simp] theorem State.takeId_sync (s : State) : (State.takeId s).sync = s.sync := rfl
@[simp] theorem State.takeId_mem (s : State) : (State.takeId s).mem = s.mem := rfl
@[simp] theorem State.takeId_host (s : State) : (State.takeId s).host = s.host := rfl
@[simp] theorem State.takeId_arr (s : State) : (State.takeId s).arr = s.arr := rfl
@[simp] theorem State.takeId_disp (s : State) : (State.takeId s).disp = s.disp := rfl
@[simp] theorem State.takeId_eng (s : State) : (State.takeId s).eng = s.eng := rfl
@[simp] theorem State.takeId_str (s : State) : (State.takeId s).str = s.str := rfl
@[simp] theorem State.takeId_bulkQ (s : State) : (State.takeId s).bulkQ = s.bulkQ := rfl
@[simp] theorem State.takeId_deepQ (s : State) : (State.takeId s).deepQ = s.deepQ := rfl
@[simp] theorem State.takeId_mig (s : State) : (State.takeId s).mig = s.mig := rfl
@[simp] theorem State.takeId_awr (s : State) : (State.takeId s).awr = s.awr := rfl
@[simp] theorem State.takeId_media (s : State) : (State.takeId s).media = s.media := rfl
@[simp] theorem State.takeId_casc (s : State) : (State.takeId s).casc = s.casc := rfl
@[simp] theorem State.takeId_net (s : State) : (State.takeId s).net = s.net := rfl
@[simp] theorem State.takeId_pcie (s : State) : (State.takeId s).pcie = s.pcie := rfl
@[simp] theorem State.takeId_dma (s : State) : (State.takeId s).dma = s.dma := rfl
@[simp] theorem State.takeId_pwr (s : State) : (State.takeId s).pwr = s.pwr := rfl
@[simp] theorem State.takeId_boot (s : State) : (State.takeId s).boot = s.boot := rfl
@[simp] theorem State.takeId_ident (s : State) : (State.takeId s).ident = s.ident := rfl
@[simp] theorem State.takeId_tap (s : State) : (State.takeId s).tap = s.tap := rfl
@[simp] theorem State.takeId_ent (s : State) : (State.takeId s).ent = s.ent := rfl
@[simp] theorem State.takeId_cnt (s : State) : (State.takeId s).cnt = s.cnt := rfl
@[simp] theorem State.takeId_cntRem (s : State) : (State.takeId s).cntRem = s.cntRem := rfl
@[simp] theorem State.takeId_holdMax (s : State) : (State.takeId s).holdMax = s.holdMax := rfl
@[simp] theorem State.takeId_out (s : State) : (State.takeId s).out = s.out := rfl
@[simp] theorem State.takeId_freeIx (s : State) : (State.takeId s).freeIx = s.freeIx := rfl
@[simp] theorem State.takeId_nextId (s : State) : (State.takeId s).nextId = s.nextId + 1 := rfl

/-! ## State.putMem -/

@[simp] theorem State.putMem_pending (s : State) (a : Nat) (bs : List Byte) : (State.putMem s a bs).pending = s.pending := rfl
@[simp] theorem State.putMem_clk (s : State) (a : Nat) (bs : List Byte) : (State.putMem s a bs).clk = s.clk := rfl
@[simp] theorem State.putMem_seq (s : State) (a : Nat) (bs : List Byte) : (State.putMem s a bs).seq = s.seq := rfl
@[simp] theorem State.putMem_sync (s : State) (a : Nat) (bs : List Byte) : (State.putMem s a bs).sync = s.sync := rfl
@[simp] theorem State.putMem_mem (s : State) (a : Nat) (bs : List Byte) : (State.putMem s a bs).mem = Memory.puts s.mem a bs := rfl
@[simp] theorem State.putMem_host (s : State) (a : Nat) (bs : List Byte) : (State.putMem s a bs).host = s.host := rfl
@[simp] theorem State.putMem_arr (s : State) (a : Nat) (bs : List Byte) : (State.putMem s a bs).arr = s.arr := rfl
@[simp] theorem State.putMem_disp (s : State) (a : Nat) (bs : List Byte) : (State.putMem s a bs).disp = s.disp := rfl
@[simp] theorem State.putMem_eng (s : State) (a : Nat) (bs : List Byte) : (State.putMem s a bs).eng = s.eng := rfl
@[simp] theorem State.putMem_str (s : State) (a : Nat) (bs : List Byte) : (State.putMem s a bs).str = s.str := rfl
@[simp] theorem State.putMem_bulkQ (s : State) (a : Nat) (bs : List Byte) : (State.putMem s a bs).bulkQ = s.bulkQ := rfl
@[simp] theorem State.putMem_deepQ (s : State) (a : Nat) (bs : List Byte) : (State.putMem s a bs).deepQ = s.deepQ := rfl
@[simp] theorem State.putMem_mig (s : State) (a : Nat) (bs : List Byte) : (State.putMem s a bs).mig = s.mig := rfl
@[simp] theorem State.putMem_awr (s : State) (a : Nat) (bs : List Byte) : (State.putMem s a bs).awr = s.awr := rfl
@[simp] theorem State.putMem_media (s : State) (a : Nat) (bs : List Byte) : (State.putMem s a bs).media = s.media := rfl
@[simp] theorem State.putMem_casc (s : State) (a : Nat) (bs : List Byte) : (State.putMem s a bs).casc = s.casc := rfl
@[simp] theorem State.putMem_net (s : State) (a : Nat) (bs : List Byte) : (State.putMem s a bs).net = s.net := rfl
@[simp] theorem State.putMem_pcie (s : State) (a : Nat) (bs : List Byte) : (State.putMem s a bs).pcie = s.pcie := rfl
@[simp] theorem State.putMem_dma (s : State) (a : Nat) (bs : List Byte) : (State.putMem s a bs).dma = s.dma := rfl
@[simp] theorem State.putMem_pwr (s : State) (a : Nat) (bs : List Byte) : (State.putMem s a bs).pwr = s.pwr := rfl
@[simp] theorem State.putMem_boot (s : State) (a : Nat) (bs : List Byte) : (State.putMem s a bs).boot = s.boot := rfl
@[simp] theorem State.putMem_ident (s : State) (a : Nat) (bs : List Byte) : (State.putMem s a bs).ident = s.ident := rfl
@[simp] theorem State.putMem_tap (s : State) (a : Nat) (bs : List Byte) : (State.putMem s a bs).tap = s.tap := rfl
@[simp] theorem State.putMem_ent (s : State) (a : Nat) (bs : List Byte) : (State.putMem s a bs).ent = s.ent := rfl
@[simp] theorem State.putMem_cnt (s : State) (a : Nat) (bs : List Byte) : (State.putMem s a bs).cnt = s.cnt := rfl
@[simp] theorem State.putMem_cntRem (s : State) (a : Nat) (bs : List Byte) : (State.putMem s a bs).cntRem = s.cntRem := rfl
@[simp] theorem State.putMem_holdMax (s : State) (a : Nat) (bs : List Byte) : (State.putMem s a bs).holdMax = s.holdMax := rfl
@[simp] theorem State.putMem_out (s : State) (a : Nat) (bs : List Byte) : (State.putMem s a bs).out = s.out := rfl
@[simp] theorem State.putMem_freeIx (s : State) (a : Nat) (bs : List Byte) : (State.putMem s a bs).freeIx = s.freeIx := rfl
@[simp] theorem State.putMem_nextId (s : State) (a : Nat) (bs : List Byte) : (State.putMem s a bs).nextId = s.nextId := rfl

/-! ## State.putHost -/

@[simp] theorem State.putHost_pending (s : State) (a : Nat) (bs : List Byte) : (State.putHost s a bs).pending = s.pending := rfl
@[simp] theorem State.putHost_clk (s : State) (a : Nat) (bs : List Byte) : (State.putHost s a bs).clk = s.clk := rfl
@[simp] theorem State.putHost_seq (s : State) (a : Nat) (bs : List Byte) : (State.putHost s a bs).seq = s.seq := rfl
@[simp] theorem State.putHost_sync (s : State) (a : Nat) (bs : List Byte) : (State.putHost s a bs).sync = s.sync := rfl
@[simp] theorem State.putHost_mem (s : State) (a : Nat) (bs : List Byte) : (State.putHost s a bs).mem = s.mem := rfl
@[simp] theorem State.putHost_host (s : State) (a : Nat) (bs : List Byte) : (State.putHost s a bs).host = Memory.puts s.host a bs := rfl
@[simp] theorem State.putHost_arr (s : State) (a : Nat) (bs : List Byte) : (State.putHost s a bs).arr = s.arr := rfl
@[simp] theorem State.putHost_disp (s : State) (a : Nat) (bs : List Byte) : (State.putHost s a bs).disp = s.disp := rfl
@[simp] theorem State.putHost_eng (s : State) (a : Nat) (bs : List Byte) : (State.putHost s a bs).eng = s.eng := rfl
@[simp] theorem State.putHost_str (s : State) (a : Nat) (bs : List Byte) : (State.putHost s a bs).str = s.str := rfl
@[simp] theorem State.putHost_bulkQ (s : State) (a : Nat) (bs : List Byte) : (State.putHost s a bs).bulkQ = s.bulkQ := rfl
@[simp] theorem State.putHost_deepQ (s : State) (a : Nat) (bs : List Byte) : (State.putHost s a bs).deepQ = s.deepQ := rfl
@[simp] theorem State.putHost_mig (s : State) (a : Nat) (bs : List Byte) : (State.putHost s a bs).mig = s.mig := rfl
@[simp] theorem State.putHost_awr (s : State) (a : Nat) (bs : List Byte) : (State.putHost s a bs).awr = s.awr := rfl
@[simp] theorem State.putHost_media (s : State) (a : Nat) (bs : List Byte) : (State.putHost s a bs).media = s.media := rfl
@[simp] theorem State.putHost_casc (s : State) (a : Nat) (bs : List Byte) : (State.putHost s a bs).casc = s.casc := rfl
@[simp] theorem State.putHost_net (s : State) (a : Nat) (bs : List Byte) : (State.putHost s a bs).net = s.net := rfl
@[simp] theorem State.putHost_pcie (s : State) (a : Nat) (bs : List Byte) : (State.putHost s a bs).pcie = s.pcie := rfl
@[simp] theorem State.putHost_dma (s : State) (a : Nat) (bs : List Byte) : (State.putHost s a bs).dma = s.dma := rfl
@[simp] theorem State.putHost_pwr (s : State) (a : Nat) (bs : List Byte) : (State.putHost s a bs).pwr = s.pwr := rfl
@[simp] theorem State.putHost_boot (s : State) (a : Nat) (bs : List Byte) : (State.putHost s a bs).boot = s.boot := rfl
@[simp] theorem State.putHost_ident (s : State) (a : Nat) (bs : List Byte) : (State.putHost s a bs).ident = s.ident := rfl
@[simp] theorem State.putHost_tap (s : State) (a : Nat) (bs : List Byte) : (State.putHost s a bs).tap = s.tap := rfl
@[simp] theorem State.putHost_ent (s : State) (a : Nat) (bs : List Byte) : (State.putHost s a bs).ent = s.ent := rfl
@[simp] theorem State.putHost_cnt (s : State) (a : Nat) (bs : List Byte) : (State.putHost s a bs).cnt = s.cnt := rfl
@[simp] theorem State.putHost_cntRem (s : State) (a : Nat) (bs : List Byte) : (State.putHost s a bs).cntRem = s.cntRem := rfl
@[simp] theorem State.putHost_holdMax (s : State) (a : Nat) (bs : List Byte) : (State.putHost s a bs).holdMax = s.holdMax := rfl
@[simp] theorem State.putHost_out (s : State) (a : Nat) (bs : List Byte) : (State.putHost s a bs).out = s.out := rfl
@[simp] theorem State.putHost_freeIx (s : State) (a : Nat) (bs : List Byte) : (State.putHost s a bs).freeIx = s.freeIx := rfl
@[simp] theorem State.putHost_nextId (s : State) (a : Nat) (bs : List Byte) : (State.putHost s a bs).nextId = s.nextId := rfl

/-! ## State.setEnt -/

@[simp] theorem State.setEnt_pending (s : State) (i j v : Nat) : (State.setEnt s i j v).pending = s.pending := rfl
@[simp] theorem State.setEnt_clk (s : State) (i j v : Nat) : (State.setEnt s i j v).clk = s.clk := rfl
@[simp] theorem State.setEnt_seq (s : State) (i j v : Nat) : (State.setEnt s i j v).seq = s.seq := rfl
@[simp] theorem State.setEnt_sync (s : State) (i j v : Nat) : (State.setEnt s i j v).sync = s.sync := rfl
@[simp] theorem State.setEnt_mem (s : State) (i j v : Nat) : (State.setEnt s i j v).mem = s.mem := rfl
@[simp] theorem State.setEnt_host (s : State) (i j v : Nat) : (State.setEnt s i j v).host = s.host := rfl
@[simp] theorem State.setEnt_arr (s : State) (i j v : Nat) : (State.setEnt s i j v).arr = s.arr := rfl
@[simp] theorem State.setEnt_disp (s : State) (i j v : Nat) : (State.setEnt s i j v).disp = s.disp := rfl
@[simp] theorem State.setEnt_eng (s : State) (i j v : Nat) : (State.setEnt s i j v).eng = s.eng := rfl
@[simp] theorem State.setEnt_str (s : State) (i j v : Nat) : (State.setEnt s i j v).str = s.str := rfl
@[simp] theorem State.setEnt_bulkQ (s : State) (i j v : Nat) : (State.setEnt s i j v).bulkQ = s.bulkQ := rfl
@[simp] theorem State.setEnt_deepQ (s : State) (i j v : Nat) : (State.setEnt s i j v).deepQ = s.deepQ := rfl
@[simp] theorem State.setEnt_mig (s : State) (i j v : Nat) : (State.setEnt s i j v).mig = s.mig := rfl
@[simp] theorem State.setEnt_awr (s : State) (i j v : Nat) : (State.setEnt s i j v).awr = s.awr := rfl
@[simp] theorem State.setEnt_media (s : State) (i j v : Nat) : (State.setEnt s i j v).media = s.media := rfl
@[simp] theorem State.setEnt_casc (s : State) (i j v : Nat) : (State.setEnt s i j v).casc = s.casc := rfl
@[simp] theorem State.setEnt_net (s : State) (i j v : Nat) : (State.setEnt s i j v).net = s.net := rfl
@[simp] theorem State.setEnt_pcie (s : State) (i j v : Nat) : (State.setEnt s i j v).pcie = s.pcie := rfl
@[simp] theorem State.setEnt_dma (s : State) (i j v : Nat) : (State.setEnt s i j v).dma = s.dma := rfl
@[simp] theorem State.setEnt_pwr (s : State) (i j v : Nat) : (State.setEnt s i j v).pwr = s.pwr := rfl
@[simp] theorem State.setEnt_boot (s : State) (i j v : Nat) : (State.setEnt s i j v).boot = s.boot := rfl
@[simp] theorem State.setEnt_ident (s : State) (i j v : Nat) : (State.setEnt s i j v).ident = s.ident := rfl
@[simp] theorem State.setEnt_tap (s : State) (i j v : Nat) : (State.setEnt s i j v).tap = s.tap := rfl
@[simp] theorem State.setEnt_ent (s : State) (i j v : Nat) : (State.setEnt s i j v).ent = tset entDefault s.ent (ekey i j) v := rfl
@[simp] theorem State.setEnt_cnt (s : State) (i j v : Nat) : (State.setEnt s i j v).cnt = s.cnt := rfl
@[simp] theorem State.setEnt_cntRem (s : State) (i j v : Nat) : (State.setEnt s i j v).cntRem = s.cntRem := rfl
@[simp] theorem State.setEnt_holdMax (s : State) (i j v : Nat) : (State.setEnt s i j v).holdMax = s.holdMax := rfl
@[simp] theorem State.setEnt_out (s : State) (i j v : Nat) : (State.setEnt s i j v).out = s.out := rfl
@[simp] theorem State.setEnt_freeIx (s : State) (i j v : Nat) : (State.setEnt s i j v).freeIx = s.freeIx := rfl
@[simp] theorem State.setEnt_nextId (s : State) (i j v : Nat) : (State.setEnt s i j v).nextId = s.nextId := rfl

/-! ## State.addCnt -/

@[simp] theorem State.addCnt_pending (s : State) (i j n : Nat) : (State.addCnt s i j n).pending = s.pending := rfl
@[simp] theorem State.addCnt_clk (s : State) (i j n : Nat) : (State.addCnt s i j n).clk = s.clk := rfl
@[simp] theorem State.addCnt_seq (s : State) (i j n : Nat) : (State.addCnt s i j n).seq = s.seq := rfl
@[simp] theorem State.addCnt_sync (s : State) (i j n : Nat) : (State.addCnt s i j n).sync = s.sync := rfl
@[simp] theorem State.addCnt_mem (s : State) (i j n : Nat) : (State.addCnt s i j n).mem = s.mem := rfl
@[simp] theorem State.addCnt_host (s : State) (i j n : Nat) : (State.addCnt s i j n).host = s.host := rfl
@[simp] theorem State.addCnt_arr (s : State) (i j n : Nat) : (State.addCnt s i j n).arr = s.arr := rfl
@[simp] theorem State.addCnt_disp (s : State) (i j n : Nat) : (State.addCnt s i j n).disp = s.disp := rfl
@[simp] theorem State.addCnt_eng (s : State) (i j n : Nat) : (State.addCnt s i j n).eng = s.eng := rfl
@[simp] theorem State.addCnt_str (s : State) (i j n : Nat) : (State.addCnt s i j n).str = s.str := rfl
@[simp] theorem State.addCnt_bulkQ (s : State) (i j n : Nat) : (State.addCnt s i j n).bulkQ = s.bulkQ := rfl
@[simp] theorem State.addCnt_deepQ (s : State) (i j n : Nat) : (State.addCnt s i j n).deepQ = s.deepQ := rfl
@[simp] theorem State.addCnt_mig (s : State) (i j n : Nat) : (State.addCnt s i j n).mig = s.mig := rfl
@[simp] theorem State.addCnt_awr (s : State) (i j n : Nat) : (State.addCnt s i j n).awr = s.awr := rfl
@[simp] theorem State.addCnt_media (s : State) (i j n : Nat) : (State.addCnt s i j n).media = s.media := rfl
@[simp] theorem State.addCnt_casc (s : State) (i j n : Nat) : (State.addCnt s i j n).casc = s.casc := rfl
@[simp] theorem State.addCnt_net (s : State) (i j n : Nat) : (State.addCnt s i j n).net = s.net := rfl
@[simp] theorem State.addCnt_pcie (s : State) (i j n : Nat) : (State.addCnt s i j n).pcie = s.pcie := rfl
@[simp] theorem State.addCnt_dma (s : State) (i j n : Nat) : (State.addCnt s i j n).dma = s.dma := rfl
@[simp] theorem State.addCnt_pwr (s : State) (i j n : Nat) : (State.addCnt s i j n).pwr = s.pwr := rfl
@[simp] theorem State.addCnt_boot (s : State) (i j n : Nat) : (State.addCnt s i j n).boot = s.boot := rfl
@[simp] theorem State.addCnt_ident (s : State) (i j n : Nat) : (State.addCnt s i j n).ident = s.ident := rfl
@[simp] theorem State.addCnt_tap (s : State) (i j n : Nat) : (State.addCnt s i j n).tap = s.tap := rfl
@[simp] theorem State.addCnt_ent (s : State) (i j n : Nat) : (State.addCnt s i j n).ent = s.ent := rfl
@[simp] theorem State.addCnt_cnt (s : State) (i j n : Nat) : (State.addCnt s i j n).cnt = tset zeroNat s.cnt (ekey i j) (min 0xFFFF (s.cnt? i j + n)) := rfl
@[simp] theorem State.addCnt_cntRem (s : State) (i j n : Nat) : (State.addCnt s i j n).cntRem = s.cntRem := rfl
@[simp] theorem State.addCnt_holdMax (s : State) (i j n : Nat) : (State.addCnt s i j n).holdMax = s.holdMax := rfl
@[simp] theorem State.addCnt_out (s : State) (i j n : Nat) : (State.addCnt s i j n).out = s.out := rfl
@[simp] theorem State.addCnt_freeIx (s : State) (i j n : Nat) : (State.addCnt s i j n).freeIx = s.freeIx := rfl
@[simp] theorem State.addCnt_nextId (s : State) (i j n : Nat) : (State.addCnt s i j n).nextId = s.nextId := rfl

/-! ## State.ySet -/

@[simp] theorem State.ySet_pending (s : State) (n : Nat) (v : Word) : (State.ySet s n v).pending = s.pending := rfl
@[simp] theorem State.ySet_clk (s : State) (n : Nat) (v : Word) : (State.ySet s n v).clk = s.clk := rfl
@[simp] theorem State.ySet_seq (s : State) (n : Nat) (v : Word) : (State.ySet s n v).seq = { s.seq with syncLog := s.noteSync n (s.clk.cycle + 1) } := rfl
@[simp] theorem State.ySet_sync (s : State) (n : Nat) (v : Word) : (State.ySet s n v).sync = tset zeroWord s.sync n v := rfl
@[simp] theorem State.ySet_mem (s : State) (n : Nat) (v : Word) : (State.ySet s n v).mem = s.mem := rfl
@[simp] theorem State.ySet_host (s : State) (n : Nat) (v : Word) : (State.ySet s n v).host = s.host := rfl
@[simp] theorem State.ySet_arr (s : State) (n : Nat) (v : Word) : (State.ySet s n v).arr = s.arr := rfl
@[simp] theorem State.ySet_disp (s : State) (n : Nat) (v : Word) : (State.ySet s n v).disp = s.disp := rfl
@[simp] theorem State.ySet_eng (s : State) (n : Nat) (v : Word) : (State.ySet s n v).eng = s.eng := rfl
@[simp] theorem State.ySet_str (s : State) (n : Nat) (v : Word) : (State.ySet s n v).str = s.str := rfl
@[simp] theorem State.ySet_bulkQ (s : State) (n : Nat) (v : Word) : (State.ySet s n v).bulkQ = s.bulkQ := rfl
@[simp] theorem State.ySet_deepQ (s : State) (n : Nat) (v : Word) : (State.ySet s n v).deepQ = s.deepQ := rfl
@[simp] theorem State.ySet_mig (s : State) (n : Nat) (v : Word) : (State.ySet s n v).mig = s.mig := rfl
@[simp] theorem State.ySet_awr (s : State) (n : Nat) (v : Word) : (State.ySet s n v).awr = s.awr := rfl
@[simp] theorem State.ySet_media (s : State) (n : Nat) (v : Word) : (State.ySet s n v).media = s.media := rfl
@[simp] theorem State.ySet_casc (s : State) (n : Nat) (v : Word) : (State.ySet s n v).casc = s.casc := rfl
@[simp] theorem State.ySet_net (s : State) (n : Nat) (v : Word) : (State.ySet s n v).net = s.net := rfl
@[simp] theorem State.ySet_pcie (s : State) (n : Nat) (v : Word) : (State.ySet s n v).pcie = s.pcie := rfl
@[simp] theorem State.ySet_dma (s : State) (n : Nat) (v : Word) : (State.ySet s n v).dma = s.dma := rfl
@[simp] theorem State.ySet_pwr (s : State) (n : Nat) (v : Word) : (State.ySet s n v).pwr = s.pwr := rfl
@[simp] theorem State.ySet_boot (s : State) (n : Nat) (v : Word) : (State.ySet s n v).boot = s.boot := rfl
@[simp] theorem State.ySet_ident (s : State) (n : Nat) (v : Word) : (State.ySet s n v).ident = s.ident := rfl
@[simp] theorem State.ySet_tap (s : State) (n : Nat) (v : Word) : (State.ySet s n v).tap = s.tap := rfl
@[simp] theorem State.ySet_ent (s : State) (n : Nat) (v : Word) : (State.ySet s n v).ent = s.ent := rfl
@[simp] theorem State.ySet_cnt (s : State) (n : Nat) (v : Word) : (State.ySet s n v).cnt = s.cnt := rfl
@[simp] theorem State.ySet_cntRem (s : State) (n : Nat) (v : Word) : (State.ySet s n v).cntRem = s.cntRem := rfl
@[simp] theorem State.ySet_holdMax (s : State) (n : Nat) (v : Word) : (State.ySet s n v).holdMax = s.holdMax := rfl
@[simp] theorem State.ySet_out (s : State) (n : Nat) (v : Word) : (State.ySet s n v).out = s.out := rfl
@[simp] theorem State.ySet_freeIx (s : State) (n : Nat) (v : Word) : (State.ySet s n v).freeIx = s.freeIx := rfl
@[simp] theorem State.ySet_nextId (s : State) (n : Nat) (v : Word) : (State.ySet s n v).nextId = s.nextId := rfl

/-! ## State.yAdd -/

@[simp] theorem State.yAdd_pending (s : State) (n : Nat) (v : Word) : (State.yAdd s n v).pending = s.pending := rfl
@[simp] theorem State.yAdd_clk (s : State) (n : Nat) (v : Word) : (State.yAdd s n v).clk = s.clk := rfl
@[simp] theorem State.yAdd_seq (s : State) (n : Nat) (v : Word) : (State.yAdd s n v).seq = { s.seq with syncLog := s.noteSync n (s.clk.cycle + 1) } := rfl
@[simp] theorem State.yAdd_sync (s : State) (n : Nat) (v : Word) : (State.yAdd s n v).sync = tset zeroWord s.sync n (s.y n + v) := rfl
@[simp] theorem State.yAdd_mem (s : State) (n : Nat) (v : Word) : (State.yAdd s n v).mem = s.mem := rfl
@[simp] theorem State.yAdd_host (s : State) (n : Nat) (v : Word) : (State.yAdd s n v).host = s.host := rfl
@[simp] theorem State.yAdd_arr (s : State) (n : Nat) (v : Word) : (State.yAdd s n v).arr = s.arr := rfl
@[simp] theorem State.yAdd_disp (s : State) (n : Nat) (v : Word) : (State.yAdd s n v).disp = s.disp := rfl
@[simp] theorem State.yAdd_eng (s : State) (n : Nat) (v : Word) : (State.yAdd s n v).eng = s.eng := rfl
@[simp] theorem State.yAdd_str (s : State) (n : Nat) (v : Word) : (State.yAdd s n v).str = s.str := rfl
@[simp] theorem State.yAdd_bulkQ (s : State) (n : Nat) (v : Word) : (State.yAdd s n v).bulkQ = s.bulkQ := rfl
@[simp] theorem State.yAdd_deepQ (s : State) (n : Nat) (v : Word) : (State.yAdd s n v).deepQ = s.deepQ := rfl
@[simp] theorem State.yAdd_mig (s : State) (n : Nat) (v : Word) : (State.yAdd s n v).mig = s.mig := rfl
@[simp] theorem State.yAdd_awr (s : State) (n : Nat) (v : Word) : (State.yAdd s n v).awr = s.awr := rfl
@[simp] theorem State.yAdd_media (s : State) (n : Nat) (v : Word) : (State.yAdd s n v).media = s.media := rfl
@[simp] theorem State.yAdd_casc (s : State) (n : Nat) (v : Word) : (State.yAdd s n v).casc = s.casc := rfl
@[simp] theorem State.yAdd_net (s : State) (n : Nat) (v : Word) : (State.yAdd s n v).net = s.net := rfl
@[simp] theorem State.yAdd_pcie (s : State) (n : Nat) (v : Word) : (State.yAdd s n v).pcie = s.pcie := rfl
@[simp] theorem State.yAdd_dma (s : State) (n : Nat) (v : Word) : (State.yAdd s n v).dma = s.dma := rfl
@[simp] theorem State.yAdd_pwr (s : State) (n : Nat) (v : Word) : (State.yAdd s n v).pwr = s.pwr := rfl
@[simp] theorem State.yAdd_boot (s : State) (n : Nat) (v : Word) : (State.yAdd s n v).boot = s.boot := rfl
@[simp] theorem State.yAdd_ident (s : State) (n : Nat) (v : Word) : (State.yAdd s n v).ident = s.ident := rfl
@[simp] theorem State.yAdd_tap (s : State) (n : Nat) (v : Word) : (State.yAdd s n v).tap = s.tap := rfl
@[simp] theorem State.yAdd_ent (s : State) (n : Nat) (v : Word) : (State.yAdd s n v).ent = s.ent := rfl
@[simp] theorem State.yAdd_cnt (s : State) (n : Nat) (v : Word) : (State.yAdd s n v).cnt = s.cnt := rfl
@[simp] theorem State.yAdd_cntRem (s : State) (n : Nat) (v : Word) : (State.yAdd s n v).cntRem = s.cntRem := rfl
@[simp] theorem State.yAdd_holdMax (s : State) (n : Nat) (v : Word) : (State.yAdd s n v).holdMax = s.holdMax := rfl
@[simp] theorem State.yAdd_out (s : State) (n : Nat) (v : Word) : (State.yAdd s n v).out = s.out := rfl
@[simp] theorem State.yAdd_freeIx (s : State) (n : Nat) (v : Word) : (State.yAdd s n v).freeIx = s.freeIx := rfl
@[simp] theorem State.yAdd_nextId (s : State) (n : Nat) (v : Word) : (State.yAdd s n v).nextId = s.nextId := rfl

/-! ## State.schedule -/

@[simp] theorem State.schedule_pending (s : State) (k : Nat) (d : Due) : (State.schedule s k d).pending = s.pending := rfl
@[simp] theorem State.schedule_clk (s : State) (k : Nat) (d : Due) : (State.schedule s k d).clk = { s.clk with due := insertDue k d s.clk.due } := rfl
@[simp] theorem State.schedule_seq (s : State) (k : Nat) (d : Due) : (State.schedule s k d).seq = s.seq := rfl
@[simp] theorem State.schedule_sync (s : State) (k : Nat) (d : Due) : (State.schedule s k d).sync = s.sync := rfl
@[simp] theorem State.schedule_mem (s : State) (k : Nat) (d : Due) : (State.schedule s k d).mem = s.mem := rfl
@[simp] theorem State.schedule_host (s : State) (k : Nat) (d : Due) : (State.schedule s k d).host = s.host := rfl
@[simp] theorem State.schedule_arr (s : State) (k : Nat) (d : Due) : (State.schedule s k d).arr = s.arr := rfl
@[simp] theorem State.schedule_disp (s : State) (k : Nat) (d : Due) : (State.schedule s k d).disp = s.disp := rfl
@[simp] theorem State.schedule_eng (s : State) (k : Nat) (d : Due) : (State.schedule s k d).eng = s.eng := rfl
@[simp] theorem State.schedule_str (s : State) (k : Nat) (d : Due) : (State.schedule s k d).str = s.str := rfl
@[simp] theorem State.schedule_bulkQ (s : State) (k : Nat) (d : Due) : (State.schedule s k d).bulkQ = s.bulkQ := rfl
@[simp] theorem State.schedule_deepQ (s : State) (k : Nat) (d : Due) : (State.schedule s k d).deepQ = s.deepQ := rfl
@[simp] theorem State.schedule_mig (s : State) (k : Nat) (d : Due) : (State.schedule s k d).mig = s.mig := rfl
@[simp] theorem State.schedule_awr (s : State) (k : Nat) (d : Due) : (State.schedule s k d).awr = s.awr := rfl
@[simp] theorem State.schedule_media (s : State) (k : Nat) (d : Due) : (State.schedule s k d).media = s.media := rfl
@[simp] theorem State.schedule_casc (s : State) (k : Nat) (d : Due) : (State.schedule s k d).casc = s.casc := rfl
@[simp] theorem State.schedule_net (s : State) (k : Nat) (d : Due) : (State.schedule s k d).net = s.net := rfl
@[simp] theorem State.schedule_pcie (s : State) (k : Nat) (d : Due) : (State.schedule s k d).pcie = s.pcie := rfl
@[simp] theorem State.schedule_dma (s : State) (k : Nat) (d : Due) : (State.schedule s k d).dma = s.dma := rfl
@[simp] theorem State.schedule_pwr (s : State) (k : Nat) (d : Due) : (State.schedule s k d).pwr = s.pwr := rfl
@[simp] theorem State.schedule_boot (s : State) (k : Nat) (d : Due) : (State.schedule s k d).boot = s.boot := rfl
@[simp] theorem State.schedule_ident (s : State) (k : Nat) (d : Due) : (State.schedule s k d).ident = s.ident := rfl
@[simp] theorem State.schedule_tap (s : State) (k : Nat) (d : Due) : (State.schedule s k d).tap = s.tap := rfl
@[simp] theorem State.schedule_ent (s : State) (k : Nat) (d : Due) : (State.schedule s k d).ent = s.ent := rfl
@[simp] theorem State.schedule_cnt (s : State) (k : Nat) (d : Due) : (State.schedule s k d).cnt = s.cnt := rfl
@[simp] theorem State.schedule_cntRem (s : State) (k : Nat) (d : Due) : (State.schedule s k d).cntRem = s.cntRem := rfl
@[simp] theorem State.schedule_holdMax (s : State) (k : Nat) (d : Due) : (State.schedule s k d).holdMax = s.holdMax := rfl
@[simp] theorem State.schedule_out (s : State) (k : Nat) (d : Due) : (State.schedule s k d).out = s.out := rfl
@[simp] theorem State.schedule_freeIx (s : State) (k : Nat) (d : Due) : (State.schedule s k d).freeIx = s.freeIx := rfl
@[simp] theorem State.schedule_nextId (s : State) (k : Nat) (d : Due) : (State.schedule s k d).nextId = s.nextId := rfl

/-! ## State.setStream -/

@[simp] theorem State.setStream_pending (s : State) (n : Nat) (b : StreamBlk) : (State.setStream s n b).pending = s.pending := rfl
@[simp] theorem State.setStream_clk (s : State) (n : Nat) (b : StreamBlk) : (State.setStream s n b).clk = s.clk := rfl
@[simp] theorem State.setStream_seq (s : State) (n : Nat) (b : StreamBlk) : (State.setStream s n b).seq = s.seq := rfl
@[simp] theorem State.setStream_sync (s : State) (n : Nat) (b : StreamBlk) : (State.setStream s n b).sync = s.sync := rfl
@[simp] theorem State.setStream_mem (s : State) (n : Nat) (b : StreamBlk) : (State.setStream s n b).mem = s.mem := rfl
@[simp] theorem State.setStream_host (s : State) (n : Nat) (b : StreamBlk) : (State.setStream s n b).host = s.host := rfl
@[simp] theorem State.setStream_arr (s : State) (n : Nat) (b : StreamBlk) : (State.setStream s n b).arr = s.arr := rfl
@[simp] theorem State.setStream_disp (s : State) (n : Nat) (b : StreamBlk) : (State.setStream s n b).disp = s.disp := rfl
@[simp] theorem State.setStream_eng (s : State) (n : Nat) (b : StreamBlk) : (State.setStream s n b).eng = s.eng := rfl
@[simp] theorem State.setStream_str (s : State) (n : Nat) (b : StreamBlk) : (State.setStream s n b).str = { s.str with blk := tset streamDefault s.str.blk n b } := rfl
@[simp] theorem State.setStream_bulkQ (s : State) (n : Nat) (b : StreamBlk) : (State.setStream s n b).bulkQ = s.bulkQ := rfl
@[simp] theorem State.setStream_deepQ (s : State) (n : Nat) (b : StreamBlk) : (State.setStream s n b).deepQ = s.deepQ := rfl
@[simp] theorem State.setStream_mig (s : State) (n : Nat) (b : StreamBlk) : (State.setStream s n b).mig = s.mig := rfl
@[simp] theorem State.setStream_awr (s : State) (n : Nat) (b : StreamBlk) : (State.setStream s n b).awr = s.awr := rfl
@[simp] theorem State.setStream_media (s : State) (n : Nat) (b : StreamBlk) : (State.setStream s n b).media = s.media := rfl
@[simp] theorem State.setStream_casc (s : State) (n : Nat) (b : StreamBlk) : (State.setStream s n b).casc = s.casc := rfl
@[simp] theorem State.setStream_net (s : State) (n : Nat) (b : StreamBlk) : (State.setStream s n b).net = s.net := rfl
@[simp] theorem State.setStream_pcie (s : State) (n : Nat) (b : StreamBlk) : (State.setStream s n b).pcie = s.pcie := rfl
@[simp] theorem State.setStream_dma (s : State) (n : Nat) (b : StreamBlk) : (State.setStream s n b).dma = s.dma := rfl
@[simp] theorem State.setStream_pwr (s : State) (n : Nat) (b : StreamBlk) : (State.setStream s n b).pwr = s.pwr := rfl
@[simp] theorem State.setStream_boot (s : State) (n : Nat) (b : StreamBlk) : (State.setStream s n b).boot = s.boot := rfl
@[simp] theorem State.setStream_ident (s : State) (n : Nat) (b : StreamBlk) : (State.setStream s n b).ident = s.ident := rfl
@[simp] theorem State.setStream_tap (s : State) (n : Nat) (b : StreamBlk) : (State.setStream s n b).tap = s.tap := rfl
@[simp] theorem State.setStream_ent (s : State) (n : Nat) (b : StreamBlk) : (State.setStream s n b).ent = s.ent := rfl
@[simp] theorem State.setStream_cnt (s : State) (n : Nat) (b : StreamBlk) : (State.setStream s n b).cnt = s.cnt := rfl
@[simp] theorem State.setStream_cntRem (s : State) (n : Nat) (b : StreamBlk) : (State.setStream s n b).cntRem = s.cntRem := rfl
@[simp] theorem State.setStream_holdMax (s : State) (n : Nat) (b : StreamBlk) : (State.setStream s n b).holdMax = s.holdMax := rfl
@[simp] theorem State.setStream_out (s : State) (n : Nat) (b : StreamBlk) : (State.setStream s n b).out = s.out := rfl
@[simp] theorem State.setStream_freeIx (s : State) (n : Nat) (b : StreamBlk) : (State.setStream s n b).freeIx = s.freeIx := rfl
@[simp] theorem State.setStream_nextId (s : State) (n : Nat) (b : StreamBlk) : (State.setStream s n b).nextId = s.nextId := rfl

/-! ## State.addClass -/

@[simp] theorem State.addClass_pending (s : State) (k : Nat) : (State.addClass s k).pending = s.pending := by
  unfold State.addClass; split <;> rfl
@[simp] theorem State.addClass_clk (s : State) (k : Nat) : (State.addClass s k).clk = s.clk := by
  unfold State.addClass; split <;> rfl
@[simp] theorem State.addClass_seq (s : State) (k : Nat) : (State.addClass s k).seq = s.seq := by
  unfold State.addClass; split <;> rfl
@[simp] theorem State.addClass_sync (s : State) (k : Nat) : (State.addClass s k).sync = s.sync := by
  unfold State.addClass; split <;> rfl
@[simp] theorem State.addClass_mem (s : State) (k : Nat) : (State.addClass s k).mem = s.mem := by
  unfold State.addClass; split <;> rfl
@[simp] theorem State.addClass_host (s : State) (k : Nat) : (State.addClass s k).host = s.host := by
  unfold State.addClass; split <;> rfl
@[simp] theorem State.addClass_arr (s : State) (k : Nat) : (State.addClass s k).arr = s.arr := by
  unfold State.addClass; split <;> rfl
@[simp] theorem State.addClass_disp (s : State) (k : Nat) : (State.addClass s k).disp = s.disp := by
  unfold State.addClass; split <;> rfl
@[simp] theorem State.addClass_eng (s : State) (k : Nat) : (State.addClass s k).eng = s.eng := by
  unfold State.addClass; split <;> rfl
@[simp] theorem State.addClass_str (s : State) (k : Nat) : (State.addClass s k).str = s.str := by
  unfold State.addClass; split <;> rfl
@[simp] theorem State.addClass_bulkQ (s : State) (k : Nat) : (State.addClass s k).bulkQ = s.bulkQ := by
  unfold State.addClass; split <;> rfl
@[simp] theorem State.addClass_deepQ (s : State) (k : Nat) : (State.addClass s k).deepQ = s.deepQ := by
  unfold State.addClass; split <;> rfl
@[simp] theorem State.addClass_mig (s : State) (k : Nat) : (State.addClass s k).mig = s.mig := by
  unfold State.addClass; split <;> rfl
@[simp] theorem State.addClass_awr (s : State) (k : Nat) : (State.addClass s k).awr = s.awr := by
  unfold State.addClass; split <;> rfl
@[simp] theorem State.addClass_media (s : State) (k : Nat) : (State.addClass s k).media = s.media := by
  unfold State.addClass; split <;> rfl
@[simp] theorem State.addClass_casc (s : State) (k : Nat) : (State.addClass s k).casc = s.casc := by
  unfold State.addClass; split <;> rfl
@[simp] theorem State.addClass_net (s : State) (k : Nat) : (State.addClass s k).net = s.net := by
  unfold State.addClass; split <;> rfl
@[simp] theorem State.addClass_pcie (s : State) (k : Nat) : (State.addClass s k).pcie = s.pcie := by
  unfold State.addClass; split <;> rfl
@[simp] theorem State.addClass_dma (s : State) (k : Nat) : (State.addClass s k).dma = s.dma := by
  unfold State.addClass; split <;> rfl
@[simp] theorem State.addClass_pwr (s : State) (k : Nat) : (State.addClass s k).pwr = s.pwr := by
  unfold State.addClass; split <;> rfl
@[simp] theorem State.addClass_boot (s : State) (k : Nat) : (State.addClass s k).boot = s.boot := by
  unfold State.addClass; split <;> rfl
@[simp] theorem State.addClass_ident (s : State) (k : Nat) : (State.addClass s k).ident = s.ident := by
  unfold State.addClass; split <;> rfl
@[simp] theorem State.addClass_tap (s : State) (k : Nat) : (State.addClass s k).tap = s.tap := by
  unfold State.addClass; split <;> rfl
@[simp] theorem State.addClass_ent (s : State) (k : Nat) : (State.addClass s k).ent = s.ent := by
  unfold State.addClass; split <;> rfl
@[simp] theorem State.addClass_cntRem (s : State) (k : Nat) : (State.addClass s k).cntRem = s.cntRem := by
  unfold State.addClass; split <;> rfl
@[simp] theorem State.addClass_holdMax (s : State) (k : Nat) : (State.addClass s k).holdMax = s.holdMax := by
  unfold State.addClass; split <;> rfl
@[simp] theorem State.addClass_out (s : State) (k : Nat) : (State.addClass s k).out = s.out := by
  unfold State.addClass; split <;> rfl
@[simp] theorem State.addClass_freeIx (s : State) (k : Nat) : (State.addClass s k).freeIx = s.freeIx := by
  unfold State.addClass; split <;> rfl
@[simp] theorem State.addClass_nextId (s : State) (k : Nat) : (State.addClass s k).nextId = s.nextId := by
  unfold State.addClass; split <;> rfl

/-! ## State.count -/

@[simp] theorem State.count_pending (s : State) (i j k : Nat) : (State.count s i j k).pending = s.pending := by
  simp [State.count]
@[simp] theorem State.count_clk (s : State) (i j k : Nat) : (State.count s i j k).clk = s.clk := by
  simp [State.count]
@[simp] theorem State.count_seq (s : State) (i j k : Nat) : (State.count s i j k).seq = s.seq := by
  simp [State.count]
@[simp] theorem State.count_sync (s : State) (i j k : Nat) : (State.count s i j k).sync = s.sync := by
  simp [State.count]
@[simp] theorem State.count_mem (s : State) (i j k : Nat) : (State.count s i j k).mem = s.mem := by
  simp [State.count]
@[simp] theorem State.count_host (s : State) (i j k : Nat) : (State.count s i j k).host = s.host := by
  simp [State.count]
@[simp] theorem State.count_arr (s : State) (i j k : Nat) : (State.count s i j k).arr = s.arr := by
  simp [State.count]
@[simp] theorem State.count_disp (s : State) (i j k : Nat) : (State.count s i j k).disp = s.disp := by
  simp [State.count]
@[simp] theorem State.count_eng (s : State) (i j k : Nat) : (State.count s i j k).eng = s.eng := by
  simp [State.count]
@[simp] theorem State.count_str (s : State) (i j k : Nat) : (State.count s i j k).str = s.str := by
  simp [State.count]
@[simp] theorem State.count_bulkQ (s : State) (i j k : Nat) : (State.count s i j k).bulkQ = s.bulkQ := by
  simp [State.count]
@[simp] theorem State.count_deepQ (s : State) (i j k : Nat) : (State.count s i j k).deepQ = s.deepQ := by
  simp [State.count]
@[simp] theorem State.count_mig (s : State) (i j k : Nat) : (State.count s i j k).mig = s.mig := by
  simp [State.count]
@[simp] theorem State.count_awr (s : State) (i j k : Nat) : (State.count s i j k).awr = s.awr := by
  simp [State.count]
@[simp] theorem State.count_media (s : State) (i j k : Nat) : (State.count s i j k).media = s.media := by
  simp [State.count]
@[simp] theorem State.count_casc (s : State) (i j k : Nat) : (State.count s i j k).casc = s.casc := by
  simp [State.count]
@[simp] theorem State.count_net (s : State) (i j k : Nat) : (State.count s i j k).net = s.net := by
  simp [State.count]
@[simp] theorem State.count_pcie (s : State) (i j k : Nat) : (State.count s i j k).pcie = s.pcie := by
  simp [State.count]
@[simp] theorem State.count_dma (s : State) (i j k : Nat) : (State.count s i j k).dma = s.dma := by
  simp [State.count]
@[simp] theorem State.count_pwr (s : State) (i j k : Nat) : (State.count s i j k).pwr = s.pwr := by
  simp [State.count]
@[simp] theorem State.count_boot (s : State) (i j k : Nat) : (State.count s i j k).boot = s.boot := by
  simp [State.count]
@[simp] theorem State.count_ident (s : State) (i j k : Nat) : (State.count s i j k).ident = s.ident := by
  simp [State.count]
@[simp] theorem State.count_tap (s : State) (i j k : Nat) : (State.count s i j k).tap = s.tap := by
  simp [State.count]
@[simp] theorem State.count_ent (s : State) (i j k : Nat) : (State.count s i j k).ent = s.ent := by
  simp [State.count]
@[simp] theorem State.count_cntRem (s : State) (i j k : Nat) : (State.count s i j k).cntRem = s.cntRem := by
  simp [State.count]
@[simp] theorem State.count_holdMax (s : State) (i j k : Nat) : (State.count s i j k).holdMax = s.holdMax := by
  simp [State.count]
@[simp] theorem State.count_out (s : State) (i j k : Nat) : (State.count s i j k).out = s.out := by
  simp [State.count]
@[simp] theorem State.count_freeIx (s : State) (i j k : Nat) : (State.count s i j k).freeIx = s.freeIx := by
  simp [State.count]
@[simp] theorem State.count_nextId (s : State) (i j k : Nat) : (State.count s i j k).nextId = s.nextId := by
  simp [State.count]

/-! ## State.countElems -/

@[simp] theorem State.countElems_pending (s : State) (i j n k : Nat) : (State.countElems s i j n k).pending = s.pending := by
  unfold State.countElems; split <;> simp
@[simp] theorem State.countElems_clk (s : State) (i j n k : Nat) : (State.countElems s i j n k).clk = s.clk := by
  unfold State.countElems; split <;> simp
@[simp] theorem State.countElems_seq (s : State) (i j n k : Nat) : (State.countElems s i j n k).seq = s.seq := by
  unfold State.countElems; split <;> simp
@[simp] theorem State.countElems_sync (s : State) (i j n k : Nat) : (State.countElems s i j n k).sync = s.sync := by
  unfold State.countElems; split <;> simp
@[simp] theorem State.countElems_mem (s : State) (i j n k : Nat) : (State.countElems s i j n k).mem = s.mem := by
  unfold State.countElems; split <;> simp
@[simp] theorem State.countElems_host (s : State) (i j n k : Nat) : (State.countElems s i j n k).host = s.host := by
  unfold State.countElems; split <;> simp
@[simp] theorem State.countElems_arr (s : State) (i j n k : Nat) : (State.countElems s i j n k).arr = s.arr := by
  unfold State.countElems; split <;> simp
@[simp] theorem State.countElems_disp (s : State) (i j n k : Nat) : (State.countElems s i j n k).disp = s.disp := by
  unfold State.countElems; split <;> simp
@[simp] theorem State.countElems_eng (s : State) (i j n k : Nat) : (State.countElems s i j n k).eng = s.eng := by
  unfold State.countElems; split <;> simp
@[simp] theorem State.countElems_str (s : State) (i j n k : Nat) : (State.countElems s i j n k).str = s.str := by
  unfold State.countElems; split <;> simp
@[simp] theorem State.countElems_bulkQ (s : State) (i j n k : Nat) : (State.countElems s i j n k).bulkQ = s.bulkQ := by
  unfold State.countElems; split <;> simp
@[simp] theorem State.countElems_deepQ (s : State) (i j n k : Nat) : (State.countElems s i j n k).deepQ = s.deepQ := by
  unfold State.countElems; split <;> simp
@[simp] theorem State.countElems_mig (s : State) (i j n k : Nat) : (State.countElems s i j n k).mig = s.mig := by
  unfold State.countElems; split <;> simp
@[simp] theorem State.countElems_awr (s : State) (i j n k : Nat) : (State.countElems s i j n k).awr = s.awr := by
  unfold State.countElems; split <;> simp
@[simp] theorem State.countElems_media (s : State) (i j n k : Nat) : (State.countElems s i j n k).media = s.media := by
  unfold State.countElems; split <;> simp
@[simp] theorem State.countElems_casc (s : State) (i j n k : Nat) : (State.countElems s i j n k).casc = s.casc := by
  unfold State.countElems; split <;> simp
@[simp] theorem State.countElems_net (s : State) (i j n k : Nat) : (State.countElems s i j n k).net = s.net := by
  unfold State.countElems; split <;> simp
@[simp] theorem State.countElems_pcie (s : State) (i j n k : Nat) : (State.countElems s i j n k).pcie = s.pcie := by
  unfold State.countElems; split <;> simp
@[simp] theorem State.countElems_dma (s : State) (i j n k : Nat) : (State.countElems s i j n k).dma = s.dma := by
  unfold State.countElems; split <;> simp
@[simp] theorem State.countElems_pwr (s : State) (i j n k : Nat) : (State.countElems s i j n k).pwr = s.pwr := by
  unfold State.countElems; split <;> simp
@[simp] theorem State.countElems_boot (s : State) (i j n k : Nat) : (State.countElems s i j n k).boot = s.boot := by
  unfold State.countElems; split <;> simp
@[simp] theorem State.countElems_ident (s : State) (i j n k : Nat) : (State.countElems s i j n k).ident = s.ident := by
  unfold State.countElems; split <;> simp
@[simp] theorem State.countElems_tap (s : State) (i j n k : Nat) : (State.countElems s i j n k).tap = s.tap := by
  unfold State.countElems; split <;> simp
@[simp] theorem State.countElems_ent (s : State) (i j n k : Nat) : (State.countElems s i j n k).ent = s.ent := by
  unfold State.countElems; split <;> simp
@[simp] theorem State.countElems_cntRem (s : State) (i j n k : Nat) : (State.countElems s i j n k).cntRem = s.cntRem := by
  unfold State.countElems; split <;> simp
@[simp] theorem State.countElems_holdMax (s : State) (i j n k : Nat) : (State.countElems s i j n k).holdMax = s.holdMax := by
  unfold State.countElems; split <;> simp
@[simp] theorem State.countElems_out (s : State) (i j n k : Nat) : (State.countElems s i j n k).out = s.out := by
  unfold State.countElems; split <;> simp
@[simp] theorem State.countElems_freeIx (s : State) (i j n k : Nat) : (State.countElems s i j n k).freeIx = s.freeIx := by
  unfold State.countElems; split <;> simp
@[simp] theorem State.countElems_nextId (s : State) (i j n k : Nat) : (State.countElems s i j n k).nextId = s.nextId := by
  unfold State.countElems; split <;> simp

/-! ## State.countCycles -/

@[simp] theorem State.countCycles_pending (s : State) (i j n : Nat) : (State.countCycles s i j n).pending = s.pending := by
  rfl
@[simp] theorem State.countCycles_clk (s : State) (i j n : Nat) : (State.countCycles s i j n).clk = s.clk := by
  rfl
@[simp] theorem State.countCycles_seq (s : State) (i j n : Nat) : (State.countCycles s i j n).seq = s.seq := by
  rfl
@[simp] theorem State.countCycles_sync (s : State) (i j n : Nat) : (State.countCycles s i j n).sync = s.sync := by
  rfl
@[simp] theorem State.countCycles_mem (s : State) (i j n : Nat) : (State.countCycles s i j n).mem = s.mem := by
  rfl
@[simp] theorem State.countCycles_host (s : State) (i j n : Nat) : (State.countCycles s i j n).host = s.host := by
  rfl
@[simp] theorem State.countCycles_arr (s : State) (i j n : Nat) : (State.countCycles s i j n).arr = s.arr := by
  rfl
@[simp] theorem State.countCycles_disp (s : State) (i j n : Nat) : (State.countCycles s i j n).disp = s.disp := by
  rfl
@[simp] theorem State.countCycles_eng (s : State) (i j n : Nat) : (State.countCycles s i j n).eng = s.eng := by
  rfl
@[simp] theorem State.countCycles_str (s : State) (i j n : Nat) : (State.countCycles s i j n).str = s.str := by
  rfl
@[simp] theorem State.countCycles_bulkQ (s : State) (i j n : Nat) : (State.countCycles s i j n).bulkQ = s.bulkQ := by
  rfl
@[simp] theorem State.countCycles_deepQ (s : State) (i j n : Nat) : (State.countCycles s i j n).deepQ = s.deepQ := by
  rfl
@[simp] theorem State.countCycles_mig (s : State) (i j n : Nat) : (State.countCycles s i j n).mig = s.mig := by
  rfl
@[simp] theorem State.countCycles_awr (s : State) (i j n : Nat) : (State.countCycles s i j n).awr = s.awr := by
  rfl
@[simp] theorem State.countCycles_media (s : State) (i j n : Nat) : (State.countCycles s i j n).media = s.media := by
  rfl
@[simp] theorem State.countCycles_casc (s : State) (i j n : Nat) : (State.countCycles s i j n).casc = s.casc := by
  rfl
@[simp] theorem State.countCycles_net (s : State) (i j n : Nat) : (State.countCycles s i j n).net = s.net := by
  rfl
@[simp] theorem State.countCycles_pcie (s : State) (i j n : Nat) : (State.countCycles s i j n).pcie = s.pcie := by
  rfl
@[simp] theorem State.countCycles_dma (s : State) (i j n : Nat) : (State.countCycles s i j n).dma = s.dma := by
  rfl
@[simp] theorem State.countCycles_pwr (s : State) (i j n : Nat) : (State.countCycles s i j n).pwr = s.pwr := by
  rfl
@[simp] theorem State.countCycles_boot (s : State) (i j n : Nat) : (State.countCycles s i j n).boot = s.boot := by
  rfl
@[simp] theorem State.countCycles_ident (s : State) (i j n : Nat) : (State.countCycles s i j n).ident = s.ident := by
  rfl
@[simp] theorem State.countCycles_tap (s : State) (i j n : Nat) : (State.countCycles s i j n).tap = s.tap := by
  rfl
@[simp] theorem State.countCycles_ent (s : State) (i j n : Nat) : (State.countCycles s i j n).ent = s.ent := by
  rfl
@[simp] theorem State.countCycles_holdMax (s : State) (i j n : Nat) : (State.countCycles s i j n).holdMax = s.holdMax := by
  rfl
@[simp] theorem State.countCycles_out (s : State) (i j n : Nat) : (State.countCycles s i j n).out = s.out := by
  rfl
@[simp] theorem State.countCycles_freeIx (s : State) (i j n : Nat) : (State.countCycles s i j n).freeIx = s.freeIx := by
  rfl
@[simp] theorem State.countCycles_nextId (s : State) (i j n : Nat) : (State.countCycles s i j n).nextId = s.nextId := by
  rfl

/-! ## State.countCause -/

@[simp] theorem State.countCause_pending (s : State) (c : BitVec 8) (d : BitVec 16) : (State.countCause s c d).pending = s.pending := by
  unfold State.countCause; split <;> (try rfl); dsimp only; split <;> (try simp); split <;> (try simp); split <;> (try simp); split <;> simp
@[simp] theorem State.countCause_clk (s : State) (c : BitVec 8) (d : BitVec 16) : (State.countCause s c d).clk = s.clk := by
  unfold State.countCause; split <;> (try rfl); dsimp only; split <;> (try simp); split <;> (try simp); split <;> (try simp); split <;> simp
@[simp] theorem State.countCause_seq (s : State) (c : BitVec 8) (d : BitVec 16) : (State.countCause s c d).seq = s.seq := by
  unfold State.countCause; split <;> (try rfl); dsimp only; split <;> (try simp); split <;> (try simp); split <;> (try simp); split <;> simp
@[simp] theorem State.countCause_sync (s : State) (c : BitVec 8) (d : BitVec 16) : (State.countCause s c d).sync = s.sync := by
  unfold State.countCause; split <;> (try rfl); dsimp only; split <;> (try simp); split <;> (try simp); split <;> (try simp); split <;> simp
@[simp] theorem State.countCause_mem (s : State) (c : BitVec 8) (d : BitVec 16) : (State.countCause s c d).mem = s.mem := by
  unfold State.countCause; split <;> (try rfl); dsimp only; split <;> (try simp); split <;> (try simp); split <;> (try simp); split <;> simp
@[simp] theorem State.countCause_host (s : State) (c : BitVec 8) (d : BitVec 16) : (State.countCause s c d).host = s.host := by
  unfold State.countCause; split <;> (try rfl); dsimp only; split <;> (try simp); split <;> (try simp); split <;> (try simp); split <;> simp
@[simp] theorem State.countCause_arr (s : State) (c : BitVec 8) (d : BitVec 16) : (State.countCause s c d).arr = s.arr := by
  unfold State.countCause; split <;> (try rfl); dsimp only; split <;> (try simp); split <;> (try simp); split <;> (try simp); split <;> simp
@[simp] theorem State.countCause_disp (s : State) (c : BitVec 8) (d : BitVec 16) : (State.countCause s c d).disp = s.disp := by
  unfold State.countCause; split <;> (try rfl); dsimp only; split <;> (try simp); split <;> (try simp); split <;> (try simp); split <;> simp
@[simp] theorem State.countCause_eng (s : State) (c : BitVec 8) (d : BitVec 16) : (State.countCause s c d).eng = s.eng := by
  unfold State.countCause; split <;> (try rfl); dsimp only; split <;> (try simp); split <;> (try simp); split <;> (try simp); split <;> simp
@[simp] theorem State.countCause_str (s : State) (c : BitVec 8) (d : BitVec 16) : (State.countCause s c d).str = s.str := by
  unfold State.countCause; split <;> (try rfl); dsimp only; split <;> (try simp); split <;> (try simp); split <;> (try simp); split <;> simp
@[simp] theorem State.countCause_bulkQ (s : State) (c : BitVec 8) (d : BitVec 16) : (State.countCause s c d).bulkQ = s.bulkQ := by
  unfold State.countCause; split <;> (try rfl); dsimp only; split <;> (try simp); split <;> (try simp); split <;> (try simp); split <;> simp
@[simp] theorem State.countCause_deepQ (s : State) (c : BitVec 8) (d : BitVec 16) : (State.countCause s c d).deepQ = s.deepQ := by
  unfold State.countCause; split <;> (try rfl); dsimp only; split <;> (try simp); split <;> (try simp); split <;> (try simp); split <;> simp
@[simp] theorem State.countCause_mig (s : State) (c : BitVec 8) (d : BitVec 16) : (State.countCause s c d).mig = s.mig := by
  unfold State.countCause; split <;> (try rfl); dsimp only; split <;> (try simp); split <;> (try simp); split <;> (try simp); split <;> simp
@[simp] theorem State.countCause_awr (s : State) (c : BitVec 8) (d : BitVec 16) : (State.countCause s c d).awr = s.awr := by
  unfold State.countCause; split <;> (try rfl); dsimp only; split <;> (try simp); split <;> (try simp); split <;> (try simp); split <;> simp
@[simp] theorem State.countCause_media (s : State) (c : BitVec 8) (d : BitVec 16) : (State.countCause s c d).media = s.media := by
  unfold State.countCause; split <;> (try rfl); dsimp only; split <;> (try simp); split <;> (try simp); split <;> (try simp); split <;> simp
@[simp] theorem State.countCause_casc (s : State) (c : BitVec 8) (d : BitVec 16) : (State.countCause s c d).casc = s.casc := by
  unfold State.countCause; split <;> (try rfl); dsimp only; split <;> (try simp); split <;> (try simp); split <;> (try simp); split <;> simp
@[simp] theorem State.countCause_net (s : State) (c : BitVec 8) (d : BitVec 16) : (State.countCause s c d).net = s.net := by
  unfold State.countCause; split <;> (try rfl); dsimp only; split <;> (try simp); split <;> (try simp); split <;> (try simp); split <;> simp
@[simp] theorem State.countCause_pcie (s : State) (c : BitVec 8) (d : BitVec 16) : (State.countCause s c d).pcie = s.pcie := by
  unfold State.countCause; split <;> (try rfl); dsimp only; split <;> (try simp); split <;> (try simp); split <;> (try simp); split <;> simp
@[simp] theorem State.countCause_dma (s : State) (c : BitVec 8) (d : BitVec 16) : (State.countCause s c d).dma = s.dma := by
  unfold State.countCause; split <;> (try rfl); dsimp only; split <;> (try simp); split <;> (try simp); split <;> (try simp); split <;> simp
@[simp] theorem State.countCause_pwr (s : State) (c : BitVec 8) (d : BitVec 16) : (State.countCause s c d).pwr = s.pwr := by
  unfold State.countCause; split <;> (try rfl); dsimp only; split <;> (try simp); split <;> (try simp); split <;> (try simp); split <;> simp
@[simp] theorem State.countCause_boot (s : State) (c : BitVec 8) (d : BitVec 16) : (State.countCause s c d).boot = s.boot := by
  unfold State.countCause; split <;> (try rfl); dsimp only; split <;> (try simp); split <;> (try simp); split <;> (try simp); split <;> simp
@[simp] theorem State.countCause_ident (s : State) (c : BitVec 8) (d : BitVec 16) : (State.countCause s c d).ident = s.ident := by
  unfold State.countCause; split <;> (try rfl); dsimp only; split <;> (try simp); split <;> (try simp); split <;> (try simp); split <;> simp
@[simp] theorem State.countCause_tap (s : State) (c : BitVec 8) (d : BitVec 16) : (State.countCause s c d).tap = s.tap := by
  unfold State.countCause; split <;> (try rfl); dsimp only; split <;> (try simp); split <;> (try simp); split <;> (try simp); split <;> simp
@[simp] theorem State.countCause_ent (s : State) (c : BitVec 8) (d : BitVec 16) : (State.countCause s c d).ent = s.ent := by
  unfold State.countCause; split <;> (try rfl); dsimp only; split <;> (try simp); split <;> (try simp); split <;> (try simp); split <;> simp
@[simp] theorem State.countCause_cntRem (s : State) (c : BitVec 8) (d : BitVec 16) : (State.countCause s c d).cntRem = s.cntRem := by
  unfold State.countCause; split <;> (try rfl); dsimp only; split <;> (try simp); split <;> (try simp); split <;> (try simp); split <;> simp
@[simp] theorem State.countCause_holdMax (s : State) (c : BitVec 8) (d : BitVec 16) : (State.countCause s c d).holdMax = s.holdMax := by
  unfold State.countCause; split <;> (try rfl); dsimp only; split <;> (try simp); split <;> (try simp); split <;> (try simp); split <;> simp
@[simp] theorem State.countCause_out (s : State) (c : BitVec 8) (d : BitVec 16) : (State.countCause s c d).out = s.out := by
  unfold State.countCause; split <;> (try rfl); dsimp only; split <;> (try simp); split <;> (try simp); split <;> (try simp); split <;> simp
@[simp] theorem State.countCause_freeIx (s : State) (c : BitVec 8) (d : BitVec 16) : (State.countCause s c d).freeIx = s.freeIx := by
  unfold State.countCause; split <;> (try rfl); dsimp only; split <;> (try simp); split <;> (try simp); split <;> (try simp); split <;> simp
@[simp] theorem State.countCause_nextId (s : State) (c : BitVec 8) (d : BitVec 16) : (State.countCause s c d).nextId = s.nextId := by
  unfold State.countCause; split <;> (try rfl); dsimp only; split <;> (try simp); split <;> (try simp); split <;> (try simp); split <;> simp

/-! ## State.xSet -/

@[simp] theorem State.xSet_pending (s : State) (r : BitVec 5) (v : DWord) : (State.xSet s r v).pending = s.pending := by
  unfold State.xSet; split <;> rfl
@[simp] theorem State.xSet_clk (s : State) (r : BitVec 5) (v : DWord) : (State.xSet s r v).clk = s.clk := by
  unfold State.xSet; split <;> rfl
@[simp] theorem State.xSet_sync (s : State) (r : BitVec 5) (v : DWord) : (State.xSet s r v).sync = s.sync := by
  unfold State.xSet; split <;> rfl
@[simp] theorem State.xSet_mem (s : State) (r : BitVec 5) (v : DWord) : (State.xSet s r v).mem = s.mem := by
  unfold State.xSet; split <;> rfl
@[simp] theorem State.xSet_host (s : State) (r : BitVec 5) (v : DWord) : (State.xSet s r v).host = s.host := by
  unfold State.xSet; split <;> rfl
@[simp] theorem State.xSet_arr (s : State) (r : BitVec 5) (v : DWord) : (State.xSet s r v).arr = s.arr := by
  unfold State.xSet; split <;> rfl
@[simp] theorem State.xSet_disp (s : State) (r : BitVec 5) (v : DWord) : (State.xSet s r v).disp = s.disp := by
  unfold State.xSet; split <;> rfl
@[simp] theorem State.xSet_eng (s : State) (r : BitVec 5) (v : DWord) : (State.xSet s r v).eng = s.eng := by
  unfold State.xSet; split <;> rfl
@[simp] theorem State.xSet_str (s : State) (r : BitVec 5) (v : DWord) : (State.xSet s r v).str = s.str := by
  unfold State.xSet; split <;> rfl
@[simp] theorem State.xSet_bulkQ (s : State) (r : BitVec 5) (v : DWord) : (State.xSet s r v).bulkQ = s.bulkQ := by
  unfold State.xSet; split <;> rfl
@[simp] theorem State.xSet_deepQ (s : State) (r : BitVec 5) (v : DWord) : (State.xSet s r v).deepQ = s.deepQ := by
  unfold State.xSet; split <;> rfl
@[simp] theorem State.xSet_mig (s : State) (r : BitVec 5) (v : DWord) : (State.xSet s r v).mig = s.mig := by
  unfold State.xSet; split <;> rfl
@[simp] theorem State.xSet_awr (s : State) (r : BitVec 5) (v : DWord) : (State.xSet s r v).awr = s.awr := by
  unfold State.xSet; split <;> rfl
@[simp] theorem State.xSet_media (s : State) (r : BitVec 5) (v : DWord) : (State.xSet s r v).media = s.media := by
  unfold State.xSet; split <;> rfl
@[simp] theorem State.xSet_casc (s : State) (r : BitVec 5) (v : DWord) : (State.xSet s r v).casc = s.casc := by
  unfold State.xSet; split <;> rfl
@[simp] theorem State.xSet_net (s : State) (r : BitVec 5) (v : DWord) : (State.xSet s r v).net = s.net := by
  unfold State.xSet; split <;> rfl
@[simp] theorem State.xSet_pcie (s : State) (r : BitVec 5) (v : DWord) : (State.xSet s r v).pcie = s.pcie := by
  unfold State.xSet; split <;> rfl
@[simp] theorem State.xSet_dma (s : State) (r : BitVec 5) (v : DWord) : (State.xSet s r v).dma = s.dma := by
  unfold State.xSet; split <;> rfl
@[simp] theorem State.xSet_pwr (s : State) (r : BitVec 5) (v : DWord) : (State.xSet s r v).pwr = s.pwr := by
  unfold State.xSet; split <;> rfl
@[simp] theorem State.xSet_boot (s : State) (r : BitVec 5) (v : DWord) : (State.xSet s r v).boot = s.boot := by
  unfold State.xSet; split <;> rfl
@[simp] theorem State.xSet_ident (s : State) (r : BitVec 5) (v : DWord) : (State.xSet s r v).ident = s.ident := by
  unfold State.xSet; split <;> rfl
@[simp] theorem State.xSet_tap (s : State) (r : BitVec 5) (v : DWord) : (State.xSet s r v).tap = s.tap := by
  unfold State.xSet; split <;> rfl
@[simp] theorem State.xSet_ent (s : State) (r : BitVec 5) (v : DWord) : (State.xSet s r v).ent = s.ent := by
  unfold State.xSet; split <;> rfl
@[simp] theorem State.xSet_cnt (s : State) (r : BitVec 5) (v : DWord) : (State.xSet s r v).cnt = s.cnt := by
  unfold State.xSet; split <;> rfl
@[simp] theorem State.xSet_cntRem (s : State) (r : BitVec 5) (v : DWord) : (State.xSet s r v).cntRem = s.cntRem := by
  unfold State.xSet; split <;> rfl
@[simp] theorem State.xSet_holdMax (s : State) (r : BitVec 5) (v : DWord) : (State.xSet s r v).holdMax = s.holdMax := by
  unfold State.xSet; split <;> rfl
@[simp] theorem State.xSet_out (s : State) (r : BitVec 5) (v : DWord) : (State.xSet s r v).out = s.out := by
  unfold State.xSet; split <;> rfl
@[simp] theorem State.xSet_freeIx (s : State) (r : BitVec 5) (v : DWord) : (State.xSet s r v).freeIx = s.freeIx := by
  unfold State.xSet; split <;> rfl
@[simp] theorem State.xSet_nextId (s : State) (r : BitVec 5) (v : DWord) : (State.xSet s r v).nextId = s.nextId := by
  unfold State.xSet; split <;> rfl

/-! ## State.failJob -/

@[simp] theorem State.failJob_pending (s : State) (j : Option JobRef) (c : BitVec 8) : (State.failJob s j c).pending = s.pending := by
  unfold State.failJob; split <;> rfl
@[simp] theorem State.failJob_clk (s : State) (j : Option JobRef) (c : BitVec 8) : (State.failJob s j c).clk = s.clk := by
  unfold State.failJob; split <;> rfl
@[simp] theorem State.failJob_sync (s : State) (j : Option JobRef) (c : BitVec 8) : (State.failJob s j c).sync = s.sync := by
  unfold State.failJob; split <;> rfl
@[simp] theorem State.failJob_mem (s : State) (j : Option JobRef) (c : BitVec 8) : (State.failJob s j c).mem = s.mem := by
  unfold State.failJob; split <;> rfl
@[simp] theorem State.failJob_host (s : State) (j : Option JobRef) (c : BitVec 8) : (State.failJob s j c).host = s.host := by
  unfold State.failJob; split <;> rfl
@[simp] theorem State.failJob_arr (s : State) (j : Option JobRef) (c : BitVec 8) : (State.failJob s j c).arr = s.arr := by
  unfold State.failJob; split <;> rfl
@[simp] theorem State.failJob_disp (s : State) (j : Option JobRef) (c : BitVec 8) : (State.failJob s j c).disp = s.disp := by
  unfold State.failJob; split <;> rfl
@[simp] theorem State.failJob_eng (s : State) (j : Option JobRef) (c : BitVec 8) : (State.failJob s j c).eng = s.eng := by
  unfold State.failJob; split <;> rfl
@[simp] theorem State.failJob_bulkQ (s : State) (j : Option JobRef) (c : BitVec 8) : (State.failJob s j c).bulkQ = s.bulkQ := by
  unfold State.failJob; split <;> rfl
@[simp] theorem State.failJob_deepQ (s : State) (j : Option JobRef) (c : BitVec 8) : (State.failJob s j c).deepQ = s.deepQ := by
  unfold State.failJob; split <;> rfl
@[simp] theorem State.failJob_mig (s : State) (j : Option JobRef) (c : BitVec 8) : (State.failJob s j c).mig = s.mig := by
  unfold State.failJob; split <;> rfl
@[simp] theorem State.failJob_awr (s : State) (j : Option JobRef) (c : BitVec 8) : (State.failJob s j c).awr = s.awr := by
  unfold State.failJob; split <;> rfl
@[simp] theorem State.failJob_media (s : State) (j : Option JobRef) (c : BitVec 8) : (State.failJob s j c).media = s.media := by
  unfold State.failJob; split <;> rfl
@[simp] theorem State.failJob_casc (s : State) (j : Option JobRef) (c : BitVec 8) : (State.failJob s j c).casc = s.casc := by
  unfold State.failJob; split <;> rfl
@[simp] theorem State.failJob_net (s : State) (j : Option JobRef) (c : BitVec 8) : (State.failJob s j c).net = s.net := by
  unfold State.failJob; split <;> rfl
@[simp] theorem State.failJob_pcie (s : State) (j : Option JobRef) (c : BitVec 8) : (State.failJob s j c).pcie = s.pcie := by
  unfold State.failJob; split <;> rfl
@[simp] theorem State.failJob_dma (s : State) (j : Option JobRef) (c : BitVec 8) : (State.failJob s j c).dma = s.dma := by
  unfold State.failJob; split <;> rfl
@[simp] theorem State.failJob_pwr (s : State) (j : Option JobRef) (c : BitVec 8) : (State.failJob s j c).pwr = s.pwr := by
  unfold State.failJob; split <;> rfl
@[simp] theorem State.failJob_boot (s : State) (j : Option JobRef) (c : BitVec 8) : (State.failJob s j c).boot = s.boot := by
  unfold State.failJob; split <;> rfl
@[simp] theorem State.failJob_ident (s : State) (j : Option JobRef) (c : BitVec 8) : (State.failJob s j c).ident = s.ident := by
  unfold State.failJob; split <;> rfl
@[simp] theorem State.failJob_tap (s : State) (j : Option JobRef) (c : BitVec 8) : (State.failJob s j c).tap = s.tap := by
  unfold State.failJob; split <;> rfl
@[simp] theorem State.failJob_ent (s : State) (j : Option JobRef) (c : BitVec 8) : (State.failJob s j c).ent = s.ent := by
  unfold State.failJob; split <;> rfl
@[simp] theorem State.failJob_cnt (s : State) (j : Option JobRef) (c : BitVec 8) : (State.failJob s j c).cnt = s.cnt := by
  unfold State.failJob; split <;> rfl
@[simp] theorem State.failJob_cntRem (s : State) (j : Option JobRef) (c : BitVec 8) : (State.failJob s j c).cntRem = s.cntRem := by
  unfold State.failJob; split <;> rfl
@[simp] theorem State.failJob_holdMax (s : State) (j : Option JobRef) (c : BitVec 8) : (State.failJob s j c).holdMax = s.holdMax := by
  unfold State.failJob; split <;> rfl
@[simp] theorem State.failJob_out (s : State) (j : Option JobRef) (c : BitVec 8) : (State.failJob s j c).out = s.out := by
  unfold State.failJob; split <;> rfl
@[simp] theorem State.failJob_freeIx (s : State) (j : Option JobRef) (c : BitVec 8) : (State.failJob s j c).freeIx = s.freeIx := by
  unfold State.failJob; split <;> rfl
@[simp] theorem State.failJob_nextId (s : State) (j : Option JobRef) (c : BitVec 8) : (State.failJob s j c).nextId = s.nextId := by
  unfold State.failJob; split <;> rfl

/-! ## State.noteHold -/

@[simp] theorem State.noteHold_pending (s : State) (t : Option Nat) : (State.noteHold s t).pending = s.pending := by
  unfold State.noteHold; split <;> rfl
@[simp] theorem State.noteHold_clk (s : State) (t : Option Nat) : (State.noteHold s t).clk = s.clk := by
  unfold State.noteHold; split <;> rfl
@[simp] theorem State.noteHold_seq (s : State) (t : Option Nat) : (State.noteHold s t).seq = s.seq := by
  unfold State.noteHold; split <;> rfl
@[simp] theorem State.noteHold_sync (s : State) (t : Option Nat) : (State.noteHold s t).sync = s.sync := by
  unfold State.noteHold; split <;> rfl
@[simp] theorem State.noteHold_mem (s : State) (t : Option Nat) : (State.noteHold s t).mem = s.mem := by
  unfold State.noteHold; split <;> rfl
@[simp] theorem State.noteHold_host (s : State) (t : Option Nat) : (State.noteHold s t).host = s.host := by
  unfold State.noteHold; split <;> rfl
@[simp] theorem State.noteHold_arr (s : State) (t : Option Nat) : (State.noteHold s t).arr = s.arr := by
  unfold State.noteHold; split <;> rfl
@[simp] theorem State.noteHold_disp (s : State) (t : Option Nat) : (State.noteHold s t).disp = s.disp := by
  unfold State.noteHold; split <;> rfl
@[simp] theorem State.noteHold_eng (s : State) (t : Option Nat) : (State.noteHold s t).eng = s.eng := by
  unfold State.noteHold; split <;> rfl
@[simp] theorem State.noteHold_str (s : State) (t : Option Nat) : (State.noteHold s t).str = s.str := by
  unfold State.noteHold; split <;> rfl
@[simp] theorem State.noteHold_bulkQ (s : State) (t : Option Nat) : (State.noteHold s t).bulkQ = s.bulkQ := by
  unfold State.noteHold; split <;> rfl
@[simp] theorem State.noteHold_deepQ (s : State) (t : Option Nat) : (State.noteHold s t).deepQ = s.deepQ := by
  unfold State.noteHold; split <;> rfl
@[simp] theorem State.noteHold_mig (s : State) (t : Option Nat) : (State.noteHold s t).mig = s.mig := by
  unfold State.noteHold; split <;> rfl
@[simp] theorem State.noteHold_awr (s : State) (t : Option Nat) : (State.noteHold s t).awr = s.awr := by
  unfold State.noteHold; split <;> rfl
@[simp] theorem State.noteHold_media (s : State) (t : Option Nat) : (State.noteHold s t).media = s.media := by
  unfold State.noteHold; split <;> rfl
@[simp] theorem State.noteHold_casc (s : State) (t : Option Nat) : (State.noteHold s t).casc = s.casc := by
  unfold State.noteHold; split <;> rfl
@[simp] theorem State.noteHold_net (s : State) (t : Option Nat) : (State.noteHold s t).net = s.net := by
  unfold State.noteHold; split <;> rfl
@[simp] theorem State.noteHold_pcie (s : State) (t : Option Nat) : (State.noteHold s t).pcie = s.pcie := by
  unfold State.noteHold; split <;> rfl
@[simp] theorem State.noteHold_dma (s : State) (t : Option Nat) : (State.noteHold s t).dma = s.dma := by
  unfold State.noteHold; split <;> rfl
@[simp] theorem State.noteHold_pwr (s : State) (t : Option Nat) : (State.noteHold s t).pwr = s.pwr := by
  unfold State.noteHold; split <;> rfl
@[simp] theorem State.noteHold_boot (s : State) (t : Option Nat) : (State.noteHold s t).boot = s.boot := by
  unfold State.noteHold; split <;> rfl
@[simp] theorem State.noteHold_ident (s : State) (t : Option Nat) : (State.noteHold s t).ident = s.ident := by
  unfold State.noteHold; split <;> rfl
@[simp] theorem State.noteHold_tap (s : State) (t : Option Nat) : (State.noteHold s t).tap = s.tap := by
  unfold State.noteHold; split <;> rfl
@[simp] theorem State.noteHold_ent (s : State) (t : Option Nat) : (State.noteHold s t).ent = s.ent := by
  unfold State.noteHold; split <;> rfl
@[simp] theorem State.noteHold_cnt (s : State) (t : Option Nat) : (State.noteHold s t).cnt = s.cnt := by
  unfold State.noteHold; split <;> rfl
@[simp] theorem State.noteHold_cntRem (s : State) (t : Option Nat) : (State.noteHold s t).cntRem = s.cntRem := by
  unfold State.noteHold; split <;> rfl
@[simp] theorem State.noteHold_out (s : State) (t : Option Nat) : (State.noteHold s t).out = s.out := by
  unfold State.noteHold; split <;> rfl
@[simp] theorem State.noteHold_freeIx (s : State) (t : Option Nat) : (State.noteHold s t).freeIx = s.freeIx := by
  unfold State.noteHold; split <;> rfl
@[simp] theorem State.noteHold_nextId (s : State) (t : Option Nat) : (State.noteHold s t).nextId = s.nextId := by
  unfold State.noteHold; split <;> rfl

/-! ## State.raiseExc -/

@[simp] theorem State.raiseExc_pending (s : State) (r : ExcRec) : (State.raiseExc s r).pending = s.pending := by
  unfold State.raiseExc; dsimp only; split <;> split <;> simp [State.writeExc]
@[simp] theorem State.raiseExc_clk (s : State) (r : ExcRec) : (State.raiseExc s r).clk = s.clk := by
  unfold State.raiseExc; dsimp only; split <;> split <;> simp [State.writeExc]
@[simp] theorem State.raiseExc_sync (s : State) (r : ExcRec) : (State.raiseExc s r).sync = s.sync := by
  unfold State.raiseExc; dsimp only; split <;> split <;> simp [State.writeExc]
@[simp] theorem State.raiseExc_host (s : State) (r : ExcRec) : (State.raiseExc s r).host = s.host := by
  unfold State.raiseExc; dsimp only; split <;> split <;> simp [State.writeExc]
@[simp] theorem State.raiseExc_arr (s : State) (r : ExcRec) : (State.raiseExc s r).arr = s.arr := by
  unfold State.raiseExc; dsimp only; split <;> split <;> simp [State.writeExc]
@[simp] theorem State.raiseExc_disp (s : State) (r : ExcRec) : (State.raiseExc s r).disp = s.disp := by
  unfold State.raiseExc; dsimp only; split <;> split <;> simp [State.writeExc]
@[simp] theorem State.raiseExc_eng (s : State) (r : ExcRec) : (State.raiseExc s r).eng = s.eng := by
  unfold State.raiseExc; dsimp only; split <;> split <;> simp [State.writeExc]
@[simp] theorem State.raiseExc_bulkQ (s : State) (r : ExcRec) : (State.raiseExc s r).bulkQ = s.bulkQ := by
  unfold State.raiseExc; dsimp only; split <;> split <;> simp [State.writeExc]
@[simp] theorem State.raiseExc_deepQ (s : State) (r : ExcRec) : (State.raiseExc s r).deepQ = s.deepQ := by
  unfold State.raiseExc; dsimp only; split <;> split <;> simp [State.writeExc]
@[simp] theorem State.raiseExc_mig (s : State) (r : ExcRec) : (State.raiseExc s r).mig = s.mig := by
  unfold State.raiseExc; dsimp only; split <;> split <;> simp [State.writeExc]
@[simp] theorem State.raiseExc_awr (s : State) (r : ExcRec) : (State.raiseExc s r).awr = s.awr := by
  unfold State.raiseExc; dsimp only; split <;> split <;> simp [State.writeExc]
@[simp] theorem State.raiseExc_media (s : State) (r : ExcRec) : (State.raiseExc s r).media = s.media := by
  unfold State.raiseExc; dsimp only; split <;> split <;> simp [State.writeExc]
@[simp] theorem State.raiseExc_casc (s : State) (r : ExcRec) : (State.raiseExc s r).casc = s.casc := by
  unfold State.raiseExc; dsimp only; split <;> split <;> simp [State.writeExc]
@[simp] theorem State.raiseExc_net (s : State) (r : ExcRec) : (State.raiseExc s r).net = s.net := by
  unfold State.raiseExc; dsimp only; split <;> split <;> simp [State.writeExc]
@[simp] theorem State.raiseExc_pcie (s : State) (r : ExcRec) : (State.raiseExc s r).pcie = s.pcie := by
  unfold State.raiseExc; dsimp only; split <;> split <;> simp [State.writeExc]
@[simp] theorem State.raiseExc_dma (s : State) (r : ExcRec) : (State.raiseExc s r).dma = s.dma := by
  unfold State.raiseExc; dsimp only; split <;> split <;> simp [State.writeExc]
@[simp] theorem State.raiseExc_pwr (s : State) (r : ExcRec) : (State.raiseExc s r).pwr = s.pwr := by
  unfold State.raiseExc; dsimp only; split <;> split <;> simp [State.writeExc]
@[simp] theorem State.raiseExc_boot (s : State) (r : ExcRec) : (State.raiseExc s r).boot = s.boot := by
  unfold State.raiseExc; dsimp only; split <;> split <;> simp [State.writeExc]
@[simp] theorem State.raiseExc_ident (s : State) (r : ExcRec) : (State.raiseExc s r).ident = s.ident := by
  unfold State.raiseExc; dsimp only; split <;> split <;> simp [State.writeExc]
@[simp] theorem State.raiseExc_tap (s : State) (r : ExcRec) : (State.raiseExc s r).tap = s.tap := by
  unfold State.raiseExc; dsimp only; split <;> split <;> simp [State.writeExc]
@[simp] theorem State.raiseExc_ent (s : State) (r : ExcRec) : (State.raiseExc s r).ent = s.ent := by
  unfold State.raiseExc; dsimp only; split <;> split <;> simp [State.writeExc]
@[simp] theorem State.raiseExc_cntRem (s : State) (r : ExcRec) : (State.raiseExc s r).cntRem = s.cntRem := by
  unfold State.raiseExc; dsimp only; split <;> split <;> simp [State.writeExc]
@[simp] theorem State.raiseExc_holdMax (s : State) (r : ExcRec) : (State.raiseExc s r).holdMax = s.holdMax := by
  unfold State.raiseExc; dsimp only; split <;> split <;> simp [State.writeExc]
@[simp] theorem State.raiseExc_out (s : State) (r : ExcRec) : (State.raiseExc s r).out = s.out := by
  unfold State.raiseExc; dsimp only; split <;> split <;> simp [State.writeExc]
@[simp] theorem State.raiseExc_freeIx (s : State) (r : ExcRec) : (State.raiseExc s r).freeIx = s.freeIx := by
  unfold State.raiseExc; dsimp only; split <;> split <;> simp [State.writeExc]
@[simp] theorem State.raiseExc_nextId (s : State) (r : ExcRec) : (State.raiseExc s r).nextId = s.nextId := by
  unfold State.raiseExc; dsimp only; split <;> split <;> simp [State.writeExc]

/-! ## Reading what was written -/

@[simp] theorem State.y_ySet (s : State) (n k : Nat) (v : Word) : (s.ySet n v).y k = if k = n then v else s.y k :=
  tget_tset _ _ _ _

@[simp] theorem State.ent_setEnt (s : State) (i j v : Nat) : (s.setEnt i j v).ent? i j = v := tget_tset_same _ _ _

@[simp] theorem State.cnt_addCnt (s : State) (i j n : Nat) : (s.addCnt i j n).cnt? i j = min 0xFFFF (s.cnt? i j + n) :=
  tget_tset_same _ _ _

@[simp] theorem State.stream_setStream (s : State) (n k : Nat) (b : StreamBlk) :
    (s.setStream n b).stream k = if k = n then b else s.stream k := tget_tset _ _ _ _

/-- With no halt owed a slot's halt changes nothing. -/
theorem State.settleHalt_none {s : State} (h : s.seq.haltOwed = none) : s.settleHalt = s := by
  unfold State.settleHalt; split <;> simp [h]

end Sys2Proof.Machine
end

