-- ==== Sys2Proof/Machine/Scan.lean ====
section
/-!
DEFINITION. The boundary-scan port (R582): the controller of IEEE 1149.1 with its instruction register, BYPASS, IDCODE and the
boundary register. It has no way into the rest of the device. No row of the opcode table clocks it (log 77), so no command calls
`tapClock`.
-/
namespace Sys2Proof.Machine

/-- The controller's next state on a clock of TCK with TMS. -/
def TapState.next (t : TapState) (tms : Bool) : TapState :=
  match t with
  | .testLogicReset => if tms then .testLogicReset else .runTest
  | .runTest => if tms then .selectDr else .runTest
  | .selectDr => if tms then .selectIr else .captureDr
  | .captureDr => if tms then .exit1Dr else .shiftDr
  | .shiftDr => if tms then .exit1Dr else .shiftDr
  | .exit1Dr => if tms then .updateDr else .pauseDr
  | .pauseDr => if tms then .exit2Dr else .pauseDr
  | .exit2Dr => if tms then .updateDr else .shiftDr
  | .updateDr => if tms then .selectDr else .runTest
  | .selectIr => if tms then .testLogicReset else .captureIr
  | .captureIr => if tms then .exit1Ir else .shiftIr
  | .shiftIr => if tms then .exit1Ir else .shiftIr
  | .exit1Ir => if tms then .updateIr else .pauseIr
  | .pauseIr => if tms then .exit2Ir else .pauseIr
  | .exit2Ir => if tms then .updateIr else .shiftIr
  | .updateIr => if tms then .selectDr else .runTest

/-- The instruction that the instruction register holds: all ones is BYPASS; the other codes are the implementation's. -/
def tapInstr (ir : List Bool) : TapInstr :=
  if ir.all (fun b => b) then .bypass
  else match Config.tapCode ir % 4 with
    | 0 => .bypass
    | 1 => .idcode
    | 2 => .sample
    | _ => .extest

/-- What the selected data register captures: 0 in BYPASS, the identification code, or the pins. -/
def Tap.capture (t : Tap) (pins : List Bool) : List Bool :=
  match t.instr with
  | .bypass => [false]
  | .idcode => (List.range 32).map (fun i => Config.idcode.getLsbD i)
  | .sample | .extest => pins

/-- One clock of TCK: what TDO shows and the port after it. `pins` are the device's pins as the boundary register captures them. -/
def Tap.clock (t : Tap) (tms tdi : Bool) (pins : List Bool) : Tap × Bool :=
  let u := { t with st := t.st.next tms }
  match t.st with
  | .testLogicReset => ({ u with instr := .idcode }, false)
  | .captureDr => ({ u with dr := t.capture pins }, false)
  | .shiftDr => ({ u with dr := t.dr.drop 1 ++ [tdi] }, t.dr.headD false)
  | .updateDr => (match t.instr with | .sample | .extest => { u with out := t.dr } | _ => u, false)
  | .captureIr => ({ u with ir := true :: List.replicate (Config.irLength - 1) false }, false)
  | .shiftIr => ({ u with ir := t.ir.drop 1 ++ [tdi] }, t.ir.headD false)
  | .updateIr => ({ u with instr := tapInstr t.ir }, false)
  | _ => (u, false)

/-- TRST_N at its low level holds the port in Test-Logic-Reset, where a device that leaves the port unconnected ties it (R581). -/
def tapReset (s : State) : State := { s with tap := Tap.reset }

/-- A clock of the boundary-scan port changes the port alone (R582). -/
def tapClock (tms tdi : Bool) (pins : List Bool) (s : State) : State × Bool :=
  ({ s with tap := (s.tap.clock tms tdi pins).1 }, (s.tap.clock tms tdi pins).2)

end Sys2Proof.Machine
end

