-- ==== Sys2Proof/WellFormed.lean ====
section
/-!
DEFINITION. Which terms of `Instr` are commands a sender could give: operand values inside the ranges that the layouts
of the manual give them where the type alone is wider. The machine is total: it gives every term a meaning, and a
number that names nothing (a phase operation that does not exist, an array above 16,895) finds nothing to act on
(log 1).
-/
namespace Sys2Proof

/-- Physical arrays of the device (R10, R25). -/
def arrayCount : Nat := 16896

/-- A slot number of R173 among those the bundle has. -/
def SlotCtx.wfIn (c : SlotCtx) (lo hi : Nat) : Bool := decide (lo ≤ c.slot.toNat) && decide (c.slot.toNat ≤ hi)

/-- An access of 1 to 4,096 bytes. -/
def Access.wf : Access → Bool
  | .read n => decide (n ≤ 4096)
  | .write d => decide (d.length ≤ 4096)

/-- A segment carries at most 240 payload bytes (R441). -/
def Segment.wf (g : Segment) : Bool := decide (g.payload.length ≤ 240)

/-- A dictionary value has at most 4,096 bytes (R454). -/
def DictReq.wf (r : DictReq) : Bool := decide (r.want ≤ 4096) && decide (r.data.length ≤ 4096)

/-- A packet carries at most 16 units of 16 bytes (R408). -/
def Pkt.wf (p : Pkt) (data : List Byte) : Bool := decide (p.units.toNat ≤ 16) && decide (data.length ≤ 256)

/-- Arrays named in a list exist. -/
def arraysWf (l : List Nat) : Bool := l.all (fun a => decide (a < arrayCount))

/-- The operand checks, one line per command that has one. -/
def Instr.wf : Instr → Bool
  | .jump c _ | .bnz c _ _ | .bz c _ _ | .loop c _ _ | .call c _ | .ret c | .idle c _ | .trap c _ | .halt c =>
    c.wfIn 0 0
  | .signal c _ _ | .set c _ _ | .setX c _ _ | .waitGe c _ _ | .waitGeX c _ _ | .signalPeer c _ _ => c.wfIn 1 2
  | .launch c _ _ _ => c.wfIn 3 6
  | .matmul c _ _ _ | .matmulAcc c _ _ _ | .matmulX c _ _ _ | .matmulXAcc c _ _ _ | .accStore c _ _ _
  | .accLoad c _ _ _ | .outerAcc c _ _ _ => c.wfIn 7 8
  | .run c _ _ | .config c _ _ | .rotate c _ _ => c.wfIn 9 10
  | .jobTake c _ _ | .jobDone c _ _ | .ringPush c _ _ => c.wfIn 11 12
  | .submit c _ _ | .migrate c _ | .prefetch c _ => c.wfIn 13 13
  | .addi c _ _ _ | .add c _ _ | .sub c _ _ | .and c _ _ | .or c _ _ | .shli c _ _ _ | .shri c _ _ _ | .movhi c _ _
  | .ld c _ _ _ | .st c _ _ _ | .dictRd c _ _ | .dictWr c _ _ | .cyc c _ | .syncRd c _ _ | .tagjob c _ _ =>
    c.wfIn 14 14
  | .phaseEnd _ mute | .repeatPhaseEnd _ mute => arraysWf mute
  | .lineVisible _ line => decide (line < 4096)
  | .resultDiscarded a _ _ | .oldHomeErase a _ | .marginSetRewrite a _ | .pulseVerifyLoop a _
  | .arrayEraseEnd a _ => decide (a < arrayCount)
  | .shadeRecheck a _ phases codes _ =>
    decide (a < arrayCount) && phases.all (fun p => decide (p.length ≤ 128)) && codes.all (fun p => decide (p.length ≤ 512))
  | .maintenancePhaseEnd a codes _ => decide (a < arrayCount) && decide (codes.length ≤ 128)
  | .domainOff d | .domainWakeEnd d => decide (d < 148)
  | .masterAccess _ _ a => a.wf
  | .barAccess _ _ _ a => a.wf
  | .cascadeWrite _ p d | .readRsp _ p d | .ringRec _ p d => p.wf d
  | .frameReceive f => decide (f.length ≤ 65535)
  | .segmentReceive _ g | .dict _ _ g | .dictRsp _ _ g => g.wf
  | .read _ r | .write _ r => r.wf
  | .windowDataRead _ n => decide (n ≤ 4096)
  | .windowDataWrite _ d | .dictionaryWrite _ _ _ d | .deepWrite _ _ d => decide (d.length ≤ 4096)
  | .icmpEcho _ _ _ d => decide (d.length ≤ 1514)
  | .storePageProgramEnd b _ _ _ | .storePageReadEnd _ b _ _ _ | .storeBlockEraseEnd b _ | .storeEraseSuspend b =>
    decide (b < 1536)
  | _ => true

end Sys2Proof
end

