-- ==== Sys2Proof/Tests/Slice0.lean ====
section
/-!
SUPPORT. The model's own tests: terms that `Instr.wf` refuses, single steps with results worked out from the rules, and,
for every obligation that has hypotheses, states and operands that meet the hypotheses of each of its clauses together.
-/
namespace Sys2Proof.Tests
open Sys2Proof.Machine

set_option Elab.async false

/-! ## States that the tests start from -/

/-- A clock whose sources all run. -/
def clkUp : Clock := { Clock.reset with
  cycle := 1000, ticks := 500, crystal := true, running := 0x7FF, enable := 0x7FF
  plls := (List.range 9).map (fun k => (k, { locked := true, tries := 0, lost := false })) }

/-- Every switched domain ON. -/
def pwrUp : Power := { Power.reset with
  inReset := false
  dom := ((List.range 148).filter (fun k => k ≠ 135 && k ≠ 147)).map (fun k => (k, .on)) }

/-- A device that serves, with its host and field network links up and 16 GiB of bulk tier. -/
def srv : State := { State.reset with
  clk := clkUp, pwr := pwrUp
  boot := { Boot.reset with st := .serving, step := 12, b4Done := true }
  pcie := { Pcie.reset with up := true, bme := true, gen := 5, width := 16 }
  net := { FieldNet.reset with link := true, sqi := 5 }
  mig := { Migration.reset with bulkSize := 2 ^ 34, deepSize := 2 ^ 40 } }

/-- The next state of an outcome. -/
def nextOf (r : Host.Outcome State Fault Refusal) : State := match r with | .next t => t | _ => State.reset

/-- The header of a bundle's slot: bundle 7, REPEAT 5, job tag 2. -/
def ctx (slot : BitVec 4) : SlotCtx := { bundle := 7, slot := slot, rep := 5, tagv := true, tag := 2 }

def runS : State := srv.modSeq (fun q => { q with st := .running, pc := 7, regs := [(1, 40), (2, 3), (3, 1)] })

def stk (n : Nat) : State := runS.modSeq (fun q => { q with stack := (List.range n).map (fun k => BitVec.ofNat 16 (k + 9)) })

def aJob (n : Nat) : Job :=
  { num := n, jobTag := 0xAB, marker := false, deadlineV := false, deadline := 0, statusV := false, statusHost := false,
    statusAddr := 0, failed := false, missed := false, skipped := false, halted := false, cause := 0, status := 0,
    closed := 900, byDone := false }

def ring (b h t : Nat) : Ring := { base := b, slots := 4, head := h, tail := t }

def withJob : State := runS.modStream 2 (fun b => { b with st := .enabled, cur := some (aJob 1), inb := ring 0x1000 0 1, outb := ring 0x2000 0 0 })

def stall0 : Stall := { since := 900, tick := 400, window := 100, held := false, probed := false }

/-- A rank of roles 1 (this device) and 2; `m` is the master. -/
def rank (m : Nat) (s : State) : State := s.modCasc (fun c => { c with
  role := 1, roleV := true, isHead := decide (m = 1)
  map := [(1, { mapRoleDefault 0 with st := .active, master := decide (m = 1), head := decide (m = 1), serial := 11 }),
          (2, { mapRoleDefault 0 with st := .active, master := decide (m = 2), head := decide (m = 2), serial := 12 })]
  routes := [(1, some 0), (2, some 3)]
  lock := { lockReset with offset := -900 } })

def waitW : BitVec 512 := 2 ^ 48 * 4 + 2 ^ 52 * 5 + 2 ^ 66 * 9

def acc0 (op : ScalarOp) : State := runS.modSeq (fun q => { q with access := some { ctx := ctx 14, job := none, op := op, hold := none, sent := false } })

def lock (f : Lockstep → Lockstep) (s : State) : State := s.modCasc (fun c => { c with lock := f c.lock })

def accS (op : ScalarOp) (s : State) : State := s.modSeq (fun q => { q with access := some { ctx := ctx 14, job := none, op := op, hold := none, sent := false } })

/-- A group descriptor at 0x80: no members, one line on `banks` banks. -/
def launchS (banks : Nat) : State := (runS.putMem 0x80 (leBytes 8 (2 ^ 21))).putMem 0xC0 (leBytes 16 (banks * 2 ^ 32))

def op0 (stage : PhaseStage) : PhaseOp :=
  { id := 4, ctx := ctx 3, job := none, opTag := 9, sync := 5, a8 := false, w8 := false, ps16 := false, shift := 0,
    lines := [{ mask := 1, banks := 1, dst := 0x4000, status := 0x5000 }],
    members := [{ bank := 0, slot := 0, first := 0, count := 1, line := 0, act := 0x3000 }],
    ready := 1000, stage := stage, admitted := 1000, waves := [[0]], wave := 0, phase := 0, start := 1000, fin := 1264,
    phys := [], leftOut := [], gens := [], temps := [], setUse := [], digits := [], results := [], acc := [],
    mute := [], oldSets := [], dead := [], undo := none, loadLost := false, dip := false, again := false, released := false,
    hold := none, late := none, failed := false }

def opS (o : PhaseOp) : State := runS.modDisp (fun d => { d with ops := d.ops ++ [o] })

def full16 : State := runS.modDisp (fun d => { d with ops := (List.range 16).map (fun k => { op0 .waiting with id := k }) })

/-- A descriptor at 0x80 whose bytes are those of `v`. -/
def desc (v : Nat) (s : State) : State := s.putMem 0x80 (leBytes 128 v)

def vtask : VecTask :=
  { id := 4, slot := 0, ctx := ctx 9, job := none, op := .run, units := 1, d := vecDesc 0x4005, issued := 990,
    start := 996, fin := 1000, writes := [(0x4000, [1, 2, 3, 4])], stats := none, scaleUpdate := false, record := false, image := none,
    fails := false, broken := false }

def vq (n : Nat) (x : VecTask) (s : State) : State := s.modEng (fun e => { e with vq := [(0, List.replicate n x)] })

/-- Stream 2, enabled, with its rings at 0x1000 and 0x2000, one record waiting. -/
def str2 (f : StreamBlk → StreamBlk) : State := runS.modStream 2 (fun b => f { b with
  st := .enabled, inb := ring 0x1000 0 1, outb := ring 0x2000 0 0 })

def objOk : State := runS.putMem 0x8000 (leBytes 64 (1 + (crc32 (zeroCheck (leBytes 64 1) 24)).toNat * 2 ^ 192))

def tabBytes : List Byte := leBytes 16 (3 + 256 + 0xC7371115 * 2 ^ 32) ++ List.replicate 128 0x88

def objHdrBytes : List Byte := leBytes 64 (1 + (crc32 (zeroCheck (leBytes 64 1) 24)).toNat * 2 ^ 192)

def heldS (s : State) : State := s.modMedia (fun m => {m with bulkHold := true})

def rcv (k st : Nat) : Receiver := { recvDefault 0 with kind := k, stream := st, hostBase := 0x100, hostSlots := 4 }

def push0 : Push := { issued := 990, job := none, stream := some 2, data := List.replicate 64 7, after := [] }

/-- The record at the head of stream 2: words of R285. -/
def recAt (v : Nat) (s : State) : State := s.putMem 0x1000 (leBytes 64 v)

def jobD : Job := { jobOfRecord 0 (BitVec.ofNat 512 (2^33 + 400 * 2^64)) with missed := false }

def waitB : State := (runS.putMem (ibufBase + 64 * 7) (leBytes 64 (2^11 + 2^13 + (4 + 5 * 16 + 9 * 2^18) * 2^48))).modSeq (fun q => { q with st := .stalled, stall := some { since := 900, tick := 400, window := 100, held := false, probed := false } })

def req0 (k : Nat) : TierReq := { id := k, cls := 0, stream := none, arrival := 100, blocks := 2, starved := false }

def hset (forced : Bool) (ready : List Nat) : HandoverSet := { id := 6, kind := .refresh, members := [(5, 256)], ready := ready, since := some 450, forced := forced }

def moveS (h : HandoverSet) : State := (runS.setMap 5 { phys := 5, st := .moving }).modArr (fun a => { a with moves := [h], pass := { running := true, first := false, left := [1], queued := false, banks := [], early := [] } })

def savedErase (n : Nat) (s : State) : State := s.modMedia (fun m => { m with arrs := tset arrRecDefault m.arrs n ({ arrRecDefault 0 with eraseOpen := true } : ArrRec) })

def bkSets (s : State) : List (Nat × BitVec 64) := match s.backingWrite.data with | .backing a _ _ => a | _ => []

def bkAges (s : State) : List (Nat × BitVec 64) := match s.backingWrite.data with | .backing _ a _ => a | _ => []

def sensS : State := (moveS (hset false [])).modArr (fun a => {a with dirty := [3]})

/-- An unstarted record of kind `k` with raw bits `raw`. -/
def mrec (id raw : Nat) (tiles : List (Nat × TileMove)) : MoveRec :=
  { id := id, addr := 0x3000, ctx := none, job := none, raw := BitVec.ofNat 512 raw, started := false, tiles := tiles,
    status := 0, deferred := false }

/-- Kind, tier, object, domain and tile count of a record. -/
def mraw (k t o d n : Nat) : Nat := k + t * 16 + o * 256 + d * 2 ^ 22 + n * 2 ^ 45

def obj1 (h : BitVec 16) (dom size : Nat) : Obj := { objDefault 0 with exist := true, domain := dom, hints := h, size := size }

def migS (f : Migration → Migration) : State := runS.modMig f

def pools (s : State) : State := (((s.setEnt 0x4500 8 0x100000).setEnt 0x4500 9 0x400000).setEnt 0x4500 10 (bulkBase + 0x100000)).setEnt 0x4500 11 0x10000000

def bpre (raw : Nat) : State := { runS with mem := Memory.puts runS.mem 0x3000 (leBytes 64 raw), seq := { runS.seq with regs := [(2, 0x3000), (3, 0x3010)] } }

def bm (n a : Nat) : BundleMove := { id := n, ctx := ctx 13, job := none, addr := a, issued := 990 }

def tileAt (t home : Nat) (mv : Bool) : Tile := { tileDefault 0 with tier := t, home := home, moving := mv }

def aw1 (st : AwTarget) : ArrayWrite :=
  { id := 31, install := false, lib := false, resultV := true, syncV := true, sync := 6, src := 0x10000, resultAddr := 0x2000, addrs := [{ addr := 5, array := some 300, st := st, tile := [], lib := none }], status := 0, failAddr := 0, row := 0, byMove := none, committed := false }

def hvS : State := (runS.modArr (fun a => { a with hv := [300] })).modMedia (fun m => { m with arrs := [(300, { arrRecDefault 0 with eraseOpen := true, progOpen := true })], map := [(256 + 300 - 264, { phys := 0, st := .unavailable })] })

def ltx (n : Nat) (c : Bool) : Transact := { part := .library, item := 4, blocks := [200], twins := [], pages := n, data := .tile 4 [1], committed := c }

def ledgerDefault' : Ledger := srv.boot.present

def deepS (f : Media → Media) : State := srv.modMedia (fun m => f { m with nandBlocks := 12, targets := 8 })

def extOf (b : Nat) (st : ExtState) : Extent := { extDefault 0 with st := st, based := true, block := b, log := if st = .logged then [(3, 0)] else [] }

def cas (f : Cascade → Cascade) : State := runS.modCasc f

def mrole (st : RoleState) (rank : BitVec 3) (head : Bool) (ep : BitVec 16) (ser : Word) : MapRole :=
  { st := st, rank := rank, master := head, head := head, epoch := ep, serial := ser }

/-- A chain of roles 0 (head), 1, 2 (another rank), 3 (standby), and 4 (dead). -/
def chainMap : Table MapRole := [(0, mrole .active 0 true 1 100), (1, mrole .active 0 false 2 101),
  (2, mrole .active 1 false 3 102), (3, mrole .standby 0 false 4 103), (4, mrole .dead 1 false 9 104)]

def upTo (r : BitVec 5) : Port := { portDefault 0 with
  st := .up, lanes := 8, peerRole := r, peer := some { id := r, rank := 0, head := false, stby := false, port := 1, role := r, roleV := true, epoch := 1, serial := 77 } }

/-- This device holds role `me` of that chain, port 0 UP towards the head or its neighbour. -/
def chain (me : BitVec 5) (f : Cascade → Cascade) : State := cas (fun c => f { c with
  role := me, roleV := true, isHead := decide (me = 0), map := chainMap, ports := [(0, upTo (if me = 0 then 1 else 0))],
  routes := [(0, some 0), (1, some 0), (2, some 0), (3, some 0)] })

def tr (ep : BitVec 16) : TrainRec := { id := 1, rank := 0, head := false, stby := false, port := 2, role := 1, roleV := true, epoch := ep, serial := 77 }

def pk (t : BitVec 4) (src : BitVec 5) (ep : BitVec 16) (addr : BitVec 48) (rtag arg : BitVec 16) (units : BitVec 5) : Pkt :=
  { ptype := t, dst := 0, src := src, srcEpoch := ep, units := units, hops := 1, addr := addr, rtag := rtag, arg := arg }

def dest (d : BitVec 5) (p : Pkt) : Pkt := { p with dst := d }

def flit (ft seq : Nat) (nak : Bool) (u : List Byte) : BitVec 1024 := BitVec.ofNat 1024 (leNat (flitBytes (portDefault 0) ft seq 0 nak u))

def lk : FarLink := { serialA := 101, portA := 1, serialB := 102, portB := 2, delay := 5 }

def port0 (f : Port → Port) : State := (chain 0 id).modPort 0 f

def lk2 : FarLink := { serialA := 77, portA := 1, serialB := 101, portB := 2, delay := 5 }

def flitsOf (s t : State) : List (List Byte) := (t.out.drop s.out.length).filterMap (fun e => match e with | .flit _ b => some b | _ => none)

def repS : State := port0 (fun p => {p with replay := [{ seq := 3, ring := none, units := [1,2] }], nextSeq := 4})

def rem (m : Requester) (w : Bool) : Remote := { tag := 9, role := 1, write := w, who := m, want := 3, sent := 400, hold := none }

def d16 : List Byte := (List.range 16).map (BitVec.ofNat 8)

def bind1 : Bind := { stream := 2, role := 1, sender := 5, entry := 1 }

def strS (f : StreamBlk → StreamBlk) (g : Cascade → Cascade) : State := (chain 0 g).modStream 2 (fun b => f { b with
  st := .enabled, inb := ring 0x1000 0 1, outb := ring 0x2000 0 0 })

def recvR : Receiver := { recvDefault 0 with kind := 2, stream := 3, device := 1, rst := .attached }

def recvS (g : Cascade → Cascade) : State := (strS (fun b => {b with recvs := [(1, recvR)]}) g)

def waitE (m : Master) (l : List (Nat × Nat)) : EnableWait := { master := m, value := 4, since := 400, waits := l }

def stl (p : Bool) : Stall := { since := 900, tick := 450, window := 100, held := false, probed := p }

def flitP : Port := { portDefault 0 with rxSeq := some 4095, back := { ctrl := 300, req := 5000, rsp := 7 } }

def lockS (f : Lockstep → Lockstep) : State := chain 0 (fun c => { c with lock := f { c.lock with holds := [0] } })

def segA : Segment := { version := 1, sync := true, service := 2, seq := 0xFFFF, segIndex := 0, segCount := 1, target := 31, targetV := true, payload := d16 }

def encA (v : Option (BitVec 16)) : Encap := { mac := 5, vlan := v, net := .raw 0x88B5 }

def parsed (v : Option (BitVec 16)) : FrameIn := (parseFrame (encapFrame 9 (encA v) (encSegment segA))).getD { dst := 0, src := 0, vlan := none, etype := 0, body := [] }

def enc0 : Encap := { mac := 5, vlan := none, net := .raw 0x88B5 }

def rq (i : BitVec 16) (j : BitVec 8) (ty : BitVec 8) (want : Nat) (d : List Byte) : DictReq := { index := i, sub := j, type := ty, want := want, data := d }

def seg (sv : BitVec 8) (sq : BitVec 16) (pay : List Byte) : Segment :=
  { version := 1, sync := false, service := sv, seq := sq, segIndex := 0, segCount := 1, target := 0, targetV := false, payload := pay }

def frm (d : BitVec 48) (et : Nat) (b : List Byte) : List Byte := ethFrame d 5 none et b

def fin (d : BitVec 48) (et : Nat) (b : List Byte) : FrameIn := (parseFrame (frm d et b)).getD { dst := 0, src := 0, vlan := none, etype := 0, body := [] }

def mac0 : BitVec 48 := runS.ident.mac

def ipS : State := (runS.setEnt 0x1100 7 9).setEnt 0x1100 6 1

def rd (j : Nat) (want : Nat) : List Byte := leBytes 8 (0x1100 + j * 2 ^ 16 + want * 2 ^ 32)

def echoReq : List Byte := let d := beBytes 2 0x0800 ++ beBytes 2 0 ++ [1,2,3,4]; beBytes 2 0x0800 ++ beBytes 2 (inetSum d) ++ [1,2,3,4]

/-- An IPv4 packet from 0.0.0.7 with a good checksum. -/
def ipPk (proto : Nat) (d : List Byte) : List Byte :=
  let h := fun (c : Nat) => beBytes 2 0x4500 ++ beBytes 2 (20 + d.length) ++ beBytes 4 0 ++ beBytes 1 64 ++ beBytes 1 proto ++ beBytes 2 c ++ beBytes 4 7 ++ beBytes 4 ipS.ip.toNat
  h (inetSum (h 0)) ++ d

def udpReq : List Byte := udpDatagram 7 ipS.ip 99 (ipS.ent? 0x1100 8) (encSegment (seg 1 1 (rd 2 2)))

def reas : Reasm := { seq := 8, count := 2, target := 0, total := 300, service := 2, index := 0x1100, sub := 1, type := 0, parts := [], since := 400 }

def ans : Answer := { service := 0x81, abort := 0, type := 0x05, data := [7] }

def ses (m : Master) (l : Nat) (a : Bool) (r : Option Reasm) : Session :=
  { master := m, last := l, answered := a, index := 0x1100, sub := 1, answer := some ans, reasm := r, used := 3, via := { tag := 0, enc := enc0 } }

def netS (f : FieldNet → FieldNet) : State := (chain 0 id).modNet f

def fw (m : Master) (got : Bool) : Fwd := { tag := 9, enc := enc0, master := m, role := 1, seq := 4, index := 0x1100, sub := 2, since := 400, got := got, umbra := false, count := 0, parts := [] }

def away (d : BitVec 5) : Segment := { seg 1 7 (rd 2 2) with target := d, targetV := true }

def stX : Transact := ((nextOf (exec (.storeSettings .host 1) runS)).media.waiting).getLastD runS.backingWrite

def stV : Table Nat := match stX.data with | .settings v _ => v | _ => []

def canY : Session := (((nextOf (exec (.cancel (.t1 5) 8) (netS (fun n => {n with sess := [ses (.t1 5) 8 false (some reas)]})))).session (.t1 5))).getD (ses (.t1 5) 0 false none)

def pcS (f : Pcie → Pcie) : State := (chain 0 id).modPcie (fun p => f {p with mask := p.mask.drop 3})

def mbx (r : BitVec 64) (st : Nat) : Mailbox := { mailboxDefault 0 with req := r, st := st }

def dDesc (op sp dp src dst len : Nat) (flags : Nat) : BitVec 512 :=
  BitVec.ofNat 512 (op + sp * 16 + dp * 64 + src * 2 ^ 64 + dst * 2 ^ 128 + len * 2 ^ 192 + 0xA1B2C3D4 * 2 ^ 224 + flags + 2 ^ 511)

def dsc (data : BitVec 512) : Desc :=
  { id := 3, inHost := false, addr := 0x8000, data := data, ctx := none, job := none, taken := 0, lone := true, status := 0, done := 0, moved := false }

def chB (ds : List Desc) (st : ChanState) : State := (runS.setEnt 0x5115 2 1).modChan 5 (fun c => { c with st := st, acc := ds })

def chR (ds : List Desc) (st : ChanState) : State := ((runS.setEnt 0x5115 4 0x8000).setEnt 0x5115 6 4).modChan 5 (fun c => { c with st := st, acc := ds, tail := 3 })

def runD : DmaRun := { chan := 5, left := 2, hold := none, tag := none, data := none }

def dmaS (d : Desc) : State := { (chR [d, dsc 0] .enabled).modDma (fun x => { x with run := some runD }) with mem := Memory.puts runS.mem 0x1000 d16 }

def gkS (d : Desc) : State := (((chR [d] .enabled).setEnt 0x5115 3 1).setEnt 0x5100 5 0x40000).setEnt 0x5100 6 4 |>.modDma (fun x => { x with run := some runD, cqTail := 3, cqOn := true, cqPhase := true })

def clkS (f : Clock → Clock) : State := runS.modClk f

def domS (k : Nat) (f : DomClk → DomClk) : State := runS.modClk (fun c => { c with doms := tmod domClkDefault c.doms k f })

def phS : State := runS.modDisp (fun d => { d with ops := [
  { id := 4, ctx := ctx 3, job := none, opTag := 9, sync := 5, a8 := false, w8 := false, ps16 := false, shift := 0,
    lines := [], members := [], ready := 1000, stage := .phase, admitted := 1000, waves := [[0]], wave := 0, phase := 0, start := 1000, fin := 1264,
    phys := [], leftOut := [], gens := [], temps := [], setUse := [], digits := [], results := [], acc := [],
    mute := [], oldSets := [], dead := [], undo := none, loadLost := false, dip := false, again := false, released := false,
    hold := none, late := none, failed := false }] })

def wkS : State := (srv.modPwr (fun p => {p with mode := 4, waking := true, dom := [], wakeLatch := [(0, none)]})).setEnt 0x2000 21 7

def straps (i : BitVec 5) : Straps := { id := i, rank := 0, head := true, stby := false, t1ms := true, clkOutEn := true, recovery := false }

def goodImg (sec : BitVec 16) : ImageInfo := { version := 7, security := sec, abi := 2, abiMin := 1, formatOk := true, keyOk := true, sigOk := true, digest := 99, size := 20000 }

def badImg : ImageInfo := { goodImg 9 with sigOk := false }

def bootS (f : Boot → Boot) : State := runS.modBoot f

/-- A start at step `k`. -/
def startS (k : Nat) (f : Boot → Boot) : State := (srv.modBoot (fun _ => f { Boot.reset with step := k, running := goodImg 3, committed := goodImg 3 }))

def busyS : State := { (runS.addCnt 0x600C 1 5) with mem := Memory.puts (Memory.puts [] 0x1000 d16) deepBase [5], host := Memory.puts [] 8 [1] } |>.modArr (fun a => {a with cells := [(5, 3)]}) |>.ySet 9 4

def acc1 (h : Option Nat) : ScalarAccess := { ctx := ctx 14, job := none, op := .ld 4 0x40000000000, hold := h, sent := false }

def dsc0 : Desc :=
  { id := 3, inHost := false, addr := 0x8000, data := 5, ctx := none, job := none, taken := 0, lone := true, status := 0, done := 0, moved := false }

def dmaHeld : State := runS.modDma (fun x => { x with run := some { chan := 5, left := 2, hold := some 450, tag := none, data := none } }) |>.modChan 5 (fun c => { c with acc := [dsc0, dsc0] })

def ldX (t : State) : Transact := t.media.waiting.getLastD t.backingWrite

def lastT (t : State) : Transact := t.media.trans.getLastD t.backingWrite

def ldA (t : State) : BitVec 12 := match (ldX t).data with | .ledger _ a => a | _ => 0

/-- One byte of the CRC-32. -/
def crcByte (c : BitVec 32) (b : Byte) : BitVec 32 :=
  (List.range 8).foldl (fun x _ => crc32Bit x) (c ^^^ b.zeroExtend 32)

theorem crc32_eq (bs : List Byte) : crc32 bs = ~~~ (bs.foldl crcByte 0xFFFFFFFF#32) := rfl

/-- The CRC-32 of the table record, in pieces of 32 bytes. -/
theorem tab_crc : crc32 (zeroCheck tabBytes 4) = 0xC7371115#32 := by
  have h0 : zeroCheck tabBytes 4 = leBytes 16 (3 + 256) ++ (List.replicate 32 0x88 ++ (List.replicate 32 0x88
      ++ (List.replicate 32 0x88 ++ List.replicate 32 0x88))) := by decide +kernel
  have h1 : (leBytes 16 (3 + 256)).foldl crcByte 0xFFFFFFFF#32 = 0x8377DBB0#32 := by decide +kernel
  have h2 : (List.replicate 32 (0x88 : Byte)).foldl crcByte 0x8377DBB0#32 = 0x0890CA04#32 := by decide +kernel
  have h3 : (List.replicate 32 (0x88 : Byte)).foldl crcByte 0x0890CA04#32 = 0xCFAD691B#32 := by decide +kernel
  have h4 : (List.replicate 32 (0x88 : Byte)).foldl crcByte 0xCFAD691B#32 = 0x8EF50A4E#32 := by decide +kernel
  have h5 : (List.replicate 32 (0x88 : Byte)).foldl crcByte 0x8EF50A4E#32 = 0x38C8EEEA#32 := by decide +kernel
  rw [crc32_eq, h0, List.foldl_append, List.foldl_append, List.foldl_append, List.foldl_append, h1, h2, h3, h4, h5]
  decide

theorem tab_gets : Memory.gets (runS.putMem 0x8000 tabBytes).mem 0x8000 144 = tabBytes := by decide +kernel

/-- The record's check is the CRC-32 of its bytes. -/
theorem tab_ok {a : Nat} (h : a = 0x8000) : (crc32 (zeroCheck (Memory.gets (runS.putMem 0x8000 tabBytes).mem a 144) 4)).toNat
    = bits (leNat (Memory.gets (runS.putMem 0x8000 tabBytes).mem a 144)) 32 32 := by
  rw [h, tab_gets, tab_crc]; decide +kernel

/-- The slot it names holds no table. -/
theorem tab_free {a : Nat} (h : a = 0x8000) (t : DecodeTable) (e : (runS.putMem 0x8000 tabBytes).table
    (leNat (Memory.gets (runS.putMem 0x8000 tabBytes).mem a 144) % 64) = some t) :
    t.tver ≠ fld (leNat (Memory.gets (runS.putMem 0x8000 tabBytes).mem a 144)) 8 8 := by
  have n : (runS.putMem 0x8000 tabBytes).table
      (leNat (Memory.gets (runS.putMem 0x8000 tabBytes).mem 0x8000 144) % 64) = none := by decide +kernel
  rw [h, n] at e; cases e

/-! ### Flits with a check field -/

theorem leBytes_above (n a c : Nat) : leBytes n (a + c * 256 ^ n) = leBytes n a := by
  induction n generalizing a with
  | zero => rfl
  | succ k ih =>
    have h : a + c * 256 ^ (k + 1) = a + c * 256 ^ k * 256 := by rw [Nat.pow_succ, Nat.mul_assoc]
    have e : BitVec.ofNat 8 (a + c * 256 ^ k * 256) = BitVec.ofNat 8 a := by
      apply BitVec.eq_of_toNat_eq; simp only [BitVec.toNat_ofNat]; omega
    rw [leBytes, h, Nat.add_mul_div_right _ _ (by decide), ih, e, leBytes]

/-- A word with `k` given low bits and 32 given bits above them. -/
theorem sealed_word (k b : Nat) (hb : b < 2 ^ k) (c : BitVec 32) : ∃ w : BitVec (32 + k),
    w.toNat = b + c.toNat * 2 ^ k ∧ BitVec.extractLsb' k 32 w = c := by
  have hc : c.toNat + 1 ≤ 2 ^ 32 := c.isLt
  have hm := Nat.mul_le_mul_right (2 ^ k) hc
  rw [← Nat.pow_add, Nat.add_mul] at hm
  have hw : (BitVec.ofNat (32 + k) (b + c.toNat * 2 ^ k)).toNat = b + c.toNat * 2 ^ k := by
    rw [BitVec.toNat_ofNat, Nat.mod_eq_of_lt]; omega
  refine ⟨_, hw, ?_⟩
  apply BitVec.eq_of_toNat_eq
  rw [BitVec.extractLsb'_toNat, hw, Nat.shiftRight_eq_div_pow, Nat.add_mul_div_right _ _ (Nat.two_pow_pos k),
    Nat.div_eq_of_lt hb, Nat.zero_add, Nat.mod_eq_of_lt c.isLt]

/-- The low bits and the low bytes of such a word. -/
theorem sealed_low (n b c : Nat) : leBytes n (b + c * 2 ^ (8 * n)) = leBytes n b := by
  rw [Nat.pow_mul]; exact leBytes_above n b c

theorem sealed_mod (n b c : Nat) (hb : b < 2 ^ 14) : (b + c * 2 ^ (n + 14)) % 4 = b % 4
    ∧ (b + c * 2 ^ (n + 14)) / 4 % 4096 = b / 4 := by
  have hd : c * 2 ^ (n + 14) = c * 2 ^ n * 16384 := by rw [Nat.pow_add, Nat.mul_assoc]
  rw [hd]; omega

/-- A flit that begins with the given TYPE and SEQ bits, is 0 up to byte 124, and has the given check field. -/
theorem sealed_flit (b : Nat) (hb : b < 2 ^ 14) (c : BitVec 32) : ∃ w : BitVec 1024, w.toNat % 4 = b % 4
    ∧ w.toNat / 4 % 4096 = b / 4 ∧ leBytes 124 w.toNat = leBytes 124 b ∧ BitVec.extractLsb' 992 32 w = c :=
  have ⟨w, h, x⟩ := sealed_word 992 b (Nat.lt_of_lt_of_le hb (Nat.pow_le_pow_right (i := 14) (j := 978 + 14) Nat.two_pos
    (by decide))) c
  have ⟨p, q⟩ := sealed_mod 978 b c.toNat hb
  ⟨w, (congrArg (· % 4) h).trans p, (congrArg (· / 4 % 4096) h).trans q,
    (congrArg (leBytes 124) h).trans (sealed_low 124 b c.toNat), x⟩

/-- A flit whose check is right, with any TYPE and SEQ. -/
theorem good_flit (b : Nat) (hb : b < 2 ^ 14) : ∃ w : BitVec 1024,
    crc32 (leBytes 124 w.toNat) = BitVec.extractLsb' 992 32 w ∧ w.toNat % 4 = b % 4 ∧ w.toNat / 4 % 4096 = b / 4 :=
  have ⟨w, t, q, e, x⟩ := sealed_flit b hb (crc32 (leBytes 124 b))
  ⟨w, by rw [e, x], t, q⟩

/-- A flit whose check is wrong. -/
theorem bad_flit : ∃ w : BitVec 1024, ¬crc32 (leBytes 124 w.toNat) = BitVec.extractLsb' 992 32 w := by
  have ⟨w, _, _, e, x⟩ := sealed_flit 0 (by decide) (crc32 (leBytes 124 0) + 1)
  refine ⟨w, ?_⟩
  rw [e, x]
  generalize crc32 (leBytes 124 0) = c
  intro h; bv_omega

/-! ## Terms that `Instr.wf` refuses -/

/-- A control command stands in slot 0. -/
theorem test_wf_control :
    [Instr.jump (ctx 1) 0,
      .bnz (ctx 1) 1 0,
      .bz (ctx 1) 1 0,
      .loop (ctx 1) 1 0,
      .call (ctx 1) 0,
      .ret (ctx 1),
      .idle (ctx 1) 0,
      .trap (ctx 1) 0,
      .halt (ctx 1)].all (fun i => !i.wf) = true := by decide +kernel

/-- A sync command stands in slots 1 and 2. -/
theorem test_wf_sync :
    [Instr.signal (ctx 0) 0 0,
      .set (ctx 3) 0 0,
      .setX (ctx 3) 0 0,
      .waitGe (ctx 0) 0 0,
      .waitGeX (ctx 3) 0 0,
      .signalPeer (ctx 0) 0 0].all (fun i => !i.wf) = true := by decide +kernel

/-- LAUNCH stands in slots 3 to 6. -/
theorem test_wf_launch :
    [Instr.launch (ctx 2) 0 0 0,
      .launch (ctx 7) 0 0 0].all (fun i => !i.wf) = true := by decide +kernel

/-- A matrix command stands in slots 7 and 8. -/
theorem test_wf_matrix :
    [Instr.matmul (ctx 6) false 1 0,
      .matmulAcc (ctx 9) false 1 0,
      .matmulX (ctx 6) false 1 0,
      .matmulXAcc (ctx 9) false 1 0,
      .accStore (ctx 6) false 1 0,
      .accLoad (ctx 9) false 1 0,
      .outerAcc (ctx 6) false 1 0].all (fun i => !i.wf) = true := by decide +kernel

/-- A vector or rotation command stands in slots 9 and 10. -/
theorem test_wf_vector :
    [Instr.run (ctx 8) 1 0,
      .config (ctx 11) 1 0,
      .rotate (ctx 8) 1 0].all (fun i => !i.wf) = true := by decide +kernel

/-- A stream command stands in slots 11 and 12. -/
theorem test_wf_stream :
    [Instr.jobTake (ctx 10) 0 0,
      .jobDone (ctx 13) 0 0,
      .ringPush (ctx 10) 0 0].all (fun i => !i.wf) = true := by decide +kernel

/-- A channel or move command stands in slot 13. -/
theorem test_wf_move :
    [Instr.submit (ctx 12) 0 0,
      .migrate (ctx 14) 0,
      .prefetch (ctx 12) 0].all (fun i => !i.wf) = true := by decide +kernel

/-- A scalar command stands in slot 14. -/
theorem test_wf_scalar :
    [Instr.addi (ctx 13) 1 1 0,
      .add (ctx 15) 1 1,
      .sub (ctx 13) 1 1,
      .and (ctx 15) 1 1,
      .or (ctx 13) 1 1,
      .shli (ctx 15) 1 1 0,
      .shri (ctx 13) 1 1 0,
      .movhi (ctx 15) 1 0,
      .ld (ctx 13) 1 1 0,
      .st (ctx 15) 1 1 0,
      .dictRd (ctx 13) 1 1,
      .dictWr (ctx 15) 1 1,
      .cyc (ctx 13) 1,
      .syncRd (ctx 15) 1 1,
      .tagjob (ctx 13) 1 1].all (fun i => !i.wf) = true := by decide +kernel

/-- The device has arrays 0 to 16,895. -/
theorem test_wf_array_number :
    [Instr.phaseEnd 0 [16896],
      .repeatPhaseEnd 0 [16896],
      .resultDiscarded 16896 0 0,
      .shadeRecheck 16896 true [] [] true,
      .shadeRecheck 0 true [List.replicate 129 0] [] true,
      .shadeRecheck 0 true [] [List.replicate 513 0] true,
      .oldHomeErase 16896 true,
      .marginSetRewrite 16896 0,
      .pulseVerifyLoop 16896 true,
      .arrayEraseEnd 16896 true,
      .maintenancePhaseEnd 16896 [] false].all (fun i => !i.wf) = true := by decide +kernel

/-- A group has at most 4,096 lines, a maintenance phase 128 codes, and there are 148 domains. -/
theorem test_wf_counts :
    [Instr.lineVisible 0 4096,
      .maintenancePhaseEnd 0 (List.replicate 129 0) false,
      .domainOff 148,
      .domainWakeEnd 148].all (fun i => !i.wf) = true := by decide +kernel

/-- An access has at most 4,096 bytes. -/
theorem test_wf_access :
    [Instr.masterAccess .host 0 (.read 4097),
      .masterAccess .host 0 (.write (List.replicate 4097 0)),
      .barAccess .pf0 .config 0 (.read 4097)].all (fun i => !i.wf) = true := by decide +kernel

/-- A packet carries at most 16 units, and 256 bytes of data. -/
theorem test_wf_packets :
    [Instr.cascadeWrite 0 { ptype := 0, dst := 1, src := 2, srcEpoch := 0, units := 17, hops := 0, addr := 0, rtag := 0, arg := 0 } [],
      .readRsp 0 { ptype := 0, dst := 1, src := 2, srcEpoch := 0, units := 1, hops := 0, addr := 0, rtag := 0, arg := 0 } (List.replicate 257 0),
      .ringRec 0 { ptype := 0, dst := 1, src := 2, srcEpoch := 0, units := 17, hops := 0, addr := 0, rtag := 0, arg := 0 } []].all (fun i => !i.wf) = true := by decide +kernel

/-- A segment carries at most 240 bytes. -/
theorem test_wf_segments :
    [Instr.segmentReceive .host { version := 1, sync := false, service := 1, seq := 0, segIndex := 0, segCount := 1, target := 0, targetV := false, payload := List.replicate 241 0 },
      .dict 0 { ptype := 0, dst := 1, src := 2, srcEpoch := 0, units := 1, hops := 0, addr := 0, rtag := 0, arg := 0 } { version := 1, sync := false, service := 1, seq := 0, segIndex := 0, segCount := 1, target := 0, targetV := false, payload := List.replicate 241 0 },
      .dictRsp 0 { ptype := 0, dst := 1, src := 2, srcEpoch := 0, units := 1, hops := 0, addr := 0, rtag := 0, arg := 0 } { version := 1, sync := false, service := 1, seq := 0, segIndex := 0, segCount := 1, target := 0, targetV := false, payload := List.replicate 241 0 }].all (fun i => !i.wf) = true := by decide +kernel

/-- A dictionary value or a window access has at most 4,096 bytes, a frame 65,535 and an echo 1,514. -/
theorem test_wf_requests :
    [Instr.read .host { index := 0x1000, sub := 1, type := 7, want := 4097, data := [] },
      .write .host { index := 0x1000, sub := 1, type := 7, want := 0, data := List.replicate 4097 0 },
      .windowDataRead .host 4097,
      .windowDataWrite .host (List.replicate 4097 0),
      .dictionaryWrite .host 0 0 (List.replicate 4097 0),
      .deepWrite .host 0 (List.replicate 4097 0),
      .frameReceive (List.replicate 65536 0),
      .icmpEcho 0 0 0 (List.replicate 1515 0)].all (fun i => !i.wf) = true := by decide +kernel

/-- The media have 1,536 blocks. -/
theorem test_wf_store_blocks :
    [Instr.storePageProgramEnd 1536 0 true true,
      .storePageReadEnd .media 1536 0 0 false,
      .storeBlockEraseEnd 1536 true,
      .storeEraseSuspend 1536].all (fun i => !i.wf) = true := by decide +kernel

/-- Well-formed commands are accepted. -/
theorem test_wf_accepts : [Instr.jump (ctx 0) 5, .signal (ctx 1) 0 0, .launch (ctx 6) 0 0 0, .accStore (ctx 8) false 1 0,
    .rotate (ctx 10) 1 0, .ringPush (ctx 12) 0 0, .submit (ctx 13) 0 0, .movhi (ctx 14) 1 0, .phaseEnd 3 [16895],
    .domainOff 147, .lineVisible 3 4095, .masterAccess .host 0 (.read 4096), .storeScrub].all Instr.wf = true := by
  decide +kernel

/-! ## Values worked out in the manual -/

/-- The worked example after R37: 176 rows convert at 8 bits in 418 cycles, 512 rows at 9 bits in 440. -/
theorem test_phase_lengths :
    (convBits 176, phaseLen (convBits 176), convBits 512, phaseLen (convBits 512)) = (8, 418, 9, 440) := by decide

/-- R184's example: the A8 code 0xFF drives 15 in the low digit's phase and -1 in the high digit's. -/
theorem test_a8_digits : (digit true 0 [0xFF] 0, digit true 1 [0xFF] 0) = (15, -1) := by decide

/-- The example after R120: A = 128 gives 3,657, and 2,742 above 90 °C. -/
theorem test_replanned_ceiling :
    (replannedCeiling 4096 128 100, replannedCeiling 4096 128 75) = (3657, 2742) := by decide

/-- The worked example after R204, with its values in BF16: exponent -4, codes 84, -1, 0 and 0, one counted in NZERO. -/
theorem test_quantise_group :
    let q := quantGroup 3 none [fBf16.decode 0x40A9, fBf16.decode 0xBD8F, fBf16.decode 0x3D4C, fBf16.decode 0]
    (q.scale, q.pats, q.zeros, q.clips) = (0xFC, [84, 255, 0, 0], 1, 0) := by decide +kernel

/-- The worked example of the adapter step: m2, u and W in FP32 (W = 0.2187140), and the BF16 copy 0.2177734375. -/
theorem test_adapter_weight :
    let m := toWord (.fin false 40 (-14))
    let g := toWord ((decodeFp8 0x4B).scale (-12))
    let m2 := fadd (fsub m (fscale m (-3))) (fscale g (-3))
    toBf16 (fp32 (fsub (toWord (.fin false 7 (-5))) (fscale m2 (-6)))) = 0x3E5F := by decide +kernel

/-- CRC-8 of R98 and CRC-32 of IEEE 802.3 on the digits 1 to 9, whose check values are published. -/
theorem test_crc :
    let nine : List Byte := (List.range 9).map (fun k => BitVec.ofNat 8 (49 + k))
    (crc8 nine, crc32 nine) = (0xF4#8, 0xCBF43926#32) := by decide +kernel

/-- SHA-256 of the published example `abc`. -/
theorem test_sha256 : beNat (sha256 ([0x61, 0x62, 0x63] : List Byte)) =
    0xba7816bf8f01cfea414140de5dae2223b00361a396177a9cb410ff61f20015ad := by decide +kernel

/-! ## Single steps -/

/-- One step on a command, read through `f`; none where the step gives no next state. -/
def after {α : Type} (i : Instr) (s : State) (f : State → α) : Option α :=
  match step { s with pending := [i] } with
  | .next t => some (f t)
  | _ => none

/-- ADDI sign-extends its immediate: 3 + (-5) wraps below zero. -/
theorem test_addi_wraps : after (.addi (ctx 14) 4 2 0x1FB) runS (fun t => t.x 4) = some 0xFFFFFFFFFFFFFFFE := by
  decide +kernel

/-- X0 discards a write. -/
theorem test_addi_x0 : after (.addi (ctx 14) 0 1 1) runS (fun t => (t.x 0, t.x 1)) = some (0, 40) := by decide +kernel

/-- SUB takes the source from the destination. -/
theorem test_sub : after (.sub (ctx 14) 2 1) runS (fun t => (t.x 2, t.x 1)) = some (0xFFFFFFFFFFFFFFDB, 40) := by
  decide +kernel

/-- MOVHI shifts in 9 bits. -/
theorem test_movhi : after (.movhi (ctx 14) 2 0x1FF) runS (fun t => t.x 2) = some 0x7FF := by decide +kernel

/-- LOOP counts X1 down and goes to the bundle it names. -/
theorem test_loop : after (.loop (ctx 0) 1 77) runS (fun t => (t.x 1, t.seq.pc)) = some (39, 77) := by decide +kernel

/-- CALL keeps the next bundle's index and goes to its target. -/
theorem test_call : after (.call (ctx 0) 300) runS (fun t => (t.seq.stack, t.seq.pc)) = some ([8], 300) := by
  decide +kernel

/-- TRAP writes its record and leaves the bundle's index. -/
theorem test_trap : after (.trap (ctx 0) 9) runS (fun t => (t.seq.excHead, t.seq.pc)) = some (1, 7) := by decide +kernel

/-- SIGNAL wraps at 32 bits. -/
theorem test_signal_wraps :
    after (.signal (ctx 1) 6 3) (runS.ySet 6 0xFFFFFFFE) (fun t => (t.y 6, t.y 5)) = some (1, 0) := by decide +kernel

/-- WAIT_GE compares the difference as a signed number, so a value that has wrapped past the operand passes. -/
theorem test_wait_ge_x_wraps :
    after (.waitGeX (ctx 1) 6 4) ((runS.xSet 4 0xFFFFFFFE).ySet 6 1) (fun t => t.seq.st) = some .running := by
  decide +kernel

/-- A doorbell of channel 0 over BAR0 is CH_TAIL_0 (the worked example of the PCI Express chapter). -/
theorem test_bar_doorbell :
    after (.barAccess .pf0 (.bar 0) 0x10100 (.write [5, 0, 0, 0])) srv (fun t => t.dma) = after (.chTail 0 5) srv (fun t => t.dma) := by
  decide +kernel

/-- At reset nothing waits and the block only lets time pass. -/
theorem test_reset_idles : (match step State.reset with | .next t => t.pending.length | _ => 1) = 0 := by decide +kernel

/-- A RET with nothing on the stack writes an exception record and stays. -/
theorem test_ret_empty : after (.ret (ctx 0)) runS (fun t => (t.seq.excHead, t.seq.pc)) = some (1, 7) := by decide +kernel

/-! ## Hypotheses met: one theorem for each obligation, one state for each clause -/

theorem witness_StepsKeepSound : ∃ s t : State, s.Sound ∧ step s = .next t :=
  ⟨State.reset, idleCycle State.reset,
   ⟨by decide, by decide, by decide, by decide, by decide, by decide⟩, rfl⟩

/-! ### Sequencer -/

theorem witness_EmptyQueueLetsTimePass : (∃ (s : State), (s.pending = [])) :=
  ⟨srv, by decide +kernel⟩

theorem witness_AnswersTouchPathsOnly : (∃ (s : State) (m : Master), m = .bundle → ∀ a d x y,
    s.seq.access = some a → a.op ≠ .dictRd d x y) :=
  ⟨srv, .bundle, fun _ _ _ _ _ h => nomatch h⟩

theorem witness_ControlSlots :
    (∃ (s : State), (s.inRank = false) ∧ (s.seq.haltOwed = none)) ∧
    (∃ (s : State) (r : BitVec 5), (s.inRank = false) ∧ (s.seq.haltOwed = none) ∧ (s.x r ≠ 0)) ∧
    (∃ (s : State) (r : BitVec 5), (s.inRank = false) ∧ (s.seq.haltOwed = none) ∧ (1 < BitVec.toNat (s.x r))) ∧
    (∃ (s : State), (s.inRank = false) ∧ (s.seq.haltOwed = none) ∧ (s.seq.stack.length < 8)) ∧
    (∃ (s : State) (m : BitVec 16), (s.inRank = false) ∧ (s.seq.haltOwed = none) ∧ (m ≠ 0)
      ∧ ((s.readRings m).maskedWork m = false)) ∧
    (∃ (s : State), (s.seq.haltOwed = none)) ∧
    (∃ (s : State) (r : BitVec 5), (s.inRank = false) ∧ (s.seq.haltOwed = none) ∧ (s.x r = 1)) ∧
    (∃ (s : State) (r : BitVec 5), (s.inRank = false) ∧ (s.seq.haltOwed = none) ∧ (s.x r = 0)) ∧
    (∃ (s : State) (m : BitVec 16), (s.inRank = false) ∧ (s.seq.haltOwed = none) ∧ (m ≠ 0)
      ∧ ((s.readRings m).maskedWork m = true)) ∧
    (∃ (s : State) (b : BitVec 16) (rest : List (BitVec 16)), (s.inRank = false) ∧ (s.seq.haltOwed = none)
      ∧ (s.seq.stack = b :: rest)) ∧
    (∃ (s : State) (m : BitVec 16), (s.inRank = false) ∧ (s.seq.haltOwed = none) ∧ (s.seq.st = SeqState.idle)
      ∧ (s.seq.idle = some m) ∧ ((s.readRings m).maskedWork m = true)) :=
  ⟨⟨runS, by decide +kernel⟩,
   ⟨runS, 1, by decide +kernel⟩,
   ⟨runS, 1, by decide +kernel⟩,
   ⟨runS, by decide +kernel⟩,
   ⟨runS, 1, by decide +kernel⟩,
   ⟨runS, by decide +kernel⟩,
   ⟨runS, 3, by decide +kernel⟩,
   ⟨runS, 0, by decide +kernel⟩,
   ⟨withJob, 4, by decide +kernel⟩,
   ⟨stk 7, 9, [10, 11, 12, 13, 14, 15], by decide +kernel⟩,
   ⟨withJob.modSeq (fun q => { q with st := .idle, idle := some 4 }), 4, by decide +kernel⟩⟩

theorem witness_CallStackBounds :
    (∃ (s : State), (s.seq.haltOwed = none) ∧ (8 ≤ s.seq.stack.length)) ∧
    (∃ (s : State) (b : BitVec 16) (rest : List (BitVec 16)), (s.seq.haltOwed = none) ∧ (s.seq.stack = b :: rest)) ∧
    (∃ (s : State), (s.seq.haltOwed = none) ∧ (s.gated blkSeq = false) ∧ (s.inRank = false) ∧ (s.clk.due = [])
      ∧ (s.seq.planned ≤ s.clk.cycle) ∧ (s.seq.st = SeqState.running) ∧ (s.bundleNow = 0) ∧ (s.canIssue 0 = true)
      ∧ (s.fetchChoices s.seq.pc.toNat = [0])) ∧
    (∃ (s : State), (s.seq.haltOwed = none)) ∧
    (∃ (s : State), (s.seq.haltOwed = none) ∧ (s.seq.stack = [])) ∧
    (∃ (s : State), (s.seq.haltOwed = none) ∧ (s.seq.stack.length < 8)) :=
  ⟨⟨stk 8, by decide +kernel⟩,
   ⟨stk 8, 9, [10, 11, 12, 13, 14, 15, 16], by decide +kernel⟩,
   ⟨stk 8, by decide +kernel⟩,
   ⟨(stk 8).setEnt 0x4100 5 1, by decide +kernel⟩,
   ⟨stk 0, by decide +kernel⟩,
   ⟨stk 0, by decide +kernel⟩⟩

theorem witness_SyncSlots :
    (∃ (s : State), (s.seq.haltOwed = none)) ∧
    (∃ (s : State) (o : BitVec 14) (a : BitVec 14), (s.seq.haltOwed = none) ∧ (a.toNat ≤ BitVec.toNat (s.y o.toNat))) ∧
    (∃ (s : State) (o : BitVec 14) (r : BitVec 5), (s.seq.stall = none)
      ∧ (BitVec.toInt (s.y o.toNat - BitVec.truncate 32 (s.x r)) < 0)) ∧
    (∃ (s : State) (o : BitVec 14) (a : BitVec 14), (s.seq.stall = none) ∧ (BitVec.toNat (s.y o.toNat) < a.toNat)) ∧
    (∃ (s : State) (d : BitVec 5), (s.seq.haltOwed = none) ∧ (s.rolePresent d.toNat = true) ∧ (s.casc.role = d)
      ∧ (s.casc.roleV = true)) ∧
    (∃ (s : State) (o : BitVec 14) (r : BitVec 5), (s.seq.haltOwed = none)
      ∧ (0 ≤ BitVec.toInt (s.y o.toNat - BitVec.truncate 32 (s.x r)))) ∧
    (∃ (s : State), (s.inRank = false)) ∧
    (∃ (s : State), (s.gated blkSeq = false)) ∧
    (∃ (s : State), (s.gated blkSeq = true)) ∧
    (∃ (s : State) (d : BitVec 5), (s.seq.haltOwed = none) ∧ (s.rolePresent d.toNat = true) ∧ (s.casc.role ≠ d)
      ∧ (s.isMember d = true)) ∧
    (∃ (s : State) (d : BitVec 5), (s.seq.haltOwed = none) ∧ (s.rolePresent d.toNat = true)
      ∧ (s.casc.role ≠ d ∨ s.casc.roleV = false) ∧ (s.isMember d = false)) :=
  ⟨⟨runS.ySet 5 0xFFFFFFFF, by decide +kernel⟩,
   ⟨runS.ySet 5 0xFFFFFFFF, 5, 1, by decide +kernel⟩,
   ⟨runS.ySet 5 0xFFFFFFFF, 5, 1, by decide +kernel⟩,
   ⟨runS.ySet 5 39, 5, 40, by decide +kernel⟩,
   ⟨runS.modCasc (fun c => { c with roleV := true, role := 3, map := [(3, { mapRoleDefault 0 with st := .active })] }),
     3, by decide +kernel⟩,
   ⟨runS.ySet 5 40, 5, 1, by decide +kernel⟩,
   ⟨runS.ySet 5 39, by decide +kernel⟩,
   ⟨runS.ySet 5 39, by decide +kernel⟩,
   ⟨runS.modClk (fun c => { c with running := 0 }), by decide +kernel⟩,
   ⟨rank 1 runS, 2, by decide +kernel⟩,
   ⟨(rank 1 runS).modCasc (fun c => { c with map := c.map ++ [(9, { mapRoleDefault 0 with st := .active, rank := 1 })], routes := c.routes ++ [(9, some 0)] }),
     9, by decide +kernel⟩⟩

theorem witness_ScalarArithmetic :
    (∃ (r : BitVec 5), (r ≠ 0)) ∧
    (∃ (r : BitVec 5) (q : BitVec 5), (q ≠ r)) ∧
    (∃ (s : State), (s.seq.haltOwed = none)) :=
  ⟨⟨1, by decide +kernel⟩,
   ⟨1, 0, by decide +kernel⟩,
   ⟨runS, by decide +kernel⟩⟩

theorem witness_ScalarAccesses :
    (∃ (s : State) (r : BitVec 5) (i : BitVec 9), (s.seq.haltOwed = none)
      ∧ (BitVec.toNat (s.x r + BitVec.signExtend 64 i <<< 3) % 8 = 0)
      ∧ (inBuffer (BitVec.toNat (s.x r + BitVec.signExtend 64 i <<< 3)) 8 = true) ∧ (s.gated blkBuffer = false)) ∧
    (∃ (s : State), (s.seq.haltOwed = none)) ∧
    (∃ (s : State) (r : BitVec 5) (i : BitVec 9), (s.seq.haltOwed = none)
      ∧ (BitVec.toNat (s.x r + BitVec.signExtend 64 i <<< 3) % 8 = 0)
      ∧ (inBuffer (BitVec.toNat (s.x r + BitVec.signExtend 64 i <<< 3)) 8 = false)) ∧
    (∃ (s : State) (r : BitVec 5) (i : BitVec 9), (s.seq.haltOwed = none) ∧ (s.ent? 16640 5 = 0)
      ∧ (BitVec.toNat (s.x r + BitVec.signExtend 64 i <<< 3) % 8 ≠ 0)) ∧
    (∃ (s : State) (x : ScalarAccess) (d : BitVec 5) (a : Nat), (s.seq.access = some x) ∧ (x.op = ScalarOp.ld d a)
      ∧ (s.inDeep a 8 = true) ∧ (s.bulkPaused = false)) ∧
    (∃ (s : State) (x : ScalarAccess), (s.seq.access = some x) ∧ (s.clk.ratioLost &&& s.scalarRatios x ≠ 0)) ∧
    (∃ (s : State) (r : BitVec 5) (i : BitVec 9), (s.seq.haltOwed = none)
      ∧ (BitVec.toNat (s.x r + BitVec.signExtend 64 i <<< 3) % 8 = 0)
      ∧ (inBuffer (BitVec.toNat (s.x r + BitVec.signExtend 64 i <<< 3)) 8 = true) ∧ (s.gated blkBuffer = true)) :=
  ⟨⟨runS, 1, 0, by decide +kernel⟩,
   ⟨runS, by decide +kernel⟩,
   ⟨runS, 1, 0x100, by decide +kernel⟩,
   ⟨runS, 2, 0, by decide +kernel⟩,
   ⟨acc0 (.ld 2 (deepBase + 64)),
     { ctx := ctx 14, job := none, op := .ld 2 (deepBase + 64), hold := none, sent := false }, 2, deepBase + 64,
     by decide +kernel⟩,
   ⟨(acc0 (.ld 2 (deepBase + 64))).modClk (fun c => { c with ratioLost := 7 }),
     { ctx := ctx 14, job := none, op := .ld 2 (deepBase + 64), hold := none, sent := false }, by decide +kernel⟩,
   ⟨(runS.modClk (fun c => { c with running := 0 })), 1, 0, by decide +kernel⟩⟩

theorem witness_SequencerControl :
    (∃ (s : State) (m : Master), (s.entryReady m 16640 1) ∧ (s.inRank = false) ∧ (s.seqActive = false)
      ∧ (s.boot.stopped = false)) ∧
    (∃ (s : State) (m : Master), (s.entryReady m 16640 1) ∧ (s.seqActive = true) ∧ (s.inRank = false)) ∧
    (∃ (s : State) (m : Master), (s.entryReady m 16640 1) ∧ (s.seqActive = true)) ∧
    (∃ (s : State) (m : Master), (s.entryReady m 16640 1) ∧ (s.inRank = true) ∧ (s.seqActive = false)
      ∧ (s.boot.stopped = false) ∧ (s.isRankMaster = true)) ∧
    (∃ (s : State) (m : Master), (s.entryReady m 16640 1) ∧ (s.inRank = true) ∧ (s.seqActive = false)
      ∧ (s.boot.stopped = false) ∧ (s.isRankMaster = false)) ∧
    (∃ (s : State) (m : Master), (s.entryReady m 16640 1) ∧ (s.seqActive = true) ∧ (s.inRank = true)) :=
  ⟨⟨srv, .core 0, by decide +kernel⟩,
   ⟨withJob, .t1 5, by decide +kernel⟩,
   ⟨withJob, .t1 5, by decide +kernel⟩,
   ⟨rank 1 srv, .t1 5, by decide +kernel⟩,
   ⟨rank 2 srv, .t1 5, by decide +kernel⟩,
   ⟨rank 2 runS, .t1 5, by decide +kernel⟩⟩

theorem witness_BundleIssues :
    (∃ (s : State) (w : BitVec 512), (s.gated blkSeq = false) ∧ (s.inRank = false) ∧ (s.clk.due = [])
      ∧ (s.seq.planned ≤ s.clk.cycle) ∧ (s.fetchChoices s.seq.pc.toNat = [w]) ∧ (s.bundleNow = w)
      ∧ (s.canIssue w = true) ∧ (s.seq.st = SeqState.running)) ∧
    (∃ (s : State) (w : BitVec 512), (s.gated blkSeq = false) ∧ (s.inRank = false) ∧ (s.clk.due = [])
      ∧ (s.seq.planned ≤ s.clk.cycle) ∧ (s.fetchChoices s.seq.pc.toNat = [w]) ∧ (s.bundleNow = w)
      ∧ (s.canIssue w = true) ∧ (s.seq.st = SeqState.stalled)) ∧
    (∃ (s : State) (w : BitVec 512), (s.gated blkSeq = false) ∧ (s.inRank = false) ∧ (s.clk.due = [])
      ∧ (s.seq.planned ≤ s.clk.cycle) ∧ (s.fetchChoices s.seq.pc.toNat = [w]) ∧ (s.bundleNow = w)
      ∧ (s.canIssue w = false) ∧ (s.seq.st = SeqState.running)) :=
  ⟨⟨runS, 0, by decide +kernel⟩,
   ⟨(runS.modSeq (fun q => { q with st := .stalled, stall := some stall0 })), 0, by decide +kernel⟩,
   ⟨runS.putMem (ibufBase + 64 * 7) (leBytes 64 waitW.toNat), waitW, by decide +kernel⟩⟩

/-! ### Ranks -/

theorem witness_RankIssueWords :
    (∃ (s : State) (o : BitVec 5), (s.isMember o = true) ∧ (s.seq.st = SeqState.running)
      ∧ (s.seq.planned < s.clk.cycle + 24 - s.pathDelay o.toNat)) ∧
    (∃ (s : State), (s.inRank = true) ∧ (s.issuing SeqState.running = true) ∧ (s.checked = false)
      ∧ (s.checkCycle ≤ s.clk.cycle) ∧ (((readIdle s.bundleNow s).asOf s.checkCycle).canIssue s.bundleNow = true)) ∧
    (∃ (s : State), (s.inRank = true) ∧ (s.issuing SeqState.running = true) ∧ (s.checked = false)
      ∧ (s.checkCycle ≤ s.clk.cycle)) ∧
    (∃ (s : State), (s.inRank = true) ∧ (s.issuing SeqState.running = true) ∧ (s.checked = false)
      ∧ (s.checkCycle ≤ s.clk.cycle) ∧ (s.seq.stall = none)) ∧
    (∃ (s : State) (o : BitVec 5), (s.isMember o = true) ∧ (s.isRankMaster = true) ∧ (s.casc.lock.releaseAt = none)
      ∧ (s.casc.lock.holds ≠ []) ∧ (s.seq.planned ≤ s.clk.cycle) ∧ (∀ (r : BitVec 5),
      r ∈ s.casc.lock.holds → r ∈ (List.foldr addOnce s.casc.lock.readies (addOnce o (List.filter (fun r => decide (r ≠ s.casc.role) && decide (s.lastHop r = s.lastHop o)) s.casc.lock.holds))))) ∧
    (∃ (s : State) (o : BitVec 5), (s.isMember o = true) ∧ (s.isRankMaster = false)) ∧
    (∃ (s : State) (o : BitVec 5), (s.isMaster o = true)) ∧
    (∃ (s : State), (s.inRank = true) ∧ (s.issuing SeqState.running = true) ∧ (s.checked = false)
      ∧ (s.checkCycle ≤ s.clk.cycle) ∧ (((readIdle s.bundleNow s).asOf s.checkCycle).canIssue s.bundleNow = false)
      ∧ (s.seq.stall = none)) ∧
    (∃ (s : State) (o : BitVec 5), (s.isMember o = true)
      ∧ (s.seq.st ≠ SeqState.running ∨ s.clk.cycle + 24 - s.pathDelay o.toNat ≤ s.seq.planned)) :=
  ⟨⟨rank 1 runS, 2, by decide +kernel⟩,
   ⟨rank 1 runS, by decide +kernel⟩,
   ⟨rank 1 runS, by decide +kernel⟩,
   ⟨rank 1 runS, by decide +kernel⟩,
   ⟨lock (fun l => { l with holds := [2, 1], readies := [1], latest := 90 }) (rank 1 runS), 2, by decide +kernel⟩,
   ⟨rank 2 runS, 2, by decide +kernel⟩,
   ⟨rank 2 runS, 2, by decide +kernel⟩,
   ⟨accS (.tagjob 1 2) (rank 2 runS), by decide +kernel⟩,
   ⟨(rank 2 runS).modSeq (fun q => { q with planned := 5000 }), 2, by decide +kernel⟩⟩

theorem witness_RankAgreement :
    (∃ (s : State) (o : BitVec 5) (r : BitVec 5) (v : BitVec 24), (s.isMember o = true)
      ∧ (r ∈ List.map (fun r => BitVec.ofNat 5 r) s.rankMembers)
      ∧ ((fun r => Option.map (fun w => w.snd) (List.find? (fun w => decide (w.fst = r)) (s.casc.lock.words ++ [(o, v)]))) r = none)) ∧
    (∃ (s : State), (s.inRank = true) ∧ (s.isRankMaster = true) ∧ (s.clk.due = []) ∧ (s.seqClockRuns = true)) ∧
    (∃ (s : State) (o : BitVec 5) (r : BitVec 5) (v : BitVec 24) (w : BitVec 24), (s.isMember o = true)
      ∧ (s.isRankMaster = true) ∧ (∀ (r : BitVec 5),
      r ∈ List.map (fun r => BitVec.ofNat 5 r) s.rankMembers → (fun r => Option.map (fun w => w.snd) (List.find? (fun w => decide (w.fst = r)) (s.casc.lock.words ++ [(o, v)]))) r = some w)) ∧
    (∃ (s : State) (o : BitVec 5) (r : BitVec 5) (v : BitVec 24), (s.isMember o = true) ∧ (s.isRankMaster = true)
      ∧ (∀ (r : BitVec 5),
      r ∈ List.map (fun r => BitVec.ofNat 5 r) s.rankMembers → (fun r => Option.map (fun w => w.snd) (List.find? (fun w => decide (w.fst = r)) (s.casc.lock.words ++ [(o, v)]))) r ≠ none)
      ∧ (o ∈ List.map (fun r => BitVec.ofNat 5 r) s.rankMembers)
      ∧ ((fun r => Option.map (fun w => w.snd) (List.find? (fun w => decide (w.fst = r)) (s.casc.lock.words ++ [(o, v)]))) o ≠ (fun r => Option.map (fun w => w.snd) (List.find? (fun w => decide (w.fst = r)) (s.casc.lock.words ++ [(o, v)]))) r)
      ∧ (r ∈ List.map (fun r => BitVec.ofNat 5 r) s.rankMembers)) ∧
    (∃ (s : State) (o : BitVec 5), (s.isMember o = true) ∧ (s.isRankMaster = false)) ∧
    (∃ (s : State) (o : BitVec 5) (v : BitVec 24), (s.isMaster o = true) ∧ (o ≠ s.casc.role)
      ∧ ((v.toNat + s.pathDelay o.toNat) % 2 ^ 24 = s.rankCycle % 2 ^ 24)) ∧
    (∃ (s : State) (o : BitVec 5) (v : BitVec 24), (s.isMaster o = true) ∧ (o ≠ s.casc.role)
      ∧ ((v.toNat + s.pathDelay o.toNat) % 2 ^ 24 ≠ s.rankCycle % 2 ^ 24)) ∧
    (∃ (s : State) (o : BitVec 5), (s.isMaster o = true) ∧ (s.seqActive = false) ∧ (s.boot.stopped = false)) ∧
    (∃ (s : State) (o : BitVec 5), (s.isMember o = true)) ∧
    (∃ (s : State) (o : BitVec 5) (v : BitVec 24), (s.isMember o = true) ∧ (s.clk.due = []) ∧ (s.clk.frac < tickUnits)
      ∧ (s.clk.secTicks < 25000000) ∧ (s.clk.cycle < s.cycleOfRank v.toNat + 25)) :=
  ⟨⟨rank 1 runS, 2, 1, 100, by decide +kernel⟩,
   ⟨rank 1 runS, by decide +kernel⟩,
   ⟨lock (fun l => { l with words := [(1, 100)] }) (rank 1 runS), 2, 1, 100, 100, by decide +kernel⟩,
   ⟨lock (fun l => { l with words := [(1, 101)] }) (rank 1 runS), 2, 1, 100, by decide +kernel⟩,
   ⟨rank 2 runS, 2, by decide +kernel⟩,
   ⟨rank 2 runS, 2, BitVec.ofNat 24 ((rank 2 runS).rankCycle + 2 ^ 24 - (rank 2 runS).pathDelay 2), by decide +kernel⟩,
   ⟨rank 2 runS, 2, 99, by decide +kernel⟩,
   ⟨rank 2 srv, 2, by decide +kernel⟩,
   ⟨rank 2 srv, 2, by decide +kernel⟩,
   ⟨rank 2 srv, 2, 99, by decide +kernel⟩⟩

/-! ### Phases -/

theorem witness_LaunchChecks :
    (∃ (s : State) (d : BitVec 20) (b : BitVec 2), (s.seq.haltOwed = none) ∧ (s.waitingOps < 16)
      ∧ (s.gated blkBuffer = false) ∧ (s.gated blkReducers = false)
      ∧ (inBuffer (128 * d.toNat) (groupHdr (numAt s.mem (128 * d.toNat) 64)).size = true)
      ∧ (checkGroup (groupHdr (numAt s.mem (128 * d.toNat) 64)) (128 * d.toNat) (if b = 0 then 0 else BitVec.toNat (s.x (BitVec.ofNat 5 (2 * b.toNat)))) (if b = 0 then 0 else BitVec.toNat (s.x (BitVec.ofNat 5 (2 * b.toNat + 1)))) (readLines s.mem (128 * d.toNat + 64) (groupHdr (numAt s.mem (128 * d.toNat) 64)).lines) (readMembers s.mem (128 * d.toNat + 64 + 16 * (groupHdr (numAt s.mem (128 * d.toNat) 64)).lines) (groupHdr (numAt s.mem (128 * d.toNat) 64)).members) = none)) ∧
    (∃ (s : State) (d : BitVec 20) (b : BitVec 2) (f : DescFault), (s.seq.haltOwed = none) ∧ (s.waitingOps < 16)
      ∧ (s.gated blkBuffer = false) ∧ (s.gated blkReducers = false) ∧ (inBuffer (128 * d.toNat) 64 = true)
      ∧ (inBuffer (128 * d.toNat) (groupHdr (numAt s.mem (128 * d.toNat) 64)).size = true)
      ∧ (checkGroup (groupHdr (numAt s.mem (128 * d.toNat) 64)) (128 * d.toNat) (if b = 0 then 0 else BitVec.toNat (s.x (BitVec.ofNat 5 (2 * b.toNat)))) (if b = 0 then 0 else BitVec.toNat (s.x (BitVec.ofNat 5 (2 * b.toNat + 1)))) (readLines s.mem (128 * d.toNat + 64) (groupHdr (numAt s.mem (128 * d.toNat) 64)).lines) (readMembers s.mem (128 * d.toNat + 64 + 16 * (groupHdr (numAt s.mem (128 * d.toNat) 64)).lines) (groupHdr (numAt s.mem (128 * d.toNat) 64)).members) = some f)) ∧
    (∃ (s : State), (s.seq.haltOwed = none) ∧ (16 ≤ s.waitingOps)) :=
  ⟨⟨launchS 1, 1, 0, by decide +kernel⟩,
   ⟨launchS 65, 1, 0, { cause := causeRange, detail := 0x22, addr := 0xC0 }, by decide +kernel⟩,
   ⟨full16, by decide +kernel⟩⟩

theorem witness_PhasesRun :
    (∃ (s : State) (o : PhaseOp), (s.frontOp = some o) ∧ (s.mayAdmit o = true)
      ∧ (s.fits (s.admitCycle (s.formed o)) (s.formed o) = true) ∧ (s.clk.due = [])) ∧
    (∃ (s : State) (o : PhaseOp), (s.frontOp = some o) ∧ (s.mayAdmit o = false) ∧ (s.holdWait o = false)) ∧
    (∃ (s : State) (o : PhaseOp), (s.frontOp = some o) ∧ (s.mayAdmit o = true)
      ∧ (s.fits (s.admitCycle (s.formed o)) (s.formed o) = false)) ∧
    (∃ (s : State) (n : Nat) (o : PhaseOp), (s.getOp n = some o) ∧ (s.warned = false) ∧ (s.seqRate = true)
      ∧ (s.clk.due = []) ∧ (o.stage = PhaseStage.phase)) ∧
    (∃ (s : State) (n : Nat) (o : PhaseOp), (s.getOp n = some o) ∧ (s.warned = false) ∧ (s.seqRate = true)
      ∧ (s.clk.due = []) ∧ (o.stage = PhaseStage.testing)) ∧
    (∃ (s : State) (n : Nat) (o : PhaseOp), (s.getOp n = some o) ∧ (s.warned = false) ∧ (s.seqRate = true)
      ∧ (s.clk.due = []) ∧ (o.stage = PhaseStage.repeating)) ∧
    (∃ (s : State) (o : PhaseOp), (s.frontOp = some o) ∧ (s.holdWait o = true)) ∧
    (∃ (s : State) (n : Nat) (l : Nat) (o : PhaseOp) (r : LineRec), (s.getOp n = some o) ∧ (o.lines[l]? = some r)
      ∧ (o.stage = PhaseStage.ended) ∧ ((o.lineAcc l).visible = false) ∧ (s.clk.due = []) ∧ (o.failed = false)) :=
  ⟨⟨opS (op0 .waiting), op0 .waiting, by decide +kernel⟩,
   ⟨(opS { op0 .phase with id := 3 }).modDisp (fun d => { d with ops := d.ops ++ [op0 .waiting] }), op0 .waiting,
     by decide +kernel⟩,
   ⟨((opS { op0 .phase with id := 3, members := (List.range 128).map (fun k => { bank := 0, slot := k, first := 0, count := 1, line := 0, act := 0 }), phys := (List.range 128).map (fun k => (2 * k, k)), waves := [List.range 128] }).modDisp (fun d => { d with ops := d.ops ++ [{ op0 .waiting with members := [{ bank := 0, slot := 200, first := 0, count := 1, line := 0, act := 0 }] }] })),
     { op0 .waiting with members := [{ bank := 0, slot := 200, first := 0, count := 1, line := 0, act := 0 }] },
     by decide +kernel⟩,
   ⟨opS (op0 .phase), 4, op0 .phase, by decide +kernel⟩,
   ⟨opS { op0 .testing with mute := [0] }, 4, { op0 .testing with mute := [0] }, by decide +kernel⟩,
   ⟨opS { op0 .repeating with waves := [[]] }, 4, { op0 .repeating with waves := [[]] }, by decide +kernel⟩,
   ⟨(opS (op0 .waiting)).modPwr (fun p => { p with warn := 1 }), op0 .waiting, by decide +kernel⟩,
   ⟨opS { op0 .ended with waves := [] }, 4, 0, { op0 .ended with waves := [] },
     { mask := 1, banks := 1, dst := 0x4000, status := 0x5000 }, by decide +kernel⟩⟩

theorem witness_ResultTagsAreChecked :
    (∃ (s : State) (a : Nat) (e : BitVec 16) (g : BitVec 8), (e = (s.array a).redEpoch)
      ∧ ((s.array a).tagsOpen.contains g = true)) ∧
    (∃ (s : State) (a : Nat) (e : BitVec 16) (g : BitVec 8),
      (e ≠ (s.array a).redEpoch ∨ (s.array a).tagsOpen.contains g = false)) :=
  ⟨⟨runS.modArray 7 (fun p => { p with tagsOpen := [3] }), 7, 0, 3, by decide +kernel⟩,
   ⟨runS.modArray 7 (fun p => { p with st := .quarantined, qreason := 1 }), 7, 1, 3, by decide +kernel⟩⟩

/-! ### Engines -/

namespace Engines

def mtask : MatTask :=
  { id := 4, slot := 0, ctx := ctx 7, job := none, op := .accStore, bf16 := false, slices := 1, d := matDesc 0x4005,
    issued := 990, header := .unread, hdr := none, hdrAt := 0, got := [], extra := 0, pass := 0, expand := 0, fetch := 0, store := 0, start := 996, fin := 1000, writes := [(0x4000, [1, 2, 3, 4])],
    failed := false, hold := none }

def mq (n : Nat) (x : MatTask) (s : State) : State := s.modEng (fun e => { e with mq := [(0, List.replicate n x)] })

theorem witness_EngineSlotsQueue :
    (∃ (s : State) (c : SlotCtx) (f : Bool) (u : BitVec 8) (a : BitVec 20) (p : Instr × MatOp),
      (s.seq.haltOwed = none)
      ∧ (p ∈ [(Instr.matmul c f u a, MatOp.matmul), (Instr.matmulAcc c f u a, MatOp.matmulAcc), (Instr.matmulX c f u a, MatOp.matmulX), (Instr.matmulXAcc c f u a, MatOp.matmulXAcc), (Instr.accStore c f u a, MatOp.accStore), (Instr.accLoad c f u a, MatOp.accLoad), (Instr.outerAcc c f u a, MatOp.outerAcc)])
      ∧ (matrixFull (matSlot c) s = false) ∧ (s.gated blkBuffer = false)
      ∧ (p.snd.isX = true → s.gated blkExpanders = false) ∧ (inBuffer (128 * a.toNat) 128 = true) ∧ (u ≠ 0)
      ∧ (∀ (i : Nat), i ∈ sliceList u → s.unitUsable UnitKind.slice i = true)
      ∧ (checkMatrix s p.snd f u (matDesc (numAt s.mem (128 * a.toNat) 128)) (128 * a.toNat) = none)) ∧
    (∃ (s : State), (s.seq.haltOwed = none)) ∧
    (∃ (s : State) (c : SlotCtx) (f : Bool) (u : BitVec 8) (a : BitVec 20) (p : Instr × MatOp),
      (s.seq.haltOwed = none)
      ∧ (p ∈ [(Instr.matmul c f u a, MatOp.matmul), (Instr.matmulAcc c f u a, MatOp.matmulAcc), (Instr.matmulX c f u a, MatOp.matmulX), (Instr.matmulXAcc c f u a, MatOp.matmulXAcc), (Instr.accStore c f u a, MatOp.accStore), (Instr.accLoad c f u a, MatOp.accLoad), (Instr.outerAcc c f u a, MatOp.outerAcc)])
      ∧ (matrixFull (matSlot c) s = true)) ∧
    (∃ (s : State) (c : SlotCtx) (u : BitVec 8) (a : BitVec 20) (p : Instr × VecOp), (s.seq.haltOwed = none)
      ∧ (p ∈ [(Instr.run c u a, VecOp.run), (Instr.config c u a, VecOp.config), (Instr.rotate c u a, VecOp.rotate)])
      ∧ (vectorFull (vecSlot c) s = false) ∧ (s.gated blkBuffer = false) ∧ (inBuffer (128 * a.toNat) 128 = true)
      ∧ ((vecUnits p.snd u).snd ≠ []) ∧ (∀ (i : Nat),
      i ∈ (vecUnits p.snd u).snd → s.unitUsable (vecUnits p.snd u).fst i = true)
      ∧ ((vecCheck p.snd (vecUnits p.snd u).snd (vecDesc (numAt s.mem (128 * a.toNat) 128)) (128 * a.toNat) s).fst = none)) ∧
    (∃ (s : State) (c : SlotCtx) (u : BitVec 8) (a : BitVec 20) (p : Instr × VecOp), (s.seq.haltOwed = none)
      ∧ (p ∈ [(Instr.run c u a, VecOp.run), (Instr.config c u a, VecOp.config), (Instr.rotate c u a, VecOp.rotate)])
      ∧ (vectorFull (vecSlot c) s = true)) :=
  ⟨⟨runS, ctx 7, false, 1, 1, (.matmul (ctx 7) false 1 1, .matmul), by decide +kernel⟩,
   ⟨runS, by decide +kernel⟩,
   ⟨mq 4 mtask runS, ctx 7, false, 1, 1, (.outerAcc (ctx 7) false 1 1, .outerAcc), by decide +kernel⟩,
   ⟨runS, ctx 10, 1, 1, (.run (ctx 10) 1 1, .run), by decide +kernel⟩,
   ⟨vq 4 vtask runS, ctx 9, 1, 1, (.rotate (ctx 9) 1 1, .rotate), by decide +kernel⟩⟩

theorem witness_EngineTasksRun :
    (∃ (s : State) (slot : Fin 2) (x : MatTask) (rest : List MatTask), (s.clk.due = [])
      ∧ (tget noMat s.eng.mq slot.val = x :: rest) ∧ (x.slot = slot.val) ∧ (s.earlierShares x = false)
      ∧ (s.slicesBusy x = false) ∧ (∀ (i : Nat), i ∈ sliceList x.slices → s.dom (112 + i) = DomState.on)) ∧
    (∃ (s : State) (x : MatTask), (s.clk.due = []) ∧ (List.find? (fun y => decide (y.id = x.id)) s.eng.mrun = some x)
      ∧ (x.hold = none) ∧ (x.failed = false) ∧ (x.fin ≠ 0) ∧ (x.op.isX = true → x.header ≠ HeaderRead.unread)) ∧
    (∃ (s : State) (slot : Fin 2) (x : VecTask) (rest : List VecTask), (s.clk.due = [])
      ∧ (tget noVec s.eng.vq slot.val = x :: rest) ∧ (x.slot = slot.val) ∧ (∀ (y : VecTask),
      y ∈ s.eng.vrun → x.shares y = true → y.op ≠ VecOp.config) ∧ (∀ (k : Nat), k < 2 → ∀ (y : VecTask),
      y ∈ tget noVec s.eng.vq k → y.id < x.id → x.shares y = false) ∧ (∀ (i : Nat),
      i ∈ x.unitList → s.dom (unitDomain x.kind i) = DomState.on)) ∧
    (∃ (s : State), (s.clk.due = [])) ∧
    (∃ (s : State) (x : VecTask), (s.clk.due = []) ∧ (List.find? (fun y => decide (y.id = x.id)) s.eng.vrun = some x)
      ∧ (x.op ≠ VecOp.config) ∧ (x.stats = none) ∧ (x.fails = false) ∧ (x.broken = false)) ∧
    (∃ (s : State) (x : MatTask), (s.clk.due = []) ∧ (List.find? (fun y => decide (y.id = x.id)) s.eng.mrun = some x)
      ∧ (x.hold = none) ∧ (x.failed = true) ∧ (x.fin ≠ 0) ∧ (x.op.isX = true → x.header ≠ HeaderRead.unread)) ∧
    (∃ (s : State) (x : VecTask), (s.clk.due = []) ∧ (List.find? (fun y => decide (y.id = x.id)) s.eng.vrun = some x)
      ∧ (x.fails = true ∨ x.broken = true) ∧ (x.stats = none)) ∧
    (∃ (s : State) (x : VecTask) (im : Image), (s.clk.due = [])
      ∧ (List.find? (fun y => decide (y.id = x.id)) s.eng.vrun = some x) ∧ (x.op = VecOp.config) ∧ (x.image = some im)
      ∧ (x.stats = none) ∧ (x.fails = false) ∧ (x.broken = false)) ∧
    (∃ (s : State) (x : VecTask) (st : Stats), (s.clk.due = [])
      ∧ (List.find? (fun y => decide (y.id = x.id)) s.eng.vrun = some x) ∧ (x.op = VecOp.run) ∧ (x.stats = some st)
      ∧ (x.fails = false) ∧ (x.broken = false)
      ∧ (clipFails (List.foldl (fun m w => m.puts w.fst w.snd) s.mem x.writes) x st = false)) :=
  ⟨⟨mq 2 mtask runS, 0, mtask, [mtask], by decide +kernel⟩,
   ⟨runS.modEng (fun e => { e with mrun := [mtask] }), mtask, by decide +kernel⟩,
   ⟨vq 2 vtask runS, 0, vtask, [vtask], by decide +kernel⟩,
   ⟨vq 2 vtask runS, by decide +kernel⟩,
   ⟨runS.modEng (fun e => { e with vrun := [vtask] }), vtask, by decide +kernel⟩,
   ⟨runS.modEng (fun e => { e with mrun := [{ mtask with failed := true }] }), { mtask with failed := true },
     by decide +kernel⟩,
   ⟨runS.modEng (fun e => { e with vrun := [{ vtask with fails := true }] }), { vtask with fails := true },
     by decide +kernel⟩,
   ⟨runS.modEng (fun e => { e with vrun := [{ vtask with op := .config, units := 3, image := some { id := 5, cls := 1, passes := 1, bytes := [] } }] }),
     { vtask with op := .config, units := 3, image := some { id := 5, cls := 1, passes := 1, bytes := [] } },
     { id := 5, cls := 1, passes := 1, bytes := [] }, by decide +kernel⟩,
   ⟨runS.modEng (fun e => { e with vrun := [{ vtask with stats := some { n := 16, clips := 0, zeros := 3, nans := 0, zgs := 0, maxAbs := 5, need := 3, eUsed := 4 } }] }),
     { vtask with stats := some { n := 16, clips := 0, zeros := 3, nans := 0, zgs := 0, maxAbs := 5, need := 3, eUsed := 4 } },
     { n := 16, clips := 0, zeros := 3, nans := 0, zgs := 0, maxAbs := 5, need := 3, eUsed := 4 }, by decide +kernel⟩⟩

end Engines

/-! ### Units -/

namespace Units

def mtask : MatTask :=
  { id := 4, slot := 0, ctx := ctx 7, job := none, op := .matmulX, bf16 := false, slices := 1, d := matDesc (0x8000 * 2^144),
    issued := 990, header := .unread, hdr := none, hdrAt := 0, got := [], extra := 0, pass := 0, expand := 0, fetch := 0, store := 0, start := 996, fin := 1000, writes := [(0x4000, [1, 2, 3, 4])],
    failed := false, hold := none }

def mq (n : Nat) (x : MatTask) (s : State) : State := s.modEng (fun e => { e with mq := [(0, List.replicate n x)], tablePending := 1 })

def xq (x : MatTask) : State := runS.modEng (fun e => { e with mq := [(0, [{ mtask with op := .matmul, id := 3 }, x, mtask])], tablePending := 1 })

def hdrOf (b : Option (List Byte)) : MatTask := { mtask with id := 5, hdr := some { data := b } }

def blk : MatTask := { mtask with d := matDesc (0x8000 * 2 ^ 144 + 64 * 2 ^ 32 + 64 * 2 ^ 48 + 64 * 2 ^ 64), hdr := some { data := none }, header := .passed [] [], fin := 0, start := 0 }

def blkB : MatTask := { blk with d := matDesc (bulkBase * 2 ^ 144 + 64 * 2 ^ 32 + 64 * 2 ^ 48 + 64 * 2 ^ 64), hdr := none, header := .unread }

theorem witness_DecodeTables :
    (∃ (s : State) (m : Master) (v : DWord), (s.entryReady m 17152 1) ∧ (BitVec.toNat v % 2 ^ 48 % 64 = 0
      ∧ BitVec.toNat v % 2 ^ 48 + 144 ≤ bufferSize
      ∧ s.tableBusy (leNat (s.mem.gets (BitVec.toNat v % 2 ^ 48) 144) % 64) = false
      ∧ fld (leNat (s.mem.gets (BitVec.toNat v % 2 ^ 48) 144)) 8 8 ≠ 0 ∧ (∀ (t : DecodeTable),
      s.table (leNat (s.mem.gets (BitVec.toNat v % 2 ^ 48) 144) % 64) = some t → t.tver ≠ fld (leNat (s.mem.gets (BitVec.toNat v % 2 ^ 48) 144)) 8 8)
      ∧ lengthsOk (tableLengths (s.mem.gets (BitVec.toNat v % 2 ^ 48) 144)) = true
      ∧ (crc32 (zeroCheck (s.mem.gets (BitVec.toNat v % 2 ^ 48) 144) 4)).toNat = bits (leNat (s.mem.gets (BitVec.toNat v % 2 ^ 48) 144)) 32 32)) ∧
    (∃ (s : State) (m : Master) (k : BitVec 8), (s.entryReady m 17152 2) ∧ (k.toNat < 64)
      ∧ (s.tableBusy k.toNat = false)) ∧
    (∃ (s : State) (m : Master) (v : DWord), (s.entryReady m 17152 1) ∧ (¬(BitVec.toNat v % 2 ^ 48 % 64 = 0
      ∧ BitVec.toNat v % 2 ^ 48 + 144 ≤ bufferSize
      ∧ s.tableBusy (leNat (s.mem.gets (BitVec.toNat v % 2 ^ 48) 144) % 64) = false
      ∧ fld (leNat (s.mem.gets (BitVec.toNat v % 2 ^ 48) 144)) 8 8 ≠ 0 ∧ (∀ (t : DecodeTable),
      s.table (leNat (s.mem.gets (BitVec.toNat v % 2 ^ 48) 144) % 64) = some t → t.tver ≠ fld (leNat (s.mem.gets (BitVec.toNat v % 2 ^ 48) 144)) 8 8)
      ∧ lengthsOk (tableLengths (s.mem.gets (BitVec.toNat v % 2 ^ 48) 144)) = true
      ∧ (crc32 (zeroCheck (s.mem.gets (BitVec.toNat v % 2 ^ 48) 144) 4)).toNat = bits (leNat (s.mem.gets (BitVec.toNat v % 2 ^ 48) 144)) 32 32))) ∧
    (∃ (s : State) (m : Master) (k : BitVec 8), (s.entryReady m 17152 2) ∧ (k.toNat < 64)
      ∧ (s.tableBusy k.toNat = true)) ∧
    (∃ (s : State) (m : Master) (k : BitVec 8), (s.entryReady m 17152 2) ∧ (64 ≤ k.toNat)) :=
  ⟨⟨runS.putMem 0x8000 tabBytes, .core 0, 0x8000, ⟨by decide +kernel, by decide +kernel, by decide +kernel,
     by decide +kernel, by decide +kernel, tab_free (by decide), by decide +kernel, tab_ok (by decide)⟩⟩,
   ⟨runS.putMem 0x8000 tabBytes, .core 0, 63, by decide +kernel⟩,
   ⟨(runS.putMem 0x8000 tabBytes).modEng (fun e => { e with tablePending := 1 }), .core 0, 0x8001, by decide +kernel⟩,
   ⟨(runS.putMem 0x8000 tabBytes).modEng (fun e => { e with tablePending := 1 }), .core 0, 63, by decide +kernel⟩,
   ⟨runS, .core 0, 64, by decide +kernel⟩⟩

theorem witness_ExpanderReads :
    (∃ (s : State) (slot : Fin 2) (x : MatTask) (front : List MatTask) (rest : List MatTask) (f : FetchedHdr) (bs : List Byte),
      (s.slotTasks slot.val = front ++ x :: rest) ∧ (∀ (y : MatTask),
      y ∈ front → y.op.isX = false ∨ y.header ≠ HeaderRead.unread) ∧ (x.op.isX = true)
      ∧ (x.header = HeaderRead.unread) ∧ (x.hdr = some f) ∧ (f.data = some bs)
      ∧ (s.headerOk x.d (objHdr bs) (s.unitGuarded x.d.bAddr 64) = true)) ∧
    (∃ (s : State) (slot : Fin 2) (x : MatTask) (front : List MatTask) (rest : List MatTask) (f : FetchedHdr),
      (s.slotTasks slot.val = front ++ x :: rest) ∧ (∀ (y : MatTask),
      y ∈ front → y.op.isX = false ∨ y.header ≠ HeaderRead.unread) ∧ (x.op.isX = true)
      ∧ (x.header = HeaderRead.unread) ∧ (x.hdr = some f)) ∧
    (∃ (s : State) (slot : Fin 2) (x : MatTask) (front : List MatTask) (rest : List MatTask) (f : FetchedHdr),
      (s.slotTasks slot.val = front ++ x :: rest) ∧ (∀ (y : MatTask),
      y ∈ front → y.op.isX = false ∨ y.header ≠ HeaderRead.unread) ∧ (x.op.isX = true)
      ∧ (x.header = HeaderRead.unread) ∧ (x.hdr = some f) ∧ (f.data = none ∨ ∃ bs, f.data = some bs
      ∧ s.headerOk x.d (objHdr bs) (s.unitGuarded x.d.bAddr 64) = false)) ∧
    (∃ (s : State) (slot : Fin 2) (x : MatTask) (rest : List MatTask), (s.waitingFetch slot.val = none)
      ∧ (s.slotTasks slot.val = x :: rest) ∧ (x.op.isX = true) ∧ (x.hdr = none) ∧ (s.unitWaits x.d.bAddr 64 = false)
      ∧ (List.foldl (fun n y => n + y.heldBytes s.clk.cycle) 0 (List.map (fun y => ({ y with hold := none } : MatTask)) (x :: rest)) + 64 ≤ fetchBytes)) ∧
    (∃ (s : State) (slot : Fin 2) (x : MatTask) (rest : List MatTask), (s.waitingFetch slot.val = none)
      ∧ (s.slotTasks slot.val = x :: rest) ∧ (x.op.isX = true)) ∧
    (∃ (s : State) (slot : Fin 2) (x : MatTask) (rest : List MatTask) (p : Nat) (j : Nat) (c : Nat) (more : List (Nat × Nat × Nat)),
      (s.waitingFetch slot.val = none) ∧ (s.slotTasks slot.val = x :: rest) ∧ (x.op.isX = true) ∧ (x.hdr ≠ none)
      ∧ (List.drop x.got.length x.plan = (p, j, c) :: more)
      ∧ (s.blockWaits ((fun y => ({ y with hold := none } : MatTask)) x) c j = false)
      ∧ (List.foldl (fun n y => n + y.heldBytes s.clk.cycle) 0 (List.map (fun y => ({ y with hold := none } : MatTask)) (x :: rest)) + (s.fetchBlock ((fun y => ({ y with hold := none } : MatTask)) x) c j).size ≤ fetchBytes)) ∧
    (∃ (s : State) (slot : Fin 2) (x : MatTask) (rest : List MatTask), (s.waitingFetch slot.val = none)
      ∧ (s.slotTasks slot.val = x :: rest) ∧ (x.op.isX = true) ∧ (x.hdr = none) ∧ (s.unitWaits x.d.bAddr 64 = true)) ∧
    (∃ (s : State) (slot : Fin 2) (x : MatTask), (s.waitingFetch slot.val = some x) ∧ (s.fetchWaits x = true)
      ∧ (x.hold = none) ∧ (s.bulkPaused = false)) ∧
    (∃ (s : State) (slot : Fin 2) (x : MatTask), (s.waitingFetch slot.val = some x) ∧ (s.fetchWaits x = true)
      ∧ (x.hold ≠ none ∨ s.bulkPaused = true)) :=
  ⟨⟨xq (hdrOf (some objHdrBytes)), 0, hdrOf (some objHdrBytes), [{ mtask with op := .matmul, id := 3 }], [mtask],
     { data := some objHdrBytes }, objHdrBytes, by decide +kernel⟩,
   ⟨xq (hdrOf none), 0, hdrOf none, [{ mtask with op := .matmul, id := 3 }], [mtask], { data := none },
     by decide +kernel⟩,
   ⟨xq (hdrOf none), 0, hdrOf none, [{ mtask with op := .matmul, id := 3 }], [mtask], { data := none },
     by decide +kernel⟩,
   ⟨mq 1 { mtask with fin := 0 } runS, 0, { mtask with fin := 0 }, [], by decide +kernel⟩,
   ⟨mq 1 { mtask with fin := 0 } runS, 0, { mtask with fin := 0 }, [], by decide +kernel⟩,
   ⟨mq 1 blk runS, 0, blk, [], 0, 0, 0, [], by decide +kernel⟩,
   ⟨heldS (mq 1 blkB runS), 0, blkB, [], by decide +kernel⟩,
   ⟨heldS (runS.modEng (fun e => { e with mrun := [{ blkB with start := 990 }] })), 0, { blkB with start := 990 },
     by decide +kernel⟩,
   ⟨heldS (runS.modEng (fun e => { e with mrun := [{ blkB with hold := some 3 }] })), 0, { blkB with hold := some 3 },
     by decide +kernel⟩⟩

theorem witness_UnitPower :
    (∃ (s : State) (m : Master) (k : UnitKind) (v : BitVec 8), (s.entryReady m 16896 (unitEntry k))
      ∧ (v.toNat < 2 ^ unitCount k)) ∧
    (∃ (s : State) (m : Master) (k : UnitKind) (v : BitVec 8), (s.entryReady m 16896 (unitEntry k))
      ∧ (2 ^ unitCount k ≤ v.toNat)) ∧
    (∃ (s : State) (k : UnitKind) (d : Nat) (i : Nat), (domainUnit d = some (k, i))
      ∧ (s.eng.offPending.contains d = true) ∧ (s.unitBusy k i = false)) ∧
    (∃ (s : State) (k : UnitKind) (d : Nat) (i : Nat), (domainUnit d = some (k, i)) ∧ (s.dom d = DomState.waking)) ∧
    (∃ (s : State) (d : Nat), (domainUnit d = none) ∧ (s.dom d = DomState.waking) ∧ (¬(141 ≤ d ∧ d ≤ 144))) ∧
    (∃ (s : State) (d : Nat), (domainUnit d = none) ∧ (s.dom d = DomState.waking) ∧ (141 ≤ d) ∧ (d ≤ 144)
      ∧ (({ s with pwr := { s.pwr with dom := tset domDefault s.pwr.dom d DomState.on } } : State).portLive (d - 141) = true)
      ∧ ((s.port (d - 141)).st = PortState.down)) ∧
    (∃ (s : State) (d : Nat), (domainUnit d = none) ∧ (s.dom d = DomState.waking) ∧ (141 ≤ d) ∧ (d ≤ 144)
      ∧ (({ s with pwr := { s.pwr with dom := tset domDefault s.pwr.dom d DomState.on } } : State).portLive (d - 141) = false)) :=
  ⟨⟨srv.setEnt 0x4200 1 0xFF, .core 0, .slice, 0xFE, by decide +kernel⟩,
   ⟨srv.setEnt 0x4200 3 0x0, .core 0, .rotation, 0x10, by decide +kernel⟩,
   ⟨srv.modEng (fun e => { e with offPending := [119] }), .slice, 119, 7, by decide +kernel⟩,
   ⟨(srv.setDom 119 .waking).modEng (fun e => { e with acc := [(28672, 5)] }), .slice, 119, 7, by decide +kernel⟩,
   ⟨srv.setDom 140 .waking, 140, by decide +kernel⟩,
   ⟨srv.setDom 141 .waking, 141, by decide +kernel⟩,
   ⟨((srv.setDom 141 .waking).modClk (fun c => { c with running := 0 })), 141, by decide +kernel⟩⟩

theorem witness_StreamSlots :
    (∃ (s : State) (q : BitVec 4), (s.seq.haltOwed = none) ∧ (s.gated blkStream = false)
      ∧ ((s.stream q.toNat).cur = none) ∧ ((s.stream q.toNat).inb.fill = 0)) ∧
    (∃ (s : State), (s.seq.haltOwed = none) ∧ (s.gated blkStream = false)) ∧
    (∃ (s : State) (q : BitVec 4), (s.seq.haltOwed = none) ∧ (s.gated blkStream = false)
      ∧ ((s.stream q.toNat).cur = none)) ∧
    (∃ (s : State) (q : BitVec 4), (s.seq.haltOwed = none) ∧ (s.gated blkStream = false)
      ∧ ((s.stream q.toNat).cur = none) ∧ ((s.stream q.toNat).st = StreamState.enabled)
      ∧ ((s.stream q.toNat).inb.fill ≠ 0) ∧ (((s.readRing q.toNat).jobAt q.toNat 0).marker = false)
      ∧ ((s.readRing q.toNat).late q.toNat ((s.readRing q.toNat).jobAt q.toNat 0) = false) ∧ (s.boot.stopped = false)) ∧
    (∃ (s : State) (q : BitVec 4), (s.seq.haltOwed = none) ∧ (s.gated blkStream = false)
      ∧ ((s.stream q.toNat).cur ≠ none)) ∧
    (∃ (s : State) (q : BitVec 4) (j : Job), (s.seq.haltOwed = none) ∧ (s.gated blkStream = false)
      ∧ ((s.stream q.toNat).cur = some j) ∧ ((s.stream q.toNat).closedByDone < 4)) ∧
    (∃ (s : State) (q : BitVec 4) (j : Job), (s.seq.haltOwed = none) ∧ (s.gated blkStream = false)
      ∧ ((s.stream q.toNat).cur = some j) ∧ (4 ≤ (s.stream q.toNat).closedByDone)) ∧
    (∃ (s : State) (q : BitVec 4) (r : BitVec 5), (s.seq.haltOwed = none) ∧ (s.gated blkStream = false)
      ∧ ((s.stream q.toNat).st = StreamState.enabled) ∧ (BitVec.toNat (s.x r) % 64 = 0)
      ∧ (inBuffer (BitVec.toNat (s.x r)) 64 = true) ∧ ((s.stream q.toNat).pushq.length < 4)) ∧
    (∃ (s : State) (q : BitVec 4), (s.seq.haltOwed = none) ∧ (s.gated blkStream = false)
      ∧ (4 ≤ (s.stream q.toNat).pushq.length)) :=
  ⟨⟨str2 (fun b => { b with inb := ring 0x1000 3 3 }), 2, by decide +kernel⟩,
   ⟨str2 (fun b => { b with inb := ring 0x1000 3 3 }), by decide +kernel⟩,
   ⟨str2 (fun b => { b with inb := ring 0x1000 3 3 }), 2, by decide +kernel⟩,
   ⟨str2 id, 2, by decide +kernel⟩,
   ⟨str2 (fun b => { b with cur := some (aJob 1), closing := List.replicate 3 { aJob 0 with byDone := true } }), 2,
     by decide +kernel⟩,
   ⟨str2 (fun b => { b with cur := some (aJob 1), closing := List.replicate 3 { aJob 0 with byDone := true } }), 2,
     aJob 1, by decide +kernel⟩,
   ⟨str2 (fun b => { b with cur := some (aJob 1), closing := List.replicate 4 { aJob 0 with byDone := true } }), 2,
     aJob 1, by decide +kernel⟩,
   ⟨(str2 (fun b => { b with cur := some (aJob 1), pushq := [push0, push0, push0] })).xSet 1 0x80, 2, 1,
     by decide +kernel⟩,
   ⟨(str2 (fun b => { b with cur := some (aJob 1), pushq := [push0, push0, push0, push0] })).xSet 1 0x80, 2,
     by decide +kernel⟩⟩

theorem witness_RecordsMoveOn :
    (∃ (s : State) (q : BitVec 4) (p : Push) (rest : List Push), ((s.stream q.toNat).pushq = p :: rest)
      ∧ (s.pushReady q.toNat p = true) ∧ (s.clk.due = [])) ∧
    (∃ (s : State) (q : BitVec 4) (p : Push) (rest : List Push), ((s.stream q.toNat).pushq = p :: rest)
      ∧ (s.pushReady q.toNat p = true) ∧ (s.clk.due = []) ∧ ((s.stream q.toNat).placed = []) ∧ (∀ (k : Nat),
      k < 4 → ((s.stream q.toNat).recv k).kind = 0)) ∧
    (∃ (s : State) (q : BitVec 4) (k : BitVec 2), (((s.stream q.toNat).recv k.toNat).rst ≠ RecvState.detached)) ∧
    (∃ (s : State) (q : BitVec 4) (k : BitVec 2), (((s.stream q.toNat).recv k.toNat).kind ≠ 0)
      ∧ (((s.stream q.toNat).recv k.toNat).rst = RecvState.detached)
      ∧ (max 1 ((s.stream q.toNat).recv k.toNat).rejoinFree ≤ s.recvFree q.toNat k.toNat)) ∧
    (∃ (s : State) (q : BitVec 4) (k : BitVec 2) (p : Placed) (i : Nat),
      ((s.stream q.toNat).firstFor k.toNat = some (p, i)) ∧ (((s.stream q.toNat).recv k.toNat).attached = true)
      ∧ (s.recvFree q.toNat k.toNat ≠ 0) ∧ (((s.stream q.toNat).recv k.toNat).kind = 2)) :=
  ⟨⟨str2 (fun b => { b with pushq := [push0, push0] }), 2, push0, [push0], by decide +kernel⟩,
   ⟨str2 (fun b => { b with pushq := [push0, push0] }), 2, push0, [push0], by decide +kernel⟩,
   ⟨str2 (fun b => { b with pushq := [push0, push0] }), 2, 0, by decide +kernel⟩,
   ⟨str2 (fun b => { b with placed := [{ data := List.replicate 64 7, waits := [0], sent := [] }], recvs := [(0, { rcv 3 3 with rst := .detached, rejoinFree := 4 })], outb := ring 0x2000 0 1 }),
     2, 0, by decide +kernel⟩,
   ⟨(str2 (fun b => { b with placed := [{ data := List.replicate 64 7, waits := [0], sent := [] }], recvs := [(0, { rcv 2 3 with device := 1 })], outb := ring 0x2000 0 1 })).modFar 2 0 (fun x => { x with free := 2, slots := 4 }),
     2, 0, { data := List.replicate 64 7, waits := [0], sent := [] }, 0, by decide +kernel⟩⟩

end Units

/-! ### Streams -/

theorem witness_StreamWrites :
    (∃ (s : State) (q : BitVec 4) (v : BitVec 256), (s.gated blkStream = false) ∧ (s.recvOk v.toNat = true)
      ∧ ((s.stream q.toNat).st = StreamState.disabled) ∧ (v.toNat % 4 ≠ 0)) ∧
    (∃ (s : State) (q : BitVec 4), (s.gated blkStream = false) ∧ ((s.stream q.toNat).st ≠ StreamState.enabled)) ∧
    (∃ (s : State) (m : Master) (v : BitVec 16), (s.entryReady m 17408 3) ∧ (s.str.enable = none) ∧ (∀ (n : Nat),
      n < 16 → (s.streamEnable &&& ~~~v).getLsbD n = true → (s.stream n).st ≠ StreamState.enabled → enableRefused n (s.streamEnable &&& ~~~v) s = 0
      ∧ (s.stream n).ofKind 2 = [])) ∧
    (∃ (s : State) (m : Master) (v : BitVec 16), (s.entryReady m 17408 3) ∧ (∃ n, n < 16
      ∧ (s.streamEnable ||| v).getLsbD n = true ∧ (s.stream n).st ≠ StreamState.enabled
      ∧ enableRefused n (s.streamEnable ||| v) s ≠ 0)) ∧
    (∃ (s : State) (q : BitVec 4) (k : BitVec 2) (v : BitVec 256), (s.gated blkStream = false)
      ∧ ((s.stream q.toNat).st ≠ StreamState.disabled) ∧ (v.toNat % 4 ≠ 0)
      ∧ (((s.stream q.toNat).recv k.toNat).rst = RecvState.attached)) ∧
    (∃ (s : State) (v : BitVec 256), (s.gated blkStream = false) ∧ (s.recvOk v.toNat = false)) ∧
    (∃ (s : State) (q : BitVec 4) (k : BitVec 2) (w : BitVec 16), (s.gated blkStream = false)
      ∧ (((s.stream q.toNat).recv k.toNat).kind = 3) ∧ (w.toNat < 2 * ((s.stream q.toNat).recv k.toNat).hostSlots)
      ∧ ((w.toNat + 2 * ((s.stream q.toNat).recv k.toNat).hostSlots - ((s.stream q.toNat).recv k.toNat).hostHead) % (2 * ((s.stream q.toNat).recv k.toNat).hostSlots) ≤ ((s.stream q.toNat).recv k.toNat).hostFill)) ∧
    (∃ (s : State) (q : BitVec 4) (k : BitVec 2), (s.gated blkStream = false)
      ∧ (((s.stream q.toNat).recv k.toNat).kind ≠ 3) ∧ ((s.stream q.toNat).st ≠ StreamState.disabled)
      ∧ (((s.stream q.toNat).recv k.toNat).rst = RecvState.attached)) ∧
    (∃ (s : State) (q : BitVec 4) (w : BitVec 16), (s.gated blkStream = false)
      ∧ ((s.stream q.toNat).st = StreamState.enabled) ∧ (s.boot.stopped = false) ∧ (s.localProducer q.toNat = false)
      ∧ (s.remoteProducer q.toNat = false) ∧ (w.toNat < 2 * (s.stream q.toNat).inb.slots)
      ∧ ((s.stream q.toNat).inb.fill ≤ ({ (s.stream q.toNat).inb with tail := w.toNat } : Ring).fill)
      ∧ (({ (s.stream q.toNat).inb with tail := w.toNat } : Ring).fill ≤ (s.stream q.toNat).inb.slots)) ∧
    (∃ (s : State) (m : Master) (v : BitVec 16), (s.entryReady m 17408 3) ∧ (s.str.enable = none) ∧ (∀ (n : Nat),
      n < 16 → (s.streamEnable ||| v).getLsbD n = true → (s.stream n).st ≠ StreamState.enabled → enableRefused n (s.streamEnable ||| v) s = 0
      ∧ (s.stream n).ofKind 2 = [])) ∧
    (∃ (s : State) (q : BitVec 4) (k : BitVec 2) (v : BitVec 256), (s.gated blkStream = false)
      ∧ (s.recvOk v.toNat = true) ∧ ((s.stream q.toNat).st ≠ StreamState.disabled ∨ v.toNat % 4 = 0)
      ∧ (((s.stream q.toNat).recv k.toNat).rst ≠ RecvState.attached)) ∧
    (∃ (s : State) (q : BitVec 4) (k : BitVec 2) (v : BitVec 256) (w : BitVec 16), (s.gated blkStream = false)
      ∧ (((s.stream q.toNat).recv k.toNat).kind ≠ 3)
      ∧ ((s.stream q.toNat).st = StreamState.disabled ∨ ((s.stream q.toNat).recv k.toNat).rst ≠ RecvState.attached)
      ∧ (v.toNat = ({ (s.stream q.toNat).recv k.toNat with hostHead := w.toNat } : Receiver).written)) ∧
    (∃ (s : State) (m : Master) (v : BitVec 16), (s.entryReady m 17408 3) ∧ (s.str.enable = none)
      ∧ (List.flatMap (fun n => List.map (fun k => (n,
      k)) ((s.stream n).ofKind 2)) (List.filter (fun n => (s.streamEnable ||| v).getLsbD n && decide ((s.stream n).st ≠ StreamState.enabled)) streamNums) ≠ [])
      ∧ (∀ (n : Nat),
      n < 16 → (s.streamEnable ||| v).getLsbD n = true → (s.stream n).st ≠ StreamState.enabled → enableRefused n (s.streamEnable ||| v) s = 0)) :=
  ⟨⟨str2 (fun b => { b with st := .disabled }), 2, 1, by decide +kernel⟩,
   ⟨str2 (fun b => { b with st := .disabled }), 2, by decide +kernel⟩,
   ⟨str2 (fun b => { b with st := .disabled }), .host, 1, by decide +kernel⟩,
   ⟨str2 (fun b => { b with st := .disabled }), .host, 1, by decide +kernel⟩,
   ⟨str2 (fun b => { b with recvs := [(3, { rcv 3 0 with hostTail := 7, hostHead := 4 })] }), 2, 3,
     BitVec.ofNat 256 (3 + 2 * 2 ^ 128), by decide +kernel⟩,
   ⟨str2 (fun b => { b with recvs := [(3, { rcv 3 0 with hostTail := 7, hostHead := 4 })] }),
     BitVec.ofNat 256 (3 + 2 * 2 ^ 128), by decide +kernel⟩,
   ⟨str2 (fun b => { b with recvs := [(3, { rcv 3 0 with hostTail := 7, hostHead := 4 })] }), 2, 3, 7,
     by decide +kernel⟩,
   ⟨str2 id, 2, 3, by decide +kernel⟩,
   ⟨str2 id, 2, 4, by decide +kernel⟩,
   ⟨str2 id, .core 1, 4, by decide +kernel⟩,
   ⟨str2 (fun b => { b with recvs := [(3, { rcv 3 0 with rst := .detached })] }), 2, 3, 0, by decide +kernel⟩,
   ⟨str2 (fun b => { b with recvs := [(3, { rcv 1 5 with rst := .detached })] }), 2, 3,
     BitVec.ofNat 256 ({ rcv 1 5 with hostHead := 7 } : Receiver).written, 7, by decide +kernel⟩,
   ⟨str2 (fun b => { b with st := .disabled, recvs := [(3, { rcv 2 3 with device := 1 })] }), .core 1, 4,
     by decide +kernel⟩⟩

theorem witness_HeadRecords :
    (∃ (s : State) (q : BitVec 4) (i : BitVec 16), ((s.stream q.toNat).indexes.contains i.toNat = true)
      ∧ (tget noRec (s.stream q.toNat).readRecs i.toNat = none)) ∧
    (∃ (s : State) (q : BitVec 4) (i : BitVec 16), (tget noRec (s.stream q.toNat).readRecs i.toNat ≠ none)) ∧
    (∃ (s : State) (q : BitVec 4), ((s.stream q.toNat).st = StreamState.enabled) ∧ ((s.stream q.toNat).cur = none)
      ∧ ((s.stream q.toNat).inb.fill ≠ 0) ∧ (((s.readRing q.toNat).jobAt q.toNat 0).marker = true)
      ∧ ((s.stream q.toNat).closedOther < 64)) ∧
    (∃ (s : State) (q : BitVec 4), ((s.stream q.toNat).st = StreamState.enabled) ∧ ((s.stream q.toNat).cur = none)
      ∧ ((s.stream q.toNat).inb.fill ≠ 0) ∧ (((s.readRing q.toNat).jobAt q.toNat 0).marker = false)
      ∧ ((s.stream q.toNat).skipLate = true) ∧ (((s.readRing q.toNat).jobAt q.toNat 0).deadlineV = true)
      ∧ ((s.stream q.toNat).closedOther < 64) ∧ (s.passed ((s.readRing q.toNat).jobAt q.toNat 0).deadline = true)) :=
  ⟨⟨str2 id, 2, 0, by decide +kernel⟩,
   ⟨str2 (fun b => { b with readRecs := [(0, some 5)] }), 2, 0, by decide +kernel⟩,
   ⟨recAt (2 ^ 32) (str2 (fun b => { b with closing := List.replicate 63 (aJob 1) })), 2, by decide +kernel⟩,
   ⟨recAt (2 ^ 33 + 400 * 2 ^ 64) (str2 (fun b => { b with settings := 2 })), 2, by decide +kernel⟩⟩

theorem witness_JobsEnd :
    (∃ (s : State) (q : BitVec 4) (j : Job) (rest : List Job), ((s.stream q.toNat).closing = j :: rest)
      ∧ (s.jobReady q.toNat j = true) ∧ (s.clk.due = []) ∧ (j.deadlineV = false ∨ (s.stream q.toNat).rt = false)) ∧
    (∃ (s : State) (q : BitVec 4) (k : Word) (j : Job) (queued : Bool),
      ((s.readRing q.toNat).findJob q.toNat (BitVec.toNat k) = some (j, queued)) ∧ ((s.stream q.toNat).rt = true)
      ∧ (j.deadlineV = true) ∧ (j.missed = false) ∧ (s.passed j.deadline = true)) ∧
    (∃ (s : State) (q : BitVec 4) (k : Word) (j : Job) (queued : Bool),
      ((s.readRing q.toNat).findJob q.toNat (BitVec.toNat k) = some (j, queued))
      ∧ (j.deadlineV = false ∨ (s.stream q.toNat).rt = false)) :=
  ⟨⟨str2 (fun b => { b with closing := [aJob 1], st := .stopping, settings := 2 ^ 18 + 16 * 9 }), 2, aJob 1, [],
     by decide +kernel⟩,
   ⟨str2 (fun b => { b with cur := some { aJob 1 with deadlineV := true, deadline := 400 }, settings := 1 + 4 + 2 ^ 46 + 9 * 2 ^ 32, misses := 0xFFFFFFFF }),
     2, 1, { aJob 1 with deadlineV := true, deadline := 400 }, false, by decide +kernel⟩,
   ⟨str2 (fun b => { b with cur := some (aJob 1) }), 2, 1, aJob 1, false, by decide +kernel⟩⟩

theorem witness_WaitsAndGrants :
    (∃ (s : State) (x : Stall), (s.seq.stall = some x) ∧ (s.seq.st = SeqState.stalled) ∧ (x.held = false)
      ∧ (s.ent? 16640 6 ≠ 0) ∧ (s.waitsOn = true) ∧ (∀ (e : Nat),
      s.waitEnds = some e → x.tick + usTicks (s.ent? 16640 6) < e)) ∧
    (∃ (s : State) (x : Stall), (s.seq.stall = some x) ∧ (s.ent? 16640 6 = 0)) ∧
    (∃ (s : State) (x : Stall), (s.seq.stall = some x) ∧ (s.seq.st = SeqState.stalled) ∧ (x.held = false)
      ∧ ((s.toTick (x.tick + usTicks x.window)).localCycle = true)) ∧
    (∃ (s : State), (s.seq.stall = none)) ∧
    (∃ (s : State) (t : TierCtl) (r : TierReq), ((s.readRings 65535).nextReq t = some r)
      ∧ (((s.readRings 65535).tierQ t).grants + 1 < 16)) ∧
    (∃ (s : State) (t : TierCtl) (n : Nat) (r : TierReq),
      (List.find? (fun y => decide (y.id = n)) (s.tierQ t).reqs = some r)
      ∧ (r.arrival + usTicks (s.ent? 17408 5) ≤ s.clk.ticks)) ∧
    (∃ (s : State) (x : Stall) (e : Nat), (s.seq.stall = some x) ∧ (s.waitEnds = some e)
      ∧ (e ≤ x.tick + usTicks (s.ent? 16640 6))) ∧
    (∃ (s : State) (x : Stall), (s.seq.stall = some x) ∧ (s.seq.st = SeqState.stalled) ∧ (x.held = false)
      ∧ ((s.toTick (x.tick + usTicks x.window)).localCycle = false)
      ∧ ((s.toTick (x.tick + usTicks x.window)).remoteEdges ≠ []) ∧ (x.probed = false)
      ∧ ((s.toTick (x.tick + usTicks x.window)).isRankMaster = true)) :=
  ⟨⟨waitB.setEnt 0x4100 6 1, { since := 900, tick := 400, window := 100, held := false, probed := false },
     by decide +kernel⟩,
   ⟨(waitB.setEnt 0x4100 6 0).putMem (streamBase + 0x2000 + 10) (leBytes 2 (2 ^ 15)),
     { since := 900, tick := 400, window := 100, held := false, probed := false }, by decide +kernel⟩,
   ⟨(waitB.setEnt 0x4100 6 0).putMem (streamBase + 0x2000 + 10) (leBytes 2 (2 ^ 15)),
     { since := 900, tick := 400, window := 100, held := false, probed := false }, by decide +kernel⟩,
   ⟨{ runS.setEnt 0x4400 5 1 with deepQ := { reqs := [req0 3], given := [0, 0, 0], grants := 14 } },
     by decide +kernel⟩,
   ⟨{ runS.setEnt 0x4400 5 1 with deepQ := { reqs := [req0 3], given := [0, 0, 0], grants := 14 } }, .deep, req0 3,
     by decide +kernel⟩,
   ⟨{ runS.setEnt 0x4400 5 1 with deepQ := { reqs := [req0 3], given := [0, 0, 0], grants := 14 } }, .deep, 3, req0 3,
     by decide +kernel⟩,
   ⟨(waitB.setEnt 0x4100 6 100).modClk (fun c => { c with due := [(1010, .signal 5 9)] }),
     { since := 900, tick := 400, window := 100, held := false, probed := false }, 500, by decide +kernel⟩,
   ⟨(waitB.modSeq (fun q => { q with stall := some { since := 900, tick := 400, window := 1, held := false, probed := false } })).putMem (streamBase + 0x2000 + 10) (leBytes 2 (2 ^ 15 + 16 * 3)),
     { since := 900, tick := 400, window := 1, held := false, probed := false }, by decide +kernel⟩⟩

/-! ### Upkeep -/

namespace Upkeep

def opW : PhaseOp :=
  { id := 4, ctx := ctx 3, job := none, opTag := 9, sync := 5, a8 := false, w8 := false, ps16 := false, shift := 0,
    lines := [{ mask := 1, banks := 1, dst := 0x4000, status := 0x5000 }],
    members := [{ bank := 0, slot := 5, first := 0, count := 1, line := 0, act := 0x3000 }],
    ready := 1000, stage := .waiting, admitted := 1000, waves := [[0]], wave := 0, phase := 0, start := 1000, fin := 1264,
    phys := [], leftOut := [], gens := [], temps := [], setUse := [], digits := [], results := [], acc := [],
    mute := [], oldSets := [], dead := [], undo := none, loadLost := false, dip := false, again := false, released := false,
    hold := none, late := none, failed := false }

theorem witness_SensorsAndPeriods :
    (∃ (s : State) (q : Int), (s.junctionMax + 60 < q) ∧ (s.pwr.tripped = false)) ∧
    (∃ (s : State) (m : Master) (v : BitVec 8), (s.entryReady m 12544 10) ∧ (v = 1)) ∧
    (∃ (s : State) (q : Int) (k : Fin 16),
      (({ s with pwr := { s.pwr with logicT := tset tempDefault s.pwr.logicT (k.val) q } } : State).tAll ≤ s.junctionMax)
      ∧ (s.pwr.hold = false)) ∧
    (∃ (s : State) (m : Master) (v : BitVec 8), (s.entryReady m 12544 10) ∧ (v ≠ 1)) :=
  ⟨⟨moveS (hset false []), 461, by decide +kernel⟩,
   ⟨moveS (hset false []), .core 0, 1, by decide +kernel⟩,
   ⟨sensS, 100, 15, by decide +kernel⟩,
   ⟨sensS, .core 0, 0, by decide +kernel⟩⟩

theorem witness_MeasurementsRun :
    (∃ (s : State) (n : Nat), (s.mayMeasure n = true ∨ (s.array n).maint = true) ∧ (s.measurable n = true)
      ∧ ((if (s.array n).measured = [] then [[s.bankTemp (n / 264)]] else (s.array n).measured).length < 16)) ∧
    (∃ (s : State) (n : Nat), (s.mayMeasure n = true ∨ (s.array n).maint = true)) ∧
    (∃ (s : State) (n : Nat) (g : BitVec 5), (setValid (s.activeSet n g.toNat) = true)) ∧
    (∃ (s : State) (n : Nat), (s.mayMeasure n = true ∨ (s.array n).maint = true) ∧ (s.measurable n = true)
      ∧ ((if (s.array n).measured = [] then [[s.bankTemp (n / 264)]] else (s.array n).measured).length = 16)) ∧
    (∃ (s : State) (n : Nat), ((s.array n).maint = true) ∧ (s.measurable n = false)) ∧
    (∃ (s : State) (n : Nat), (s.mayMeasure n = false) ∧ ((s.array n).maint = false)) ∧
    (∃ (s : State) (n : Nat) (g : BitVec 5), (setValid (s.activeSet n g.toNat) = false)) :=
  ⟨⟨(moveS (hset false [])).modArray 3 (fun p => { p with st := .converting, maint := true, measured := [[100]] }), 3,
     by decide +kernel⟩,
   ⟨(moveS (hset false [])).modArray 3 (fun p => { p with st := .converting, maint := true, measured := [[100]] }), 3,
     by decide +kernel⟩,
   ⟨(moveS (hset false [])).modArray 3 (fun p => { p with st := .converting, maint := true, measured := [[100]] }), 3,
     31, by decide +kernel⟩,
   ⟨(moveS (hset false [])).modArray 3 (fun p => { p with st := .converting, maint := true, measured := [100] :: List.replicate 15 [100] }),
     3, by decide +kernel⟩,
   ⟨(moveS (hset false [])).modArray 3 (fun p => { p with st := .quarantined, maint := true, measured := [[100]] }),
     3, by decide +kernel⟩,
   ⟨(moveS (hset false [])).modArray 3 (fun p => { p with st := .retired, mapped := false }), 3, by decide +kernel⟩,
   ⟨runS.setMset 7 31 0 5, 7, 31, by decide +kernel⟩⟩

theorem witness_HandoversAndRebuilds :
    (∃ (s : State) (n : Nat) (h : HandoverSet), (s.getMove n = some h) ∧ (h.allReady = true) ∧ (s.setClean h = true)
      ∧ (s.setAdmitted h = false) ∧ (h.forced = true ∨ s.setWaiting h = false)
      ∧ ((List.map (fun p => p.fst) h.members).Nodup)) ∧
    (∃ (s : State) (n : Nat) (h : HandoverSet) (t0 : Nat), (s.getMove n = some h) ∧ (h.since = some t0)
      ∧ (h.forced = false) ∧ (s.clk.due = [])) ∧
    (∃ (s : State) (a : BitVec 14), (s.libTile a.toNat = none)) ∧
    (∃ (s : State) (n : Nat) (h : HandoverSet), (s.getMove n = some h)
      ∧ (h.allReady = false ∨ s.setClean h = false ∨ s.setAdmitted h = true ∨ h.forced = false
      ∧ s.setWaiting h = true)) ∧
    (∃ (s : State) (n : Nat), ((s.array n).st = ArrayState.idle) ∧ ((s.array n).mapped = false)
      ∧ ((s.array n).eraseOpen = true) ∧ (s.warned = false) ∧ (s.eraseCommitted n = true)
      ∧ (s.hvOpen (n / 264) = true)) ∧
    (∃ (s : State) (a : BitVec 14) (tile : List (BitVec 4)) (k : Nat), (s.libTile a.toNat = some tile)
      ∧ ((s.mapOf a.toNat).st = AddrState.unavailable) ∧ (s.moveOf a.toNat = none) ∧ (s.awBusy a.toNat = false)
      ∧ (s.rebuildOf a.toNat = none) ∧ (k ∈ bankArrays (a.toNat / 256))
      ∧ ((fun k => (s.array k).free && !s.taken k && !(s.array k).barred (a.toNat % 256)) k = true) ∧ (∀ (j : Nat),
      j ∈ bankArrays (a.toNat / 256) → j < k → (fun k => (s.array k).free && !s.taken k && !(s.array k).barred (a.toNat % 256)) j = false)) ∧
    (∃ (s : State) (a : BitVec 14) (tile : List (BitVec 4)), (s.libTile a.toNat = some tile)
      ∧ ((s.mapOf a.toNat).st = AddrState.unavailable) ∧ (s.moveOf a.toNat = none) ∧ (s.awBusy a.toNat = false)
      ∧ (s.rebuildOf a.toNat = none) ∧ (∀ (k : Nat),
      k ∈ bankArrays (a.toNat / 256) → (fun k => (s.array k).free && !s.taken k && !(s.array k).barred (a.toNat % 256)) k = false)) :=
  ⟨⟨moveS (hset false [256]), 6, hset false [256], by decide +kernel⟩,
   ⟨moveS (hset false [256]), 6, hset false [256], 450, by decide +kernel⟩,
   ⟨moveS (hset false [256]), 5, by decide +kernel⟩,
   ⟨(moveS (hset false [256])).modDisp (fun d => { d with ops := [opW] }), 6, hset false [256], by decide +kernel⟩,
   ⟨savedErase 16895 (runS.modArray 16895 (fun p => { p with mapped := false, eraseOpen := true })), 16895,
     by decide +kernel⟩,
   ⟨(runS.setMap 5 { phys := 0, st := .unavailable }).modMedia (fun m => { m with index := [(5, some 2)], lib := [(2, [1, 2, 3])] }),
     5, [1, 2, 3], 256, by decide +kernel⟩,
   ⟨((((List.range 8).foldl (fun (t : State) k => t.modArray (256 + k) (fun p => { p with mapped := true }))) runS).setMap 5 { phys := 0, st := .unavailable }).modMedia (fun m => { m with index := [(5, some 2)], lib := [(2, [1, 2, 3])] }),
     5, [1, 2, 3], by decide +kernel⟩⟩

theorem witness_ShadesAreRechecked :
    (∃ (s : State) (n : Nat), (n < 16896) ∧ ((s.array n).st = ArrayState.quarantined ∧ s.arr.hv.contains n = true
      ∧ s.eraseCommitted n = true ∧ s.roomToMeasure (n / 264) = true)) ∧
    (∃ (s : State) (n : Nat), (n < 16896) ∧ (¬((s.array n).st = ArrayState.quarantined ∧ s.arr.hv.contains n = true
      ∧ s.eraseCommitted n = true ∧ s.roomToMeasure (n / 264) = true))) :=
  ⟨⟨(savedErase 16895 (runS.modArray 16895 (fun p => { p with mapped := false, st := .quarantined, qreason := 3 }))).modArr (fun a => { a with hv := [16895], rechecks := [(16895, 16)] }),
     16895, by decide +kernel⟩,
   ⟨runS, 16895, by decide +kernel⟩⟩

theorem witness_MasterAccesses :
    (∃ (s : State) (m : Master) (a : BitVec 48) (n : Nat), (¬s.clk.ratioLost &&& s.ratios m a.toNat ≠ 0) ∧ (n ≠ 0)
      ∧ (s.region a.toNat = Region.nowhere) ∧ (m = Master.host)) ∧
    (∃ (s : State) (m : Master) (a : BitVec 48) (bs : List Byte), (¬s.clk.ratioLost &&& s.ratios m a.toNat ≠ 0)
      ∧ (bs ≠ []) ∧ (s.region a.toNat = Region.nowhere ∨ s.region a.toNat = Region.exc)) ∧
    (∃ (s : State) (m : Master) (a : BitVec 48) (n : Nat), (¬s.clk.ratioLost &&& s.ratios m a.toNat ≠ 0)
      ∧ (s.gated blkBuffer = false) ∧ (n ≠ 0) ∧ (inBuffer a.toNat n = true)) ∧
    (∃ (s : State) (m : Master) (a : BitVec 48) (bs : List Byte), (¬s.clk.ratioLost &&& s.ratios m a.toNat ≠ 0)
      ∧ (s.gated blkBuffer = false) ∧ (bs ≠ []) ∧ (inBuffer a.toNat bs.length = true)) ∧
    (∃ (s : State) (m : Master) (a : BitVec 48) (o : BitVec 14), (¬s.clk.ratioLost &&& s.ratios m a.toNat ≠ 0)
      ∧ (s.gated blkSeq = false) ∧ (a.toNat = syncBase + 8 * o.toNat)) ∧
    (∃ (s : State) (m : Master) (a : BitVec 48) (o : BitVec 14), (¬s.clk.ratioLost &&& s.ratios m a.toNat ≠ 0)
      ∧ (s.gated blkSeq = false) ∧ (a.toNat = syncBase + 8 * o.toNat + 4)) ∧
    (∃ (s : State) (m : Master) (a : BitVec 48), (s.clk.ratioLost &&& s.ratios m a.toNat ≠ 0)) ∧
    (∃ (s : State) (m : Master) (a : BitVec 48) (n : Nat), (¬s.clk.ratioLost &&& s.ratios m a.toNat ≠ 0) ∧ (n ≠ 0)
      ∧ (s.region a.toNat = Region.nowhere) ∧ (m ≠ Master.host)) :=
  ⟨⟨runS, .host, 0x6FFFFFF, 1, by decide +kernel⟩,
   ⟨runS, .host, 0x6FFFFFF, [1], by decide +kernel⟩,
   ⟨runS, .core 0, 0, 4096, by decide +kernel⟩,
   ⟨runS, .core 0, 0, [1, 2, 3], by decide +kernel⟩,
   ⟨runS, .host, BitVec.ofNat 48 (syncBase + 8 * 16383), 16383, by decide +kernel⟩,
   ⟨runS, .host, BitVec.ofNat 48 (syncBase + 8 * 16383 + 4), 16383, by decide +kernel⟩,
   ⟨runS.modClk (fun c => { c with ratioLost := 7 }), .core 0, 0x1000, by decide +kernel⟩,
   ⟨runS, .core 0, 0xFFFFFFFFFFFF, 1, by decide +kernel⟩⟩

end Upkeep

/-! ### Moves -/

theorem witness_MoveRecordsAccepted :
    (∃ (s : State) (m : Master) (v : DWord), (s.entryReady m 17664 5)
      ∧ (moveAddrOk (bits (BitVec.toNat v) 0 48) = false)) ∧
    (∃ (s : State), (s.seq.moveQ = [])) ∧
    (∃ (s : State) (m : Master) (v : DWord), (s.entryReady m 17664 5)
      ∧ (moveAddrOk (bits (BitVec.toNat v) 0 48) = true) ∧ (s.mig.recs.length < 32) ∧ (s.acceptsWork = true)) ∧
    (∃ (s : State) (r : BitVec 5), (s.seq.haltOwed = none) ∧ (s.seq.moveQ.length < 8) ∧ (s.gated blkMigration = false)
      ∧ (moveAddrOk (BitVec.toNat (s.x r)) = true)) ∧
    (∃ (s : State) (r : BitVec 5), (s.seq.haltOwed = none) ∧ (s.seq.moveQ.length < 8) ∧ (s.gated blkMigration = false)
      ∧ (moveAddrOk (BitVec.toNat (s.x r)) = true) ∧ (bits (numAt s.mem (BitVec.toNat (s.x r)) 8) 0 4 = mkPromote)) ∧
    (∃ (s : State) (r : BitVec 5), (s.seq.haltOwed = none) ∧ (s.seq.moveQ.length < 8) ∧ (s.gated blkMigration = false)
      ∧ (moveAddrOk (BitVec.toNat (s.x r)) = true) ∧ (bits (numAt s.mem (BitVec.toNat (s.x r)) 8) 0 4 ≠ mkPromote)
      ∧ (s.ent? 16640 5 = 0)) ∧
    (∃ (s : State) (m : Master) (v : DWord), (s.entryReady m 17664 5)
      ∧ (moveAddrOk (bits (BitVec.toNat v) 0 48) = true) ∧ (32 ≤ s.mig.recs.length)) ∧
    (∃ (s : State), (8 ≤ s.seq.moveQ.length)) ∧
    (∃ (s : State) (b : BundleMove) (rest : List BundleMove), (s.seq.moveQ = b :: rest) ∧ (s.mig.recs.length < 32)
      ∧ (s.acceptsWork = true) ∧ (s.clk.due = [])) :=
  ⟨⟨bpre (mraw 2 1 5 0 2), .host, 0x3010, by decide +kernel⟩,
   ⟨bpre (mraw 2 1 5 0 2), by decide +kernel⟩,
   ⟨bpre (mraw 2 1 5 0 2), .host, 0x3000, by decide +kernel⟩,
   ⟨bpre (mraw 2 1 5 0 2), 2, by decide +kernel⟩,
   ⟨bpre (mraw 2 1 5 0 2), 2, by decide +kernel⟩,
   ⟨pools (bpre (mraw 0 1 5 0 0 + 0x10000 * 2 ^ 192)), 2, by decide +kernel⟩,
   ⟨(bpre 0).modMig (fun g => { g with recs := (List.range 32).map (fun i => mrec i 0 []) }), .host, 0x3000,
     by decide +kernel⟩,
   ⟨(bpre 0).modSeq (fun q => { q with moveQ := (List.range 8).map (fun i => bm i 0x3000) }), by decide +kernel⟩,
   ⟨(bpre (mraw 3 2 5 0 1)).modSeq (fun q => { q with moveQ := [bm 1 0x3000, bm 2 0x3040] }), bm 1 0x3000,
     [bm 2 0x3040], by decide +kernel⟩⟩

theorem witness_MoveRecordsRun :
    (∃ (s : State) (id : Nat) (r : MoveRec), (s.nextStartRec id mkCreate = some r) ∧ ((s.obj r.obj).exist = true)) ∧
    (∃ (s : State) (id : Nat) (r : MoveRec), (s.nextStartRec id mkCreate = some r)) ∧
    (∃ (s : State) (id : Nat) (r : MoveRec) (mf : Nat) (ls : List Nat), (s.nextStartRec id mkCreate = some r)
      ∧ ((s.obj r.obj).exist = false) ∧ (s.overQuota r.domain r.dstTier (ceilDiv r.size tileSize) = false)
      ∧ (s.mapRun (ceilDiv r.size tileSize) = some mf) ∧ (createLocs r (ceilDiv r.size tileSize) s = some ls)
      ∧ (s.mig.bulkSize ≠ 0)) ∧
    (∃ (s : State) (id : Nat) (r : MoveRec), (s.nextStartRec id mkDestroy = some r) ∧ ((s.obj r.obj).exist = true)
      ∧ ((s.obj r.obj).domain ≠ r.domain) ∧ ((s.obj r.obj).hints.getLsbD 1 = false)) ∧
    (∃ (s : State) (id : Nat) (r : MoveRec), (s.nextStartRec id mkDestroy = some r) ∧ ((s.obj r.obj).exist = true
      ∧ ((s.obj r.obj).domain = r.domain ∨ (s.obj r.obj).hints.getLsbD 1 = true))) ∧
    (∃ (s : State) (id : Nat) (r : MoveRec), (s.nextStartRec id mkDestroy = some r) ∧ ((s.obj r.obj).exist = false)) ∧
    (∃ (s : State) (id : Nat) (r : MoveRec) (p : Instr × Nat),
      (p ∈ [(Instr.promote id, mkPromote), (Instr.evict id, mkEvict)]) ∧ (s.nextStartRec id p.snd = some r)
      ∧ (s.moveRefused r ≠ 0)) ∧
    (∃ (s : State) (id : Nat) (r : MoveRec) (p : Instr × Nat),
      (p ∈ [(Instr.promote id, mkPromote), (Instr.evict id, mkEvict)]) ∧ (s.nextStartRec id p.snd = some r)
      ∧ (s.moveRefused r = 0)) ∧
    (∃ (s : State) (id : Nat) (r : MoveRec), (s.nextStartRec id mkSetHints = some r) ∧ ((s.obj r.obj).exist = true
      ∧ ((s.obj r.obj).domain = r.domain ∨ (s.obj r.obj).hints.getLsbD 1 = true))) ∧
    (∃ (s : State) (id : Nat) (r : MoveRec), (s.nextStartRec id mkSetHints = some r) ∧ ((s.obj r.obj).exist = false)) ∧
    (∃ (s : State) (id : Nat) (r : MoveRec), (s.nextStartRec id mkSetHints = some r) ∧ ((s.obj r.obj).exist = true)
      ∧ ((s.obj r.obj).domain ≠ r.domain) ∧ ((s.obj r.obj).hints.getLsbD 1 = false)) :=
  ⟨⟨(migS (fun g => { g with objs := [(5, obj1 0 0 65536)], recs := [mrec 1 (mraw 0 1 5 0 0) []] })), 1,
     mrec 1 (mraw 0 1 5 0 0) [], by decide +kernel⟩,
   ⟨(migS (fun g => { g with objs := [(5, obj1 0 0 65536)], recs := [mrec 1 (mraw 0 1 5 0 0) []] })), 1,
     mrec 1 (mraw 0 1 5 0 0) [], by decide +kernel⟩,
   ⟨pools (migS (fun g => { g with objs := [(6, obj1 0 0 65536)], recs := [mrec 1 (mraw 0 2 5 2 0 + 64 + 0x20001 * 2 ^ 192 + (bulkBase + 0x100000) * 2 ^ 128) []] })),
     1, mrec 1 (mraw 0 2 5 2 0 + 64 + 0x20001 * 2 ^ 192 + (bulkBase + 0x100000) * 2 ^ 128) [], 1, [8, 9],
     by decide +kernel⟩,
   ⟨migS (fun g => { g with objs := [(5, obj1 0 3 65536)], recs := [mrec 1 (mraw 1 0 5 0 0) []] }), 1,
     mrec 1 (mraw 1 0 5 0 0) [], by decide +kernel⟩,
   ⟨migS (fun g => { g with objs := [(5, obj1 2 3 65536)], recs := [mrec 1 (mraw 1 0 5 0 0) []] }), 1,
     mrec 1 (mraw 1 0 5 0 0) [], by decide +kernel⟩,
   ⟨migS (fun g => { g with recs := [mrec 1 (mraw 1 0 5 3 0) []] }), 1, mrec 1 (mraw 1 0 5 3 0) [], by decide +kernel⟩,
   ⟨pools (migS (fun g => { g with objs := [(5, obj1 0 3 200000)], tiles := [(0, tileAt 2 16 false), (1, tileAt 2 17 false), (2, tileAt 1 0 false), (3, tileAt 2 18 false)], recs := [mrec 1 (mraw 2 1 5 3 4) []] })),
     1, mrec 1 (mraw 2 1 5 3 4) [], (.promote 1, 2), by decide +kernel⟩,
   ⟨pools (migS (fun g => { g with objs := [(5, obj1 0 3 200000)], tiles := [(0, tileAt 1 16 false), (1, tileAt 2 17 false)], recs := [mrec 1 (mraw 3 2 5 3 2) []] })),
     1, mrec 1 (mraw 3 2 5 3 2) [], (.evict 1, 3), by decide +kernel⟩,
   ⟨migS (fun g => { g with objs := [(5, obj1 0 3 200000)], recs := [mrec 1 (mraw 4 1 5 3 2 + 77 * 2 ^ 176) []] }), 1,
     mrec 1 (mraw 4 1 5 3 2 + 77 * 2 ^ 176) [], by decide +kernel⟩,
   ⟨migS (fun g => { g with recs := [mrec 1 (mraw 4 1 5 3 2 + 77 * 2 ^ 176) []] }), 1,
     mrec 1 (mraw 4 1 5 3 2 + 77 * 2 ^ 176) [], by decide +kernel⟩,
   ⟨migS (fun g => { g with objs := [(5, obj1 0 9 200000)], recs := [mrec 1 (mraw 4 1 5 3 2 + 77 * 2 ^ 176) []] }), 1,
     mrec 1 (mraw 4 1 5 3 2 + 77 * 2 ^ 176) [], by decide +kernel⟩⟩

theorem witness_TilesMoveAndCommit :
    (∃ (s : State) (r : MoveRec) (k : BitVec 13) (d : Nat),
      (List.find? (fun q => (q.nextTile.isSome || decide (q.resubmitted ≠ [])) && !(decide (q.dstTier = 0) && s.awr.ws.any fun w => decide (w.byMove = some q.id))) s.mig.recs = some r)
      ∧ (s.copyingTiles < 32) ∧ (s.warned = false) ∧ (r.dstTier ≠ 0) ∧ (r.nextTile = some (k.toNat, d))
      ∧ ((s.obj r.obj).pinned (s.entryOf r k.toNat) = false)
      ∧ (reach r.kind r.dstTier r.obj k.toNat d s = TileMove.reserved d)) ∧
    (∃ (s : State) (o : BitVec 14) (k : BitVec 13), (s.mover o.toNat k.toNat = none)) ∧
    (∃ (s : State) (r : MoveRec) (id : Nat), (s.getRec id = some r) ∧ (r.settled = false)) ∧
    (∃ (s : State) (o : BitVec 14), ((s.obj o.toNat).held = false)) ∧
    (∃ (s : State) (o : BitVec 14), ((s.obj o.toNat).held = true)
      ∧ ((s.y (s.obj o.toNat).holdSync.toNat).reached (s.obj o.toNat).holdValue = true)) ∧
    (∃ (s : State) (o : BitVec 14), ((s.obj o.toNat).held = true) ∧ (s.clk.due = [])) ∧
    (∃ (s : State) (r : MoveRec) (o : BitVec 14) (k : BitVec 13) (d : Nat) (again : Bool),
      (s.mover o.toNat k.toNat = some (r, TileMove.copying d again)) ∧ (r.dstTier ≠ 0) ∧ (s.warned = false)
      ∧ (s.reachLoc (s.tileEnt (s.entryOf r k.toNat)).tier (s.tileEnt (s.entryOf r k.toNat)).home false = Reach.ok)
      ∧ (s.reachLoc r.dstTier d true = Reach.ok)) ∧
    (∃ (s : State) (r : MoveRec) (o : BitVec 14) (k : BitVec 13) (d : Nat) (again : Bool) (n : Nat) (rest : List Nat),
      (s.mover o.toNat k.toNat = some (r, TileMove.copying d again)) ∧ (r.dstTier ≠ 0) ∧ (s.warned = false)
      ∧ (s.reachLoc (s.tileEnt (s.entryOf r k.toNat)).tier (s.tileEnt (s.entryOf r k.toNat)).home false = Reach.ok)
      ∧ (s.reachLoc r.dstTier d true = Reach.ok) ∧ (again = false) ∧ (s.freeLocs r.dstTier 1 = some (n :: rest))) ∧
    (∃ (s : State) (r : MoveRec) (id : Nat), (s.getRec id = some r) ∧ (r.settled = true)) ∧
    (∃ (s : State) (r : MoveRec),
      (List.find? (fun q => (q.nextTile.isSome || decide (q.resubmitted ≠ [])) && !(decide (q.dstTier = 0) && s.awr.ws.any fun w => decide (w.byMove = some q.id))) s.mig.recs = some r)
      ∧ (r.dstTier ≠ 0) ∧ (32 ≤ s.copyingTiles)) ∧
    (∃ (s : State) (r : MoveRec),
      (List.find? (fun q => (q.nextTile.isSome || decide (q.resubmitted ≠ [])) && !(decide (q.dstTier = 0) && s.awr.ws.any fun w => decide (w.byMove = some q.id))) s.mig.recs = some r)
      ∧ (r.dstTier = 0) ∧ (s.warned = false)
      ∧ (List.find? (fun p => (s.homeBytes (s.tileEnt (s.entryOf r p.fst))).isNone) (r.reservedTiles ++ r.resubmitted) = none)) ∧
    (∃ (s : State) (r : MoveRec),
      (List.find? (fun q => (q.nextTile.isSome || decide (q.resubmitted ≠ [])) && !(decide (q.dstTier = 0) && s.awr.ws.any fun w => decide (w.byMove = some q.id))) s.mig.recs = some r)
      ∧ (r.dstTier = 0) ∧ (s.warned = false)) ∧
    (∃ (s : State) (r : MoveRec) (p : Nat × Nat),
      (List.find? (fun q => (q.nextTile.isSome || decide (q.resubmitted ≠ [])) && !(decide (q.dstTier = 0) && s.awr.ws.any fun w => decide (w.byMove = some q.id))) s.mig.recs = some r)
      ∧ (r.dstTier = 0) ∧ (s.warned = false)
      ∧ (List.find? (fun p => (s.homeBytes (s.tileEnt (s.entryOf r p.fst))).isNone) (r.reservedTiles ++ r.resubmitted) = some p)) ∧
    (∃ (s : State) (r : MoveRec) (o : BitVec 14) (k : BitVec 13) (d : Nat) (again : Bool),
      (s.mover o.toNat k.toNat = some (r, TileMove.copying d again)) ∧ (r.dstTier = 0) ∧ (s.warned = false)
      ∧ (s.reachLoc (s.tileEnt (s.entryOf r k.toNat)).tier (s.tileEnt (s.entryOf r k.toNat)).home false = Reach.ok)
      ∧ (s.homeBytes (s.tileEnt (s.entryOf r k.toNat)) ≠ none)) ∧
    (∃ (s : State) (r : MoveRec) (o : BitVec 14) (k : BitVec 13) (d : Nat) (again : Bool),
      (s.mover o.toNat k.toNat = some (r, TileMove.copying d again)) ∧ (r.dstTier = 0) ∧ (s.warned = false)
      ∧ (s.reachLoc (s.tileEnt (s.entryOf r k.toNat)).tier (s.tileEnt (s.entryOf r k.toNat)).home false = Reach.ok)) ∧
    (∃ (s : State) (r : MoveRec) (o : BitVec 14) (k : BitVec 13) (d : Nat) (again : Bool),
      (s.mover o.toNat k.toNat = some (r, TileMove.copying d again)) ∧ (r.dstTier = 0) ∧ (s.warned = false)
      ∧ (s.reachLoc (s.tileEnt (s.entryOf r k.toNat)).tier (s.tileEnt (s.entryOf r k.toNat)).home false = Reach.ok)
      ∧ (s.homeBytes (s.tileEnt (s.entryOf r k.toNat)) = none)) :=
  ⟨⟨migS (fun g => { g with objs := [(5, obj1 0 3 200000)], tiles := [(0, tileAt 2 16 false)], recs := [{ mrec 1 (mraw 2 1 5 3 1) [(0, .reserved 7)] with started := true }] }),
     { mrec 1 (mraw 2 1 5 3 1) [(0, .reserved 7)] with started := true }, 0, 7, by decide +kernel⟩,
   ⟨migS (fun g => { g with objs := [(5, obj1 0 3 200000)], tiles := [(0, tileAt 2 16 false)], recs := [{ mrec 1 (mraw 2 1 5 3 1) [(0, .reserved 7)] with started := true }] }),
     5, 0, by decide +kernel⟩,
   ⟨migS (fun g => { g with objs := [(5, obj1 0 3 200000)], tiles := [(0, tileAt 2 16 false)], recs := [{ mrec 1 (mraw 2 1 5 3 1) [(0, .reserved 7)] with started := true }] }),
     { mrec 1 (mraw 2 1 5 3 1) [(0, .reserved 7)] with started := true }, 1, by decide +kernel⟩,
   ⟨migS (fun g => { g with objs := [(5, obj1 0 3 200000)], tiles := [(0, tileAt 2 16 false)], recs := [{ mrec 1 (mraw 2 1 5 3 1) [(0, .reserved 7)] with started := true }] }),
     5, by decide +kernel⟩,
   ⟨migS (fun g => { g with objs := [(5, { obj1 0 3 200000 with held := true, holdSync := 9, holdValue := 0 })], recs := [{ mrec 1 (mraw 2 1 5 3 1) ((List.range 32).map (fun k => (k, .copying (7 + k) false))) with started := true }], oldLocs := [(2, 16)] }),
     5, by decide +kernel⟩,
   ⟨migS (fun g => { g with objs := [(5, { obj1 0 3 200000 with held := true, holdSync := 9, holdValue := 0 })], recs := [{ mrec 1 (mraw 2 1 5 3 1) ((List.range 32).map (fun k => (k, .copying (7 + k) false))) with started := true }], oldLocs := [(2, 16)] }),
     5, by decide +kernel⟩,
   ⟨pools (migS (fun g => { g with objs := [(5, { obj1 0 3 200000 with held := true, holdSync := 9, holdValue := 1000 })], tiles := [(0, { tileAt 2 16 true with dst := 7, dstTier := 1 })], recs := [{ mrec 1 (mraw 2 1 5 3 1) [(0, .copying 7 false)] with started := true }] })),
     { mrec 1 (mraw 2 1 5 3 1) [(0, .copying 7 false)] with started := true }, 5, 0, 7, false, by decide +kernel⟩,
   ⟨pools (migS (fun g => { g with objs := [(5, { obj1 0 3 200000 with held := true, holdSync := 9, holdValue := 1000 })], tiles := [(0, { tileAt 2 16 true with dst := 7, dstTier := 1 })], recs := [{ mrec 1 (mraw 2 1 5 3 1) [(0, .copying 7 false)] with started := true }] })),
     { mrec 1 (mraw 2 1 5 3 1) [(0, .copying 7 false)] with started := true }, 5, 0, 7, false, 8, [],
     by decide +kernel⟩,
   ⟨migS (fun g => { g with objs := [(5, obj1 0 3 200000)], recs := [{ mrec 1 (mraw 2 1 5 3 1 + 128 + 0x2000 * 2 ^ 224 + 6 * 2 ^ 64 + 2 ^ 78) [(0, .moved)] with started := true }] }),
     { mrec 1 (mraw 2 1 5 3 1 + 128 + 0x2000 * 2 ^ 224 + 6 * 2 ^ 64 + 2 ^ 78) [(0, .moved)] with started := true }, 1,
     by decide +kernel⟩,
   ⟨migS (fun g => { g with objs := [(5, obj1 0 3 200000)], recs := [{ mrec 1 (mraw 2 1 5 3 1) ((List.range 32).map (fun k => (k, .copying (7 + k) false)) ++ [(40, .reserved 50)]) with started := true }] }),
     { mrec 1 (mraw 2 1 5 3 1) ((List.range 32).map (fun k => (k, .copying (7 + k) false)) ++ [(40, .reserved 50)]) with started := true },
     by decide +kernel⟩,
   ⟨migS (fun g => { g with objs := [(5, obj1 0 3 200000)], tiles := [(0, tileAt 2 16 false)], recs := [{ mrec 1 (mraw 2 0 5 3 1) [(0, .reserved 7)] with started := true }] }),
     { mrec 1 (mraw 2 0 5 3 1) [(0, .reserved 7)] with started := true }, by decide +kernel⟩,
   ⟨migS (fun g => { g with objs := [(5, obj1 0 3 200000)], tiles := [(0, tileAt 2 16 false)], recs := [{ mrec 1 (mraw 2 0 5 3 1) [(0, .reserved 7)] with started := true }] }),
     { mrec 1 (mraw 2 0 5 3 1) [(0, .reserved 7)] with started := true }, by decide +kernel⟩,
   ⟨migS (fun g => { g with objs := [(5, obj1 0 3 200000)], tiles := [(0, { tileAt 2 16 false with poisoned := true })], recs := [{ mrec 1 (mraw 2 0 5 3 1) [(0, .reserved 7)] with started := true }] }),
     { mrec 1 (mraw 2 0 5 3 1) [(0, .reserved 7)] with started := true }, (0, 7), by decide +kernel⟩,
   ⟨migS (fun g => { g with objs := [(5, obj1 0 3 200000)], tiles := [(0, tileAt 2 16 true)], recs := [{ mrec 1 (mraw 2 0 5 3 1) [(0, .copying 7 false)] with started := true }] }),
     { mrec 1 (mraw 2 0 5 3 1) [(0, .copying 7 false)] with started := true }, 5, 0, 7, false, by decide +kernel⟩,
   ⟨migS (fun g => { g with objs := [(5, obj1 0 3 200000)], tiles := [(0, tileAt 2 16 true)], recs := [{ mrec 1 (mraw 2 0 5 3 1) [(0, .copying 7 false)] with started := true }] }),
     { mrec 1 (mraw 2 0 5 3 1) [(0, .copying 7 false)] with started := true }, 5, 0, 7, false, by decide +kernel⟩,
   ⟨migS (fun g => { g with objs := [(5, obj1 0 3 200000)], tiles := [(0, { tileAt 2 16 true with poisoned := true })], recs := [{ mrec 1 (mraw 2 0 5 3 1) [(0, .copying 7 false)] with started := true }] }),
     { mrec 1 (mraw 2 0 5 3 1) [(0, .copying 7 false)] with started := true }, 5, 0, 7, false, by decide +kernel⟩⟩

theorem witness_ArraysAreWritten :
    (∃ (s : State) (m : Master) (v : DWord) (c : Instr), (s.entryReady m 12800 1)
      ∧ (c ∈ [Instr.arrayWriteInstall m v, Instr.arrayWriteRewrite m v])
      ∧ (s.awRefused (bits (BitVec.toNat v) 0 48) ≠ 0)) ∧
    (∃ (s : State) (n : Nat), (¬((s.array n).st = ArrayState.programming ∧ (s.array n).source.isSome = true
      ∧ (s.array n).eraseOpen = false ∧ s.warned = false ∧ s.arr.hv.contains n = true ∧ s.programCommitted n = true))) ∧
    (∃ (s : State) (m : Master) (v : DWord) (c : Instr), (s.entryReady m 12800 1)
      ∧ (c ∈ [Instr.arrayWriteInstall m v, Instr.arrayWriteRewrite m v])
      ∧ (s.awRefused (bits (BitVec.toNat v) 0 48) = 0)) ∧
    (∃ (s : State) (m : Master), (s.entryReady m 12800 1)) ∧
    (∃ (s : State) (n : Nat), ((s.array n).st = ArrayState.programming ∧ (s.array n).source.isSome = true
      ∧ (s.array n).eraseOpen = false ∧ s.warned = false ∧ s.arr.hv.contains n = true ∧ s.programCommitted n = true)
      ∧ ((s.array n).loops ≠ 0 ∨ (s.array n).rowsOpen ≤ (s.array n).rowsDone) ∧ ((s.array n).rowsDone + 1 < 512)) ∧
    (∃ (s : State) (n : Nat), ((s.array n).st = ArrayState.programming ∧ (s.array n).source.isSome = true
      ∧ (s.array n).eraseOpen = false ∧ s.warned = false ∧ s.arr.hv.contains n = true ∧ s.programCommitted n = true)
      ∧ ((s.array n).loops ≠ 0 ∨ (s.array n).rowsOpen ≤ (s.array n).rowsDone) ∧ ((s.array n).loops + 1 < 16)) ∧
    (∃ (s : State) (n : Nat), ((s.array n).st = ArrayState.programming ∧ (s.array n).source.isSome = true
      ∧ (s.array n).eraseOpen = false ∧ s.warned = false ∧ s.arr.hv.contains n = true ∧ s.programCommitted n = true)
      ∧ ((s.array n).loops ≠ 0 ∨ (s.array n).rowsOpen ≤ (s.array n).rowsDone) ∧ ((s.array n).loops + 1 = 16)) ∧
    (∃ (s : State) (n : Nat), ((s.array n).st = ArrayState.programming) ∧ ((s.array n).eraseOpen = true)
      ∧ (s.arr.hv.contains n = true) ∧ (s.eraseCommitted n = true) ∧ ((s.array n).source ≠ none)) ∧
    (∃ (s : State) (n : Nat), ((s.array n).st = ArrayState.programming) ∧ ((s.array n).eraseOpen = true)
      ∧ (s.arr.hv.contains n = true) ∧ (s.eraseCommitted n = true)) ∧
    (∃ (s : State) (id : Nat) (w : ArrayWrite), (List.find? (fun x => decide (x.id = id)) s.awr.ws = some w)
      ∧ (w.ends = true) ∧ (w.byMove = none)) ∧
    (∃ (s : State) (id : Nat) (w : ArrayWrite), (List.find? (fun x => decide (x.id = id)) s.awr.ws = some w)) ∧
    (∃ (s : State) (id : Nat) (w : ArrayWrite), (List.find? (fun x => decide (x.id = id)) s.awr.ws = some w)
      ∧ (w.ends = false)) ∧
    (∃ (s : State) (id : Nat) (w : ArrayWrite) (k : Nat) (r : MoveRec),
      (List.find? (fun x => decide (x.id = id)) s.awr.ws = some w) ∧ (w.ends = true) ∧ (w.byMove = some k)
      ∧ (s.getRec k = some r)) ∧
    (∃ (s : State) (n : Nat), ((s.array n).st = ArrayState.programming ∧ (s.array n).source.isSome = true
      ∧ (s.array n).eraseOpen = false ∧ s.warned = false ∧ s.arr.hv.contains n = true ∧ s.programCommitted n = true)
      ∧ ((s.array n).loops ≠ 0 ∨ (s.array n).rowsOpen ≤ (s.array n).rowsDone) ∧ ((s.array n).rowsDone + 1 = 512)) ∧
    (∃ (s : State) (n : Nat), ((s.array n).st = ArrayState.programming) ∧ ((s.array n).eraseOpen = true)
      ∧ (s.arr.hv.contains n = true) ∧ (s.eraseCommitted n = true) ∧ ((s.array n).source = none)) :=
  ⟨⟨runS, .host, 0x3000, .arrayWriteInstall .host 0x3000, by decide +kernel⟩,
   ⟨runS, 300, by decide +kernel⟩,
   ⟨{ runS with mem := Memory.puts runS.mem 0x3000 (leBytes 64 (1 + 1 * 2 ^ 19 + 0x4000 * 2 ^ 64 + 0x10000 * 2 ^ 128)) },
     .host, 0x3000, .arrayWriteInstall .host 0x3000, by decide +kernel⟩,
   ⟨hvS.modArray 300 (fun p => { p with st := .programming, source := some [1, 2, 3], eraseOpen := false, progOpen := true, rowsDone := 0, loops := 3 }),
     .host, by decide +kernel⟩,
   ⟨hvS.modArray 300 (fun p => { p with st := .programming, source := some [1, 2, 3], eraseOpen := false, progOpen := true, rowsDone := 0, loops := 3 }),
     300, by decide +kernel⟩,
   ⟨hvS.modArray 300 (fun p => { p with st := .programming, source := some [1, 2, 3], eraseOpen := false, progOpen := true, rowsDone := 0, loops := 3 }),
     300, by decide +kernel⟩,
   ⟨hvS.modArray 300 (fun p => { p with st := .programming, source := some [1, 2, 3], eraseOpen := false, progOpen := true, rowsDone := 4, loops := 15 }),
     300, by decide +kernel⟩,
   ⟨(hvS.modArray 300 (fun p => { p with st := .programming, source := some [1, 2, 3], eraseOpen := true }) |>.modArr (fun a => { a with cells := [(300 * 262144 + 1026, 3)] })),
     300, by decide +kernel⟩,
   ⟨(hvS.modArray 300 (fun p => { p with st := .programming, source := some [1, 2, 3], eraseOpen := true }) |>.modArr (fun a => { a with cells := [(300 * 262144 + 1026, 3)] })),
     300, by decide +kernel⟩,
   ⟨{ runS with awr := { ws := [{ aw1 .served with committed := true }] } }, 31,
     { aw1 .served with committed := true }, by decide +kernel⟩,
   ⟨{ runS with awr := { ws := [{ aw1 .served with committed := true }] } }, 31,
     { aw1 .served with committed := true }, by decide +kernel⟩,
   ⟨{ runS with awr := { ws := [aw1 .programming] } }, 31, aw1 .programming, by decide +kernel⟩,
   ⟨{ runS with awr := { ws := [{ aw1 .served with byMove := some 1, committed := true }] }, mig := { runS.mig with recs := [{ mrec 1 (mraw 2 0 5 3 1) [(0, .copying 7 false)] with started := true }], objs := [(5, obj1 0 3 200000)] } },
     31, { aw1 .served with byMove := some 1, committed := true }, 1,
     { mrec 1 (mraw 2 0 5 3 1) [(0, .copying 7 false)] with started := true }, by decide +kernel⟩,
   ⟨hvS.modArray 300 (fun p => { p with st := .programming, source := some [1, 2, 3], eraseOpen := false, progOpen := true, rowsDone := 511, loops := 3 }),
     300, by decide +kernel⟩,
   ⟨(hvS.modArray 300 (fun p => { p with st := .programming, source := none, eraseOpen := true }) |>.modArr (fun a => { a with cells := [(300 * 262144 + 1026, 3)] })),
     300, by decide +kernel⟩⟩

theorem witness_StorePlaneOperations :
    (∃ (s : State) (k : Nat) (page : Nat), (¬((s.storeBlk k).bad = false ∧ (s.storeBlk k).eraseOpen = false
      ∧ (s.storeBlk k).erasing = false ∧ s.markedErase k = false ∧ s.partOf k ≠ none) ∨ (s.storeBlk k).wp ≤ page
      ∧ (s.storeTx k = none ∨ (s.storeBlk k).wp < page ∨ s.blockPages k ≤ page ∨ s.mayProgram = false))) ∧
    (∃ (s : State) (k : Nat) (bitsN : Nat), (s.planeErases k = false) ∧ ((s.storeBlk k).eraseOpen = false)
      ∧ (bitsN ≤ 36)) ∧
    (∃ (s : State) (k : Nat), (¬((s.storeBlk k).bad = false ∧ (s.storeBlk k).suspended = false ∧ s.mediaHeld = false
      ∧ s.holdsData k = false ∧ (s.storeBlk k).eraseOpen = true ∧ s.markedErase k = true))) ∧
    (∃ (s : State) (k : Nat), (¬((s.storeBlk k).bad = false ∧ (s.storeBlk k).suspended = false
      ∧ (s.storeBlk k).suspends < 16 ∧ (s.storeBlk k).erasing = true))) ∧
    (∃ (s : State), (s.clk.due = [])) ∧
    (∃ (s : State) (k : Nat) (bitsN : Nat), (s.planeErases k = false) ∧ ((s.storeBlk k).eraseOpen = false)
      ∧ (36 < bitsN) ∧ (bitsN ≤ 72)) ∧
    (∃ (s : State) (k : Nat) (bitsN : Nat) (ok : Bool), (s.planeErases k = false) ∧ ((s.storeBlk k).eraseOpen = false)
      ∧ (72 < bitsN ∨ ok = true)) ∧
    (∃ (s : State) (k : Nat) (last : Bool) (x : Transact), ((s.storeBlk k).bad = false
      ∧ (s.storeBlk k).eraseOpen = false ∧ (s.storeBlk k).erasing = false ∧ s.markedErase k = false
      ∧ s.partOf k ≠ none) ∧ (s.storeTx k = some x) ∧ ((s.storeBlk k).wp < s.blockPages k) ∧ (s.mayProgram = true)
      ∧ (({ x with pages := x.pages + 1 } : Transact).ends last = true)) ∧
    (∃ (s : State) (k : Nat) (x : Transact), ((s.storeBlk k).bad = false ∧ (s.storeBlk k).eraseOpen = false
      ∧ (s.storeBlk k).erasing = false ∧ s.markedErase k = false ∧ s.partOf k ≠ none) ∧ (s.storeTx k = some x)
      ∧ ((s.storeBlk k).wp < s.blockPages k) ∧ (s.mayProgram = true)) ∧
    (∃ (s : State) (k : Nat) (page : Nat), ((s.storeBlk k).bad = false ∧ (s.storeBlk k).eraseOpen = false
      ∧ (s.storeBlk k).erasing = false ∧ s.markedErase k = false ∧ s.partOf k ≠ none) ∧ (page < (s.storeBlk k).wp)) ∧
    (∃ (s : State) (k : Nat), (s.planeErases k = true ∨ (s.storeBlk k).eraseOpen = true)) ∧
    (∃ (s : State) (k : Nat), ((s.storeBlk k).bad = false ∧ (s.storeBlk k).suspended = false
      ∧ (s.storeBlk k).suspends < 16 ∧ (s.storeBlk k).erasing = true)) ∧
    (∃ (s : State) (k : Nat) (last : Bool) (x : Transact), ((s.storeBlk k).bad = false
      ∧ (s.storeBlk k).eraseOpen = false ∧ (s.storeBlk k).erasing = false ∧ s.markedErase k = false
      ∧ s.partOf k ≠ none) ∧ (s.storeTx k = some x) ∧ ((s.storeBlk k).wp < s.blockPages k) ∧ (s.mayProgram = true)
      ∧ (({ x with pages := x.pages + 1 } : Transact).ends last = false)) ∧
    (∃ (s : State) (k : Nat), ((s.storeBlk k).bad = false ∧ (s.storeBlk k).suspended = false ∧ s.mediaHeld = false
      ∧ s.holdsData k = false ∧ (s.storeBlk k).eraseOpen = true ∧ s.markedErase k = true)) :=
  ⟨⟨runS, 200, 3, by decide +kernel⟩,
   ⟨runS, 200, 36, by decide +kernel⟩,
   ⟨runS, 200, by decide +kernel⟩,
   ⟨runS, 200, by decide +kernel⟩,
   ⟨runS, by decide +kernel⟩,
   ⟨runS.modMedia (fun m => { m with trans := [ltx 8 true], index := [(5, some 4)], lib := [(4, [1])] }), 200, 37,
     by decide +kernel⟩,
   ⟨runS.modMedia (fun m => { m with trans := [ltx 8 true], index := [(5, some 4)], lib := [(4, [1])] }), 200, 73,
     true, by decide +kernel⟩,
   ⟨runS.modMedia (fun m => { m with writing := some (ltx 7 false), blk := [(200, { storeBlkDefault 200 with wp := 254 })] }),
     200, true, ltx 7 false, by decide +kernel⟩,
   ⟨runS.modMedia (fun m => { m with writing := some (ltx 7 false), blk := [(200, { storeBlkDefault 200 with wp := 254 })] }),
     200, ltx 7 false, by decide +kernel⟩,
   ⟨runS.modMedia (fun m => { m with writing := some (ltx 7 false), blk := [(200, { storeBlkDefault 200 with wp := 254 })] }),
     200, 3, by decide +kernel⟩,
   ⟨runS.modMedia (fun m => { m with blk := [(200, { storeBlkDefault 200 with erasing := true })] }), 200,
     by decide +kernel⟩,
   ⟨runS.modMedia (fun m => { m with blk := [(200, { storeBlkDefault 200 with erasing := true })] }), 200,
     by decide +kernel⟩,
   ⟨runS.modMedia (fun m => { m with writing := some (ltx 3 false), blk := [(200, { storeBlkDefault 200 with wp := 4 })] }),
     200, true, ltx 3 false, by decide +kernel⟩,
   ⟨runS.modMedia (fun m => { m with openBlks := [200], blk := [(200, { storeBlkDefault 200 with eraseOpen := true, erasing := true, wp := 9 })] }),
     200, by decide +kernel⟩⟩

theorem witness_DeepTierOperations :
    (∃ (s : State) (m : Master) (a : BitVec 48) (bs : List Byte), (¬s.clk.ratioLost &&& s.ratios m a.toNat ≠ 0)
      ∧ (bs ≠ []) ∧ (s.inDeep a.toNat bs.length = true) ∧ (s.mig.deepSize ≤ 2 ^ 40) ∧ (s.bulkEnd ≤ deepBase)
      ∧ (s.media.deepLost = false) ∧ (s.media.roDeep = false) ∧ (s.gated blkDeep = false) ∧ (s.media.deepHold = false)
      ∧ (s.warned = false)) ∧
    (∃ (s : State) (e : BitVec 18), ((s.ext e.toNat).st ≠ ExtState.logged)
      ∧ ((s.ext e.toNat).st ≠ ExtState.relocating)) ∧
    (∃ (s : State),
      (List.foldl max 0 s.usedErases - List.foldl min (s.usedErases.headD 0) s.usedErases ≤ s.ent? 17920 7)) ∧
    (∃ (s : State) (k : Nat), ((s.nandBlk k).reads < s.ent? 17920 5)) ∧
    (∃ (s : State) (k : Nat), (s.extentsIn k = [])) ∧
    (∃ (s : State) (k : Nat), ((s.nandBlk k).bad = false) ∧ (k < s.media.nandBlocks)) ∧
    (∃ (s : State) (m : Master) (a : BitVec 48), (s.clk.ratioLost &&& s.ratios m a.toNat ≠ 0)) ∧
    (∃ (s : State) (m : Master) (a : BitVec 48) (bs : List Byte), (¬s.clk.ratioLost &&& s.ratios m a.toNat ≠ 0)
      ∧ (s.inDeep a.toNat bs.length = false)) ∧
    (∃ (s : State) (e : BitVec 18) (b : Nat), ((s.ext e.toNat).st = ExtState.logged) ∧ (s.ftlRuns = true)
      ∧ (16 ≤ (s.ext e.toNat).log.length ∨ s.deepQ.reqs = []) ∧ (s.freeBlock false = some b)) ∧
    (∃ (s : State) (k : Nat) (weak : Bool), (s.ftlRuns = true) ∧ (s.extentsIn k ≠ [])
      ∧ (weak = true ∨ s.ent? 17920 5 ≤ (s.nandBlk k).reads)) ∧
    (∃ (s : State) (k : Nat) (b : Nat), (s.oldestExtent = some k)
      ∧ (s.ent? 17920 7 < List.foldl max 0 s.usedErases - List.foldl min (s.usedErases.headD 0) s.usedErases)
      ∧ (s.ftlRuns = true) ∧ ((s.ext k).st ≠ ExtState.relocating) ∧ (s.freeBlock true = some b)) ∧
    (∃ (s : State) (k : Nat), ((s.nandBlk k).bad = true ∨ s.media.nandBlocks ≤ k)) ∧
    (∃ (s : State) (e : BitVec 18) (b : Nat), ((s.ext e.toNat).st = ExtState.relocating) ∧ (s.ftlRuns = true)
      ∧ ((s.ext e.toNat).next = some b)) ∧
    (∃ (s : State) (k : Nat) (j : Nat) (i : Nat) (y : Tile), (s.extentsIn k = [])
      ∧ (List.find? (fun p => decide (p.snd.tier = 3) && decide (p.snd.home = j)) s.mig.tiles = some (i, y))) ∧
    (∃ (s : State) (e : BitVec 18), ((s.ext e.toNat).st = ExtState.logged) ∧ ((s.ext e.toNat).log.length < 16)
      ∧ (s.deepQ.reqs ≠ [])) :=
  ⟨⟨deepS id, .host, BitVec.ofNat 48 deepBase, [1, 2], by decide +kernel⟩,
   ⟨deepS id, 0, by decide +kernel⟩,
   ⟨deepS id, by decide +kernel⟩,
   ⟨deepS id, 3, by decide +kernel⟩,
   ⟨deepS id, 3, by decide +kernel⟩,
   ⟨deepS id, 3, by decide +kernel⟩,
   ⟨(deepS id).modClk (fun c => { c with ratioLost := 7 }), .host, BitVec.ofNat 48 deepBase, by decide +kernel⟩,
   ⟨deepS id, .host, BitVec.ofNat 48 (deepBase + 2 ^ 40 - 1), [1, 2], by decide +kernel⟩,
   ⟨deepS (fun m => { m with ext := [(7, extOf 2 .logged)], nblk := [(1, { nandBlkDefault 1 with erases := 40 })] }),
     7, 3, by decide +kernel⟩,
   ⟨deepS (fun m => { m with ext := [(7, extOf 2 .logged)], nblk := [(1, { nandBlkDefault 1 with erases := 40 })] }),
     2, true, by decide +kernel⟩,
   ⟨deepS (fun m => { m with ext := [(7, extOf 2 .mapped), (8, extOf 3 .mapped)], nblk := [(2, { nandBlkDefault 1 with erases := 500 }), (9, { nandBlkDefault 1 with erases := 800 })] }),
     7, 9, by decide +kernel⟩,
   ⟨deepS (fun m => { m with ext := [(7, extOf 2 .mapped), (8, extOf 3 .mapped)], nblk := [(2, { nandBlkDefault 1 with erases := 500, bad := true })] }),
     2, by decide +kernel⟩,
   ⟨deepS (fun m => { m with ext := [(7, { extOf 2 .relocating with next := some 5 })] }), 7, 5, by decide +kernel⟩,
   ⟨(deepS id).modMig (fun g => { g with tiles := [(4, tileAt 3 8 false)] }), 2, 8, 4, tileAt 3 8 false,
     by decide +kernel⟩,
   ⟨{ deepS (fun m => { m with ext := [(7, extOf 2 .logged)], nblk := [(1, { nandBlkDefault 1 with erases := 40 })] }) with deepQ := { reqs := [req0 3], given := [0, 0, 0], grants := 14 } },
     7, by decide +kernel⟩⟩

theorem witness_DeepTrim :
    (∃ (s : State) (m : Master) (v : Word), (s.entryReady m 17920 6) ∧ (262144 ≤ BitVec.toNat v)) ∧
    (∃ (s : State) (m : Master) (v : Word), (s.entryReady m 17920 6) ∧ (BitVec.toNat v < 262144)
      ∧ (s.extentMoving (BitVec.toNat v) = false)) ∧
    (∃ (s : State) (m : Master) (v : Word), (s.entryReady m 17920 6) ∧ (BitVec.toNat v < 262144)
      ∧ (s.extentMoving (BitVec.toNat v) = true)) :=
  ⟨⟨deepS id, .host, 262144, by decide +kernel⟩,
   ⟨deepS (fun m => { m with ext := [(7, extOf 2 .logged)] }), .core 0, 7, by decide +kernel⟩,
   ⟨(deepS (fun m => { m with ext := [(7, extOf 2 .logged)] })).modMig (fun g => { g with objs := [(5, obj1 0 0 65536)], tiles := [(0, tileAt 3 (7 * 32) true)] }),
     .core 0, 7, by decide +kernel⟩⟩

/-- A tile at a bulk tier home being copied to the buffer tier, written to during the copy or not. -/
def copyRec : MoveRec := { mrec 1 (mraw 2 1 5 3 1) [(0, .copying 7 false)] with started := true }
def copyTile (dirty : Bool) : Tile := { tileAt 2 16 true with dst := 7, dstTier := 1, dirty := dirty }
def copyS (dirty : Bool) : State := pools (migS (fun g => { g with
  objs := [(5, obj1 0 3 200000)], tiles := [(0, copyTile dirty)], recs := [copyRec] }))

theorem copy_tile (dirty : Bool) : (copyS dirty).tileEnt ((copyS dirty).entryOf copyRec (0 : BitVec 13).toNat) = copyTile dirty := by
  cases dirty <;> decide +kernel

theorem copy_home (dirty : Bool) : (copyS dirty).homeBytes (copyTile dirty) =
    some (Memory.gets (copyS dirty).mem (tierBase 2 + 16 * tileSize) tileSize) := rfl

theorem witness_TilesMoveAndCommit_copy (dirty : Bool) : ∃ (s : State) (r : MoveRec) (o : BitVec 14) (k : BitVec 13) (d : Nat)
    (again : Bool) (bs : List Byte), s.mover o.toNat k.toNat = some (r, .copying d again) ∧ r.dstTier ≠ 0 ∧ s.warned = false
      ∧ s.reachLoc (s.tileEnt (s.entryOf r k.toNat)).tier (s.tileEnt (s.entryOf r k.toNat)).home false = .ok
      ∧ s.reachLoc r.dstTier d true = .ok ∧ s.homeBytes (s.tileEnt (s.entryOf r k.toNat)) = some bs
      ∧ (s.tileEnt (s.entryOf r k.toNat)).dirty = dirty := by
  refine ⟨copyS dirty, copyRec, 5, 0, 7, false, Memory.gets (copyS dirty).mem (tierBase 2 + 16 * tileSize) tileSize, ?_, ?_,
    ?_, ?_, ?_, ?_, ?_⟩
  case refine_6 => rw [copy_tile]; exact copy_home dirty
  case refine_7 => rw [copy_tile]; rfl
  all_goals cases dirty <;> decide +kernel

theorem witness_ArraysAreWritten_source : ∃ (s : State) (n : Nat) (src : List (BitVec 4)),
    (s.array n).st = .programming ∧ (s.array n).eraseOpen = false ∧ s.warned = false ∧ s.arr.hv.contains n = true
      ∧ ((s.array n).loops ≠ 0 ∨ (s.array n).rowsOpen ≤ (s.array n).rowsDone) ∧ (s.array n).rowsDone + 1 < 512
      ∧ (s.array n).source = some src ∧ src.length = 262144
      ∧ s.programCommitted n = true :=
  have h : ∀ src : List (BitVec 4), ∃ s : State, (s.array 300).st = .programming ∧ (s.array 300).eraseOpen = false
      ∧ s.warned = false ∧ s.arr.hv.contains 300 = true ∧ (s.array 300).rowsOpen ≤ (s.array 300).rowsDone
      ∧ (s.array 300).rowsDone + 1 < 512 ∧ (s.array 300).source = some src ∧ s.programCommitted 300 = true := fun src =>
    ⟨((runS.modArray 300 (fun p => { p with st := .programming, source := some src, progOpen := true })).modArr
      (fun a => { a with hv := [300] })).modMedia (fun m => { m with
        arrs := [(300, { arrRecDefault 0 with progOpen := true })] }), rfl, rfl, rfl, rfl, Nat.le_refl 0, (by decide : 0 + 1 < 512), rfl, rfl⟩
  have ⟨s, a, b, c, d, e, f, g, i⟩ := h (List.replicate 262144 0)
  ⟨s, 300, List.replicate 262144 0, a, b, c, d, .inr e, f, g, List.length_replicate, i⟩

/-! ### Chain -/

theorem witness_CascadePorts :
    (∃ (s : State) (f : Fin 4), ((s.port f.val).st = PortState.down) ∧ (s.portLive f.val = true)) ∧
    (∃ (s : State) (f : Fin 4), ((s.port f.val).st ≠ PortState.training)) ∧
    (∃ (s : State) (f : Fin 4), ((s.port f.val).st = PortState.down)) ∧
    (∃ (s : State) (f : Fin 4), ((s.port f.val).st ≠ PortState.up)) ∧
    (∃ (s : State) (f : Fin 4), (s.linked f.val = false)) ∧
    (∃ (s : State) (f : Fin 4), ((s.port f.val).st ≠ PortState.down ∨ s.portLive f.val = false)) ∧
    (∃ (s : State) (f : Fin 4), ((s.port f.val).st = PortState.training) ∧ ((s.port f.val).step = 4)) ∧
    (∃ (s : State) (f : Fin 4), ((s.port f.val).st = PortState.training) ∧ ((s.port f.val).step < 6)
      ∧ ((s.port f.val).attempt < 5)) ∧
    (∃ (s : State) (f : Fin 4), ((s.port f.val).st ≠ PortState.down)) ∧
    (∃ (s : State) (f : Fin 4), ((s.port f.val).st = PortState.training) ∧ ((s.port f.val).step < 4)) ∧
    (∃ (s : State) (f : Fin 4), ((s.port f.val).st = PortState.training) ∧ ((s.port f.val).step < 6)
      ∧ (5 ≤ (s.port f.val).attempt)) ∧
    (∃ (s : State) (f : Fin 4), ((s.port f.val).st = PortState.training) ∧ ((s.port f.val).step = 5)) ∧
    (∃ (s : State) (f : Fin 4) (r : TrainRec), ((s.port f.val).peer = some r)
      ∧ ((s.port f.val).st = PortState.training) ∧ ((s.port f.val).step = 6)) ∧
    (∃ (s : State) (f : Fin 4) (r : TrainRec) (n : Word), ((s.port f.val).st = PortState.up)
      ∧ (r.serial ≠ s.ident.identity) ∧ (n ≠ s.myNode) ∧ (s.boot.st ≠ BootState.booting) ∧ (∀ (x : Nat × TrainRec),
      x ∈ s.records → x.snd.serial = r.serial → x.snd.port ≠ r.port)) ∧
    (∃ (s : State) (f : Fin 4), (s.linked f.val = true) ∧ ((s.port f.val).replay ≠ []) ∧ ((s.port f.val).replays < 4)) ∧
    (∃ (s : State) (f : Fin 4), (s.linked f.val = true)) ∧
    (∃ (s : State) (f : Fin 4), (s.linked f.val = true) ∧ ((s.port f.val).replay ≠ []) ∧ (4 ≤ (s.port f.val).replays)) ∧
    (∃ (s : State) (role : BitVec 5) (z : Nat × Nat),
      (List.find? (fun x => decide (x.fst = role.toNat)) s.casc.routeWait = some z) ∧ (s.clk.due = [])) ∧
    (∃ (s : State) (f : Fin 4), (s.linked f.val = true) ∧ ((s.port f.val).replay = [])) ∧
    (∃ (s : State) (f : Fin 4) (w : BitVec 1024), (s.linked f.val = true)
      ∧ (crc32 (leBytes 124 w.toNat) = BitVec.extractLsb' 992 32 w) ∧ (w.toNat % 4 = 1)
      ∧ (w.toNat / 4 % 4096 = (match (s.port f.val).rxSeq with | some x => (x + 1) % 4096 | none => 0))) ∧
    (∃ (s : State) (f : Fin 4) (w : BitVec 1024), (s.linked f.val = true)
      ∧ (crc32 (leBytes 124 w.toNat) = BitVec.extractLsb' 992 32 w) ∧ (w.toNat % 4 = 0)) ∧
    (∃ (s : State) (f : Fin 4) (w : BitVec 1024), (s.linked f.val = true)
      ∧ (crc32 (leBytes 124 w.toNat) = BitVec.extractLsb' 992 32 w) ∧ (w.toNat % 4 = 1)
      ∧ (w.toNat / 4 % 4096 ≠ (match (s.port f.val).rxSeq with | some x => (x + 1) % 4096 | none => 0))
      ∧ ((s.port f.val).nakOwed = true)) ∧
    (∃ (s : State) (f : Fin 4) (w : BitVec 1024), (s.linked f.val = true)
      ∧ (crc32 (leBytes 124 w.toNat) = BitVec.extractLsb' 992 32 w) ∧ (w.toNat % 4 = 1)
      ∧ (w.toNat / 4 % 4096 ≠ (match (s.port f.val).rxSeq with | some x => (x + 1) % 4096 | none => 0))
      ∧ ((s.port f.val).nakOwed = false)) ∧
    (∃ (s : State) (f : Fin 4) (w : BitVec 1024), (s.linked f.val = true)
      ∧ (¬crc32 (leBytes 124 w.toNat) = BitVec.extractLsb' 992 32 w) ∧ ((s.port f.val).nakOwed = false)) ∧
    (∃ (s : State) (f : Fin 4) (w : BitVec 1024), (s.linked f.val = true)
      ∧ (¬crc32 (leBytes 124 w.toNat) = BitVec.extractLsb' 992 32 w) ∧ ((s.port f.val).nakOwed = true)) :=
  ⟨⟨port0 (fun p => { p with st := .down }), 0, by decide +kernel⟩,
   ⟨port0 (fun p => { p with st := .down }), 0, by decide +kernel⟩,
   ⟨port0 (fun p => { p with st := .down }), 0, by decide +kernel⟩,
   ⟨port0 (fun p => { p with st := .down }), 0, by decide +kernel⟩,
   ⟨port0 (fun p => { p with st := .down }), 0, by decide +kernel⟩,
   ⟨port0 (fun p => { p with st := .training, step := 4 }), 0, by decide +kernel⟩,
   ⟨port0 (fun p => { p with st := .training, step := 4 }), 0, by decide +kernel⟩,
   ⟨port0 (fun p => { p with st := .training, step := 4 }), 0, by decide +kernel⟩,
   ⟨port0 (fun p => { p with st := .training, step := 4 }), 0, by decide +kernel⟩,
   ⟨port0 (fun p => { p with st := .training, step := 3, attempt := 5 }), 0, by decide +kernel⟩,
   ⟨port0 (fun p => { p with st := .training, step := 3, attempt := 5 }), 0, by decide +kernel⟩,
   ⟨port0 (fun p => { p with st := .training, step := 5, attempt := 4 }), 0, by decide +kernel⟩,
   ⟨port0 (fun p => { p with st := .training, step := 6, attempt := 4, peer := some (tr 2), replay := [{ seq := 3, ring := none, units := [1, 2] }] }),
     0, tr 2, by decide +kernel⟩,
   ⟨(port0 (fun p => { p with rxSeq := some 4095, replay := [{ seq := 3, ring := none, units := [1, 2] }, { seq := 4, ring := none, units := [1, 2] }], ctrl := 0 })).sendPkt { pkt := (pk ptSignal 0 1 5 0 1 0 |> dest 1), data := [], via := none },
     0, tr 2, 9, by decide +kernel⟩,
   ⟨(port0 (fun p => { p with rxSeq := some 4095, replay := [{ seq := 3, ring := none, units := [1, 2] }, { seq := 4, ring := none, units := [1, 2] }], ctrl := 0 })).sendPkt { pkt := (pk ptSignal 0 1 5 0 1 0 |> dest 1), data := [], via := none },
     0, by decide +kernel⟩,
   ⟨(port0 (fun p => { p with rxSeq := some 4095, replay := [{ seq := 3, ring := none, units := [1, 2] }, { seq := 4, ring := none, units := [1, 2] }], ctrl := 0 })).sendPkt { pkt := (pk ptSignal 0 1 5 0 1 0 |> dest 1), data := [], via := none },
     0, by decide +kernel⟩,
   ⟨(port0 (fun p => { p with rxSeq := some 4094, replay := [{ seq := 3, ring := none, units := [1, 2] }, { seq := 4, ring := none, units := [1, 2] }], ctrl := 0, replays := 4, retrains := 255 })).modCasc (fun c => { c with remote := [rem (.master .host) false], sendWait := [{ pkt := (pk ptSignal 0 1 5 0 1 0 |> dest 1), data := [], via := none }], routeWait := [(1, 700)] }),
     0, by decide +kernel⟩,
   ⟨(port0 (fun p => { p with rxSeq := some 4094, replay := [{ seq := 3, ring := none, units := [1, 2] }, { seq := 4, ring := none, units := [1, 2] }], ctrl := 0, replays := 4, retrains := 255 })).modCasc (fun c => { c with remote := [rem (.master .host) false], sendWait := [{ pkt := (pk ptSignal 0 1 5 0 1 0 |> dest 1), data := [], via := none }], routeWait := [(1, 700)] }),
     1, (1, 700), by decide +kernel⟩,
   ⟨(port0 (fun p => { p with rxSeq := some 4095, ctrl := 0 })).modCasc (fun c => { c with sendWait := [{ pkt := (pk ptSignal 0 1 5 0 1 0 |> dest 1), data := [], via := none }] }),
     0, by decide +kernel⟩,
   have ⟨w, c, t, q⟩ := good_flit 1 (by decide); ⟨port0 (fun p => { p with rxSeq := some 4095 }), 0, w,
     by decide +kernel, c, t, q⟩,
   have ⟨w, c, t, q⟩ := good_flit 0 (by decide); ⟨port0 (fun p => { p with ctrl := 0 }), 0, w, by decide +kernel, c,
     t⟩,
   have ⟨w, c, t, q⟩ := good_flit 37 (by decide); ⟨port0 (fun p => { p with nakOwed := true, rxSeq := some 4 }), 0, w,
     by decide +kernel, c, t, by rw [q]; decide, rfl⟩,
   have ⟨w, c, t, q⟩ := good_flit 37 (by decide); ⟨port0 (fun p => { p with nakOwed := false, rxSeq := some 4 }), 0,
     w, by decide +kernel, c, t, by rw [q]; decide, rfl⟩,
   have ⟨w, c⟩ := bad_flit; ⟨recvS id, 0, w, by decide +kernel, c, rfl⟩,
   have ⟨w, c⟩ := bad_flit; ⟨port0 (fun p => { p with nakOwed := true }), 0, w, by decide +kernel, c, rfl⟩⟩

theorem witness_CascadeAccesses :
    (∃ (s : State) (p : Pkt), (s.clk.ratioLost &&& s.pktRatios p ≠ 0)) ∧
    (∃ (s : State) (p : Pkt), (s.stalePkt p = false)) ∧
    (∃ (s : State), (s.casc.isHead = true)) ∧
    (∃ (s : State) (p : Pkt) (data : List Byte) (f : Fin 4), (¬s.clk.ratioLost &&& s.pktRatios p ≠ 0)
      ∧ (s.gated blkBuffer = false) ∧ (p.ptype = ptWrite ∧ p.units.toNat ≤ 16 ∧ s.stalePkt p = false
      ∧ p.dst = s.casc.role ∧ (s.port f.val).st ≠ PortState.quarantine) ∧ (List.take (16 * p.units.toNat) data ≠ [])
      ∧ (inBuffer p.addr.toNat (List.take (16 * p.units.toNat) data).length = true)) ∧
    (∃ (s : State) (p : Pkt) (f : Fin 4), (¬s.clk.ratioLost &&& s.pktRatios p ≠ 0) ∧ (s.gated blkBuffer = false)
      ∧ (p.ptype = ptRead ∧ p.units.toNat ≤ 16 ∧ s.stalePkt p = false ∧ p.dst = s.casc.role
      ∧ (s.port f.val).st ≠ PortState.quarantine) ∧ (p.arg ≠ 0) ∧ (p.arg.toNat ≤ 16)
      ∧ (inBuffer p.addr.toNat (16 * p.arg.toNat) = true)) ∧
    (∃ (s : State) (p : Pkt) (f : Fin 4), (¬s.clk.ratioLost &&& s.pktRatios p ≠ 0)
      ∧ (s.region p.addr.toNat = Region.nowhere) ∧ (p.ptype = ptRead ∧ p.units.toNat ≤ 16 ∧ s.stalePkt p = false
      ∧ p.dst = s.casc.role ∧ (s.port f.val).st ≠ PortState.quarantine) ∧ (p.arg ≠ 0) ∧ (p.arg.toNat ≤ 16)) ∧
    (∃ (s : State) (p : Pkt) (data : List Byte) (f : Fin 4), (¬s.clk.ratioLost &&& s.pktRatios p ≠ 0)
      ∧ (s.region p.addr.toNat = Region.nowhere) ∧ (p.ptype = ptWrite ∧ p.units.toNat ≤ 16 ∧ s.stalePkt p = false
      ∧ p.dst = s.casc.role ∧ (s.port f.val).st ≠ PortState.quarantine) ∧ (List.take (16 * p.units.toNat) data ≠ [])) ∧
    (∃ (s : State) (p : Pkt) (f : Fin 4), (¬s.clk.ratioLost &&& s.pktRatios p ≠ 0) ∧ (p.ptype = ptRead
      ∧ p.units.toNat ≤ 16 ∧ s.stalePkt p = false ∧ p.dst = s.casc.role ∧ (s.port f.val).st ≠ PortState.quarantine)
      ∧ (p.arg = 0) ∧ ((s.roleOf p.src.toNat).head = true)) ∧
    (∃ (s : State), (s.casc.isHead = false)) ∧
    (∃ (s : State) (p : Pkt) (f : Fin 4) (r : Remote) (m : Master), (p.ptype = ptReadRsp ∧ p.units.toNat ≤ 16
      ∧ s.stalePkt p = false ∧ p.dst = s.casc.role ∧ (s.port f.val).st ≠ PortState.quarantine)
      ∧ (s.remoteOf p false = some r) ∧ (r.who = Requester.master m) ∧ (r.write = false) ∧ (bits p.arg.toNat 0 8 = 0)) ∧
    (∃ (s : State) (r : Remote) (m : Master), (List.find? (fun x => decide (x.tag = r.tag)) s.casc.remote = some r)
      ∧ (r.who = Requester.master m) ∧ (s.clk.due = [])) ∧
    (∃ (s : State) (p : Pkt) (f : Fin 4) (r : Remote) (m : Master), (p.ptype = ptWriteAck ∧ p.units.toNat ≤ 16
      ∧ s.stalePkt p = false ∧ p.dst = s.casc.role ∧ (s.port f.val).st ≠ PortState.quarantine)
      ∧ (s.remoteOf p true = some r) ∧ (r.who = Requester.master m) ∧ (r.write = true) ∧ (bits p.arg.toNat 0 8 = 0)) ∧
    (∃ (s : State) (p : Pkt) (f : Fin 4), (p.ptype = ptReadRsp ∧ p.units.toNat ≤ 16 ∧ s.stalePkt p = false
      ∧ p.dst = s.casc.role ∧ (s.port f.val).st ≠ PortState.quarantine) ∧ (s.remoteOf p false = none)) ∧
    (∃ (s : State) (p : Pkt) (f : Fin 4), (p.ptype = ptWriteAck ∧ p.units.toNat ≤ 16 ∧ s.stalePkt p = false
      ∧ p.dst = s.casc.role ∧ (s.port f.val).st ≠ PortState.quarantine) ∧ (s.remoteOf p true = none)) ∧
    (∃ (s : State) (p : Pkt) (f : Fin 4), (p.ptype = ptSignal ∧ p.units.toNat ≤ 16 ∧ s.stalePkt p = false
      ∧ p.dst = s.casc.role ∧ (s.port f.val).st ≠ PortState.quarantine)) ∧
    (∃ (s : State) (p : Pkt), (s.stalePkt p = true)) ∧
    (∃ (s : State), (s.casc.sendWait = [])) ∧
    (∃ (s : State) (x : Outgoing), (s.casc.sendWait = []) ∧ (s.trySend x = none)) ∧
    (∃ (s : State) (p : Pkt) (f : Fin 4) (r : Remote) (m : Master), (p.ptype = ptReadRsp ∧ p.units.toNat ≤ 16
      ∧ s.stalePkt p = false ∧ p.dst = s.casc.role ∧ (s.port f.val).st ≠ PortState.quarantine)
      ∧ (s.remoteOf p false = some r) ∧ (r.who = Requester.master m) ∧ (r.write = false) ∧ (bits p.arg.toNat 0 8 ≠ 0)) ∧
    (∃ (s : State) (p : Pkt) (f : Fin 4) (r : Remote) (m : Master), (p.ptype = ptWriteAck ∧ p.units.toNat ≤ 16
      ∧ s.stalePkt p = false ∧ p.dst = s.casc.role ∧ (s.port f.val).st ≠ PortState.quarantine)
      ∧ (s.remoteOf p true = some r) ∧ (r.who = Requester.master m) ∧ (r.write = true) ∧ (bits p.arg.toNat 0 8 ≠ 0)) ∧
    (∃ (s : State) (x : Outgoing) (y : State), (s.casc.sendWait = []) ∧ (s.trySend x = some y)) :=
  ⟨⟨(chain 0 id).modClk (fun c => { c with ratioLost := 7 }), pk ptWrite 1 2 0x2000 4 5 1, by decide +kernel⟩,
   ⟨(chain 0 id).modClk (fun c => { c with ratioLost := 7 }), pk ptWrite 1 2 0x2000 4 5 1, by decide +kernel⟩,
   ⟨(chain 0 id).modClk (fun c => { c with ratioLost := 7 }), by decide +kernel⟩,
   ⟨chain 0 id, pk ptWrite 1 2 0x2000 4 5 1, d16, 0, by decide +kernel⟩,
   ⟨chain 0 id, pk ptRead 1 2 0x2000 4 16 0, 0, by decide +kernel⟩,
   ⟨chain 0 id, pk ptRead 1 2 0xFFFFFFFFFFFF 4 16 0, 0, by decide +kernel⟩,
   ⟨chain 0 id, pk ptWrite 1 2 0xFFFFFFFFFFFF 4 16 1, d16, 0, by decide +kernel⟩,
   ⟨chain 1 (fun c => { c with watch := some 3 }), pk ptRead 0 1 0xFFFFFFFFFFFF 4 0 0 |> dest 1, 0, by decide +kernel⟩,
   ⟨chain 1 (fun c => { c with watch := some 3 }), by decide +kernel⟩,
   ⟨chain 0 (fun c => { c with remote := [rem (.master .host) false] }), pk ptReadRsp 1 2 0 9 0 1, 0,
     rem (.master .host) false, .host, by decide +kernel⟩,
   ⟨chain 0 (fun c => { c with remote := [rem (.master .host) false] }), rem (.master .host) false, .host,
     by decide +kernel⟩,
   ⟨chain 0 (fun c => { c with remote := [rem (.master (.core 1)) true] }), pk ptWriteAck 1 2 0 9 0 0, 0,
     rem (.master (.core 1)) true, .core 1, by decide +kernel⟩,
   ⟨chain 0 (fun c => { c with remote := [rem (.master .host) true] }), pk ptReadRsp 1 2 0 9 0 1, 0,
     by decide +kernel⟩,
   ⟨chain 0 (fun c => { c with remote := [rem (.master .host) false] }), pk ptWriteAck 1 2 0 9 0 1, 0,
     by decide +kernel⟩,
   ⟨chain 0 id, pk ptSignal 1 2 16383 9 7 0, 0, by decide +kernel⟩,
   ⟨chain 0 id, pk ptSignal 1 3 16383 9 7 0, by decide +kernel⟩,
   ⟨(chain 0 id).modPort 0 (fun p => { p with st := .down }), by decide +kernel⟩,
   ⟨(chain 0 id).modPort 0 (fun p => { p with st := .down }),
     { pkt := (pk ptSignal 0 1 16383 9 7 0 |> dest 1), data := [], via := none }, by decide +kernel⟩,
   ⟨chain 0 (fun c => { c with remote := [rem (.master .host) false] }), pk ptReadRsp 1 2 0 9 1 0, 0,
     rem (.master .host) false, .host, by decide +kernel⟩,
   ⟨chain 0 (fun c => { c with remote := [rem (.master (.core 1)) true] }), pk ptWriteAck 1 2 0 9 1 0, 0,
     rem (.master (.core 1)) true, .core 1, by decide +kernel⟩,
   (Option.isSome_iff_exists.mp (by decide +kernel)).elim (fun y e => ⟨chain 0 id,
     { pkt := (pk ptSignal 0 1 16383 9 7 0 |> dest 1), data := [], via := none }, y, rfl, e⟩)⟩

theorem witness_CascadeRings :
    (∃ (s : State) (p : Pkt) (f : Fin 4), (p.ptype = ptRingRec ∧ p.units.toNat ≤ 16 ∧ s.stalePkt p = false
      ∧ p.dst = s.casc.role ∧ (s.port f.val).st ≠ PortState.quarantine) ∧ (s.casc.rbinds.contains (bindOf p) = true)
      ∧ (s.freeSlots (ringTo p) ≠ 0)) ∧
    (∃ (s : State), (s.str.enable = none)) ∧
    (∃ (s : State) (p : Pkt) (f : Fin 4), (p.ptype = ptRingRec ∧ p.units.toNat ≤ 16 ∧ s.stalePkt p = false
      ∧ p.dst = s.casc.role ∧ (s.port f.val).st ≠ PortState.quarantine)
      ∧ (s.casc.rbinds.contains (bindOf p) = false ∨ s.freeSlots (ringTo p) = 0)) ∧
    (∃ (s : State) (p : Pkt) (f : Fin 4), (p.ptype = ptRingBind ∧ p.units.toNat ≤ 16 ∧ s.stalePkt p = false
      ∧ p.dst = s.casc.role ∧ (s.port f.val).st ≠ PortState.quarantine) ∧ (p.arg = 1)) ∧
    (∃ (s : State) (p : Pkt) (f : Fin 4), (p.ptype = ptRingBind ∧ p.units.toNat ≤ 16 ∧ s.stalePkt p = false
      ∧ p.dst = s.casc.role ∧ (s.port f.val).st ≠ PortState.quarantine) ∧ (p.arg = 0)
      ∧ (s.casc.rbinds.contains (bindOf p) = false)
      ∧ (s.localProducer (ringTo p) = true ∨ s.remoteProducer (ringTo p) = true)) ∧
    (∃ (s : State) (p : Pkt) (f : Fin 4), (p.ptype = ptRingBind ∧ p.units.toNat ≤ 16 ∧ s.stalePkt p = false
      ∧ p.dst = s.casc.role ∧ (s.port f.val).st ≠ PortState.quarantine) ∧ (p.arg = 0)
      ∧ (s.casc.rbinds.contains (bindOf p) = false) ∧ (s.localProducer (ringTo p) = false)
      ∧ (s.remoteProducer (ringTo p) = false)) ∧
    (∃ (s : State) (p : Pkt) (f : Fin 4), (p.ptype = ptRingCredit ∧ p.units.toNat ≤ 16 ∧ s.stalePkt p = false
      ∧ p.dst = s.casc.role ∧ (s.port f.val).st ≠ PortState.quarantine)
      ∧ (((s.stream (ringFrom p)).recv (ringEntry p)).kind = 2)
      ∧ (((s.stream (ringFrom p)).recv (ringEntry p)).device = p.src.toNat)
      ∧ (((s.stream (ringFrom p)).recv (ringEntry p)).stream = ringTo p) ∧ (s.str.enable = none) ∧ (p.arg ≠ 65535)) ∧
    (∃ (s : State) (p : Pkt) (w : EnableWait) (f : Fin 4), (p.ptype = ptRingCredit ∧ p.units.toNat ≤ 16
      ∧ s.stalePkt p = false ∧ p.dst = s.casc.role ∧ (s.port f.val).st ≠ PortState.quarantine)
      ∧ (((s.stream (ringFrom p)).recv (ringEntry p)).kind = 2)
      ∧ (((s.stream (ringFrom p)).recv (ringEntry p)).device = p.src.toNat)
      ∧ (((s.stream (ringFrom p)).recv (ringEntry p)).stream = ringTo p) ∧ (s.str.enable = some w)
      ∧ (w.waits.contains (ringFrom p, ringEntry p) = true) ∧ (p.arg = 65535)) ∧
    (∃ (s : State) (q : BitVec 4) (w : EnableWait), (s.str.enable = some w) ∧ (∃ y, y ∈ w.waits ∧ y.fst = q.toNat)
      ∧ (s.clk.due = []) ∧ (w.master ≠ some Master.bundle)) ∧
    (∃ (s : State) (p : Pkt) (w : EnableWait) (f : Fin 4), (p.ptype = ptRingCredit ∧ p.units.toNat ≤ 16
      ∧ s.stalePkt p = false ∧ p.dst = s.casc.role ∧ (s.port f.val).st ≠ PortState.quarantine)
      ∧ (((s.stream (ringFrom p)).recv (ringEntry p)).kind = 2)
      ∧ (((s.stream (ringFrom p)).recv (ringEntry p)).device = p.src.toNat)
      ∧ (((s.stream (ringFrom p)).recv (ringEntry p)).stream = ringTo p) ∧ (s.str.enable = some w)
      ∧ (w.waits.contains (ringFrom p, ringEntry p) = true) ∧ (p.arg ≠ 65535) ∧ (∃ y, y ∈ w.waits ∧ y ≠ (ringFrom p,
      ringEntry p))) ∧
    (∃ (s : State) (p : Pkt) (f : Fin 4), (p.ptype = ptRingCredit ∧ p.units.toNat ≤ 16 ∧ s.stalePkt p = false
      ∧ p.dst = s.casc.role ∧ (s.port f.val).st ≠ PortState.quarantine)
      ∧ (((s.stream (ringFrom p)).recv (ringEntry p)).kind ≠ 2 ∨ ((s.stream (ringFrom p)).recv (ringEntry p)).device ≠ p.src.toNat ∨ ((s.stream (ringFrom p)).recv (ringEntry p)).stream ≠ ringTo p)) ∧
    (∃ (s : State) (p : Pkt) (x : Stall) (f : Fin 4), (p.ptype = ptProbe ∧ p.units.toNat ≤ 16 ∧ s.stalePkt p = false
      ∧ p.dst = s.casc.role ∧ (s.port f.val).st ≠ PortState.quarantine) ∧ (s.seq.stall = some x)
      ∧ (s.seq.st = SeqState.stalled) ∧ (x.held = false) ∧ (s.isRankMaster = true) ∧ (x.probed = true)
      ∧ (p.addr.toNat % 512 = s.probeId) ∧ (bits p.arg.toNat 0 9 = s.probeId)) ∧
    (∃ (s : State) (p : Pkt) (x : Stall) (f : Fin 4), (p.ptype = ptProbe ∧ p.units.toNat ≤ 16 ∧ s.stalePkt p = false
      ∧ p.dst = s.casc.role ∧ (s.port f.val).st ≠ PortState.quarantine) ∧ (s.seq.stall = some x)
      ∧ (s.seq.st = SeqState.stalled) ∧ (x.held = false) ∧ (s.isRankMaster = true) ∧ (p.addr.toNat % 512 ≠ s.probeId)) ∧
    (∃ (s : State) (p : Pkt) (f : Fin 4), (p.ptype = ptProbe ∧ p.units.toNat ≤ 16 ∧ s.stalePkt p = false
      ∧ p.dst = s.casc.role ∧ (s.port f.val).st ≠ PortState.quarantine) ∧ (s.isRankMaster = true)
      ∧ (s.seq.stall = none)) ∧
    (∃ (s : State) (p : Pkt) (f : Fin 4), (p.ptype = ptRingBind ∧ p.units.toNat ≤ 16 ∧ s.stalePkt p = false
      ∧ p.dst = s.casc.role ∧ (s.port f.val).st ≠ PortState.quarantine) ∧ (p.arg = 0)
      ∧ (s.casc.rbinds.contains (bindOf p) = true)) ∧
    (∃ (s : State) (p : Pkt) (f : Fin 4), (p.ptype = ptRingBind ∧ p.units.toNat ≤ 16 ∧ s.stalePkt p = false
      ∧ p.dst = s.casc.role ∧ (s.port f.val).st ≠ PortState.quarantine) ∧ (p.arg ≠ 0) ∧ (p.arg ≠ 1)) ∧
    (∃ (s : State) (p : Pkt) (f : Fin 4), (p.ptype = ptRingCredit ∧ p.units.toNat ≤ 16 ∧ s.stalePkt p = false
      ∧ p.dst = s.casc.role ∧ (s.port f.val).st ≠ PortState.quarantine)
      ∧ (((s.stream (ringFrom p)).recv (ringEntry p)).kind = 2)
      ∧ (((s.stream (ringFrom p)).recv (ringEntry p)).device = p.src.toNat)
      ∧ (((s.stream (ringFrom p)).recv (ringEntry p)).stream = ringTo p) ∧ (s.str.enable = none) ∧ (p.arg = 65535)) ∧
    (∃ (s : State) (p : Pkt) (x : Stall) (f : Fin 4), (p.ptype = ptProbe ∧ p.units.toNat ≤ 16 ∧ s.stalePkt p = false
      ∧ p.dst = s.casc.role ∧ (s.port f.val).st ≠ PortState.quarantine) ∧ (s.isRankMaster = true)
      ∧ (s.seq.stall = some x) ∧ (p.addr.toNat % 512 = s.probeId)
      ∧ (x.probed = false ∨ bits p.arg.toNat 0 9 ≠ s.probeId)) ∧
    (∃ (s : State) (p : Pkt) (x : Stall) (f : Fin 4), (p.ptype = ptProbe ∧ p.units.toNat ≤ 16 ∧ s.stalePkt p = false
      ∧ p.dst = s.casc.role ∧ (s.port f.val).st ≠ PortState.quarantine) ∧ (s.isRankMaster = true)
      ∧ (s.seq.stall = some x) ∧ (s.seq.st ≠ SeqState.stalled ∨ x.held = true)) ∧
    (∃ (s : State) (p : Pkt) (f : Fin 4), (p.ptype = ptProbe ∧ p.units.toNat ≤ 16 ∧ s.stalePkt p = false
      ∧ p.dst = s.casc.role ∧ (s.port f.val).st ≠ PortState.quarantine) ∧ (s.isRankMaster = false)) :=
  ⟨⟨strS id (fun c => { c with rbinds := [bind1] }), pk ptRingRec 1 2 2 (5 + 16) 0 4, 0, by decide +kernel⟩,
   ⟨strS id (fun c => { c with rbinds := [bind1] }), by decide +kernel⟩,
   ⟨strS id id, pk ptRingRec 1 2 2 (5 + 16) 0 4, 0, by decide +kernel⟩,
   ⟨strS id (fun c => { c with rbinds := [bind1] }), pk ptRingBind 1 2 2 (5 + 16) 1 0, 0, by decide +kernel⟩,
   ⟨strS id (fun c => { c with rbinds := [bind1] }), pk ptRingBind 1 2 2 (5 + 32) 0 0, 0, by decide +kernel⟩,
   ⟨strS id id, pk ptRingBind 1 2 2 (5 + 32) 0 0, 0, by decide +kernel⟩,
   ⟨recvS id, pk ptRingCredit 1 2 3 (2 + 16) 3 0, 0, by decide +kernel⟩,
   ⟨{ recvS id with str := { (recvS id).str with enable := some (waitE .host [(2, 1)]) } },
     pk ptRingCredit 1 2 3 (2 + 16) 0xFFFF 0, waitE .host [(2, 1)], 0, by decide +kernel⟩,
   ⟨{ recvS id with str := { (recvS id).str with enable := some (waitE .host [(2, 1)]) } }, 2, waitE .host [(2, 1)],
     by decide +kernel⟩,
   ⟨{ recvS id with str := { (recvS id).str with enable := some (waitE (.core 1) [(2, 1), (4, 0)]) } },
     pk ptRingCredit 1 2 3 (2 + 16) 8 0, waitE (.core 1) [(2, 1), (4, 0)], 0, by decide +kernel⟩,
   ⟨{ recvS id with str := { (recvS id).str with enable := some (waitE (.mailbox 1) [(2, 1), (4, 0)]) } },
     pk ptRingCredit 1 2 3 (2 + 32) 8 0, 0, by decide +kernel⟩,
   ⟨(chain 0 id).modSeq (fun q => { q with st := .stalled, stall := some (stl true) }), pk ptProbe 0 1 0 0 0 0,
     stl true, 0, by decide +kernel⟩,
   ⟨(chain 0 id).modSeq (fun q => { q with st := .stalled, stall := some (stl true) }), pk ptProbe 0 1 7 0 0 0,
     stl true, 0, by decide +kernel⟩,
   ⟨(chain 0 id), pk ptProbe 0 1 7 0 0 0, 0, by decide +kernel⟩,
   ⟨strS id (fun c => { c with rbinds := [bind1] }), pk ptRingBind 1 2 2 (5 + 16) 0 0, 0, by decide +kernel⟩,
   ⟨strS id (fun c => { c with rbinds := [bind1] }), pk ptRingBind 1 2 2 (5 + 16) 3 0, 0, by decide +kernel⟩,
   ⟨recvS id, pk ptRingCredit 1 2 3 (2 + 16) 0xFFFF 0, 0, by decide +kernel⟩,
   ⟨(chain 0 id).modSeq (fun q => { q with st := .stalled, stall := some (stl false) }), pk ptProbe 0 1 0 0 0 0,
     stl false, 0, by decide +kernel⟩,
   ⟨(chain 0 id).modSeq (fun q => { q with st := .halted, stall := some (stl false) }), pk ptProbe 0 1 0 0 0 0,
     stl false, 0, by decide +kernel⟩,
   ⟨(chain 1 id), pk ptProbe 0 1 7 0 0 0 |> dest 1, 0, by decide +kernel⟩⟩

theorem witness_RolesAndFencing :
    (∃ (s : State) (role : BitVec 5), (s.casc.isHead = true) ∧ (role.toNat ≠ s.me) ∧ (s.rolePresent role.toNat = true)
      ∧ (tget zeroNat s.casc.silent role.toNat ≠ 0) ∧ (s.casc.suspended.contains role.toNat = false)
      ∧ (s.clk.due = [])) ∧
    (∃ (s : State) (m : Master) (v : BitVec 8), (s.entryReady m 28672 11) ∧ (v.toNat ≤ 31) ∧ (s.casc.isHead = true)
      ∧ (v.toNat ≠ s.me) ∧ (s.rolePresent v.toNat = true)) ∧
    (∃ (s : State), (s.casc.isHead = true)) ∧
    (∃ (s : State), (s.casc.watch = none)) ∧
    (∃ (s : State), (s.casc.shade ≠ ShadeState.testing)) ∧
    (∃ (s : State) (m : Master) (w : BitVec 16), (s.entryReady m 28672 10) ∧ (s.casc.isHead = true
      ∧ ((s.roleOf (w.toNat % 32)).st = RoleState.dead ∨ (s.roleOf (w.toNat % 32)).st = RoleState.vacant)
      ∧ (s.roleOf (w.toNat / 32 % 32)).st = RoleState.standby ∧ s.rankTaken (s.roleOf (w.toNat % 32)).rank = false)
      ∧ (¬barOf (w.toNat % 32) (s.roleOf (w.toNat / 32 % 32)).serial ∈ s.casc.bars)) ∧
    (∃ (s : State) (m : Master) (v : BitVec 8), (s.entryReady m 28672 11) ∧ (31 < v.toNat)) ∧
    (∃ (s : State) (p : Pkt), (p.ptype = ptRecheck) ∧ (p.units.toNat ≤ 16) ∧ (p.dst = s.casc.role)
      ∧ (p.addr.toNat % 16 = 1) ∧ (s.casc.isHead = true)) ∧
    (∃ (s : State) (m : Master) (v : BitVec 8), (s.entryReady m 28672 11) ∧ (v.toNat ≤ 31)
      ∧ (s.casc.isHead = false ∨ v.toNat = s.me ∨ s.rolePresent v.toNat = false)) ∧
    (∃ (s : State) (m : Master) (w : BitVec 16), (s.entryReady m 28672 10) ∧ (s.casc.isHead = true
      ∧ ((s.roleOf (w.toNat % 32)).st = RoleState.dead ∨ (s.roleOf (w.toNat % 32)).st = RoleState.vacant)
      ∧ (s.roleOf (w.toNat / 32 % 32)).st = RoleState.standby ∧ s.rankTaken (s.roleOf (w.toNat % 32)).rank = false)
      ∧ (barOf (w.toNat % 32) (s.roleOf (w.toNat / 32 % 32)).serial ∈ s.casc.bars)) ∧
    (∃ (s : State) (p : Pkt), (p.ptype = ptRecheck) ∧ (p.units.toNat ≤ 16) ∧ (p.dst = s.casc.role)
      ∧ (p.addr.toNat % 16 = 2) ∧ (s.casc.isHead = true)) ∧
    (∃ (s : State) (m : Master) (w : BitVec 16), (s.entryReady m 28672 10) ∧ (¬(s.casc.isHead = true
      ∧ ((s.roleOf (w.toNat % 32)).st = RoleState.dead ∨ (s.roleOf (w.toNat % 32)).st = RoleState.vacant)
      ∧ (s.roleOf (w.toNat / 32 % 32)).st = RoleState.standby ∧ s.rankTaken (s.roleOf (w.toNat % 32)).rank = false))) ∧
    (∃ (s : State), (s.casc.isHead = false)) ∧
    (∃ (s : State) (k : Nat), (s.casc.watch = some k) ∧ (s.casc.isHead = false) ∧ (s.casc.shade = ShadeState.none)
      ∧ (s.upPorts ≠ []) ∧ (s.pwr.mode ≠ 4) ∧ (s.boot.stopped = false) ∧ (s.clk.due = [])) ∧
    (∃ (s : State) (p : Pkt), (p.ptype = ptRecheck) ∧ (p.units.toNat ≤ 16) ∧ (p.dst = s.casc.role)
      ∧ (p.addr.toNat % 16 = 0) ∧ ((s.roleOf p.src.toNat).head = true) ∧ (s.casc.isHead = false)
      ∧ (s.casc.shade = ShadeState.none)) ∧
    (∃ (s : State) (p : Pkt) (f : Fin 4), (p.ptype = ptEpoch ∧ p.units.toNat ≤ 16 ∧ s.stalePkt p = false
      ∧ p.dst = s.casc.role ∧ (s.port f.val).st ≠ PortState.quarantine) ∧ ((s.roleOf p.src.toNat).head = true)) ∧
    (∃ (s : State), (s.casc.shade = ShadeState.testing)) ∧
    (∃ (s : State) (p : Pkt) (f : Fin 4), (p.ptype = ptEpoch ∧ p.units.toNat ≤ 16 ∧ s.stalePkt p = false
      ∧ p.dst = s.casc.role ∧ (s.port f.val).st ≠ PortState.quarantine) ∧ ((s.roleOf p.src.toNat).head = false)) :=
  ⟨⟨chain 0 (fun c => { c with silent := [(2, 401)] }), 2, by decide +kernel⟩,
   ⟨chain 0 (fun c => { c with silent := [(2, 401)] }), .host, 3, by decide +kernel⟩,
   ⟨chain 0 (fun c => { c with silent := [(2, 401)] }), by decide +kernel⟩,
   ⟨chain 0 (fun c => { c with silent := [(2, 401)] }), by decide +kernel⟩,
   ⟨chain 0 (fun c => { c with silent := [(2, 401)] }), by decide +kernel⟩,
   ⟨chain 0 (fun c => { c with silent := [(2, 401)] }), .host, 4 + 3 * 32, by decide +kernel⟩,
   ⟨chain 0 id, .host, 32, by decide +kernel⟩,
   ⟨chain 0 id, pk ptRecheck 3 7 1 0 0 0, by decide +kernel⟩,
   ⟨chain 0 (fun c => { c with bars := List.replicate 32 (barOf 4 103) }), .core 0, 0, by decide +kernel⟩,
   ⟨chain 0 (fun c => { c with bars := List.replicate 32 (barOf 4 103) }), .core 0, 4 + 3 * 32, by decide +kernel⟩,
   ⟨chain 0 (fun c => { c with shades := [barOf 3 7], ports := [(1, { upTo 3 with st := .quarantine })] }),
     pk ptRecheck 3 7 2 0 0 0, by decide +kernel⟩,
   ⟨chain 0 (fun c => { c with shades := [barOf 3 7], ports := [(1, { upTo 3 with st := .quarantine })] }), .core 0,
     1 + 3 * 32, by decide +kernel⟩,
   ⟨(chain 1 (fun c => { c with watch := some 7 })).modStream 2 (fun b => { b with st := .enabled }),
     by decide +kernel⟩,
   ⟨(chain 1 (fun c => { c with watch := some 7 })).modStream 2 (fun b => { b with st := .enabled }), 7,
     by decide +kernel⟩,
   ⟨(chain 1 (fun c => { c with watch := some 7 })).modStream 2 (fun b => { b with st := .enabled }),
     pk ptRecheck 0 7 0 0 0 0 |> dest 1, by decide +kernel⟩,
   ⟨(chain 1 (fun c => { c with shade := .testing })), pk ptEpoch 0 1 (3 + 3 * 32) 0 77 0 |> dest 1, 0,
     by decide +kernel⟩,
   ⟨(chain 1 (fun c => { c with shade := .testing })), by decide +kernel⟩,
   ⟨(chain 1 (fun c => { c with shade := .testing })), pk ptEpoch 2 3 (3 + 3 * 32) 0 77 0 |> dest 1, 0,
     by decide +kernel⟩⟩

theorem witness_FlitsAndFramesAreWhole :
    (∃ (p : Port) (ftype : Nat) (seq : Nat) (lock : Nat) (units : List Byte), (ftype < 4) ∧ (seq < 4096)
      ∧ (lock < 2 ^ 32) ∧ (units.length ≤ 112) ∧ (∀ (x : Nat), p.rxSeq = some x → x < 4096)) ∧
    (∃ (p : Port) (ftype : Nat) (seq : Nat) (lock : Nat) (units : List Byte) (x : Nat), (ftype < 4) ∧ (seq < 4096)
      ∧ (lock < 2 ^ 32) ∧ (units.length ≤ 112) ∧ (∀ (x : Nat), p.rxSeq = some x → x < 4096) ∧ (p.rxSeq = some x)) ∧
    (∃ (p : Port) (ftype : Nat) (seq : Nat) (lock : Nat) (nak : Bool) (units : List Byte) (z : Byte), (ftype < 4)
      ∧ (seq < 4096) ∧ (lock < 2 ^ 32) ∧ (units.length ≤ 112) ∧ (∀ (x : Nat), p.rxSeq = some x → x < 4096)
      ∧ (z ∈ List.take (112 - units.length) (List.drop (8 + units.length) (flitBytes p ftype seq lock nak units)))) ∧
    (∃ (ports : List Nat), (ports.Nodup)) ∧
    (∃ (s : State) (k : Nat) (r : BitVec 5) (rest : List (BitVec 5)),
      (List.filter (fun x => !s.casc.lock.readies.contains x) (s.holdersAt k) = r :: rest)) ∧
    (∃ (g : Segment), (g.payload.length ≤ 240)) ∧
    (∃ (e : Encap) (et : BitVec 16) (g : Segment), (g.payload.length ≤ 240) ∧ (e.net = EncapNet.raw et)
      ∧ (et ≠ 33024)) ∧
    (∃ (s : State) (k : Nat), (∀ (r : BitVec 5), r ∈ s.holdersAt k → r ∈ s.casc.lock.readies)) :=
  ⟨⟨flitP, 1, 4095, 4294967295, d16, by decide +kernel⟩,
   ⟨flitP, 1, 4095, 4294967295, d16, 4095, by decide +kernel⟩,
   ⟨flitP, 1, 4095, 4294967295, true, d16, 0, by decide +kernel⟩,
   ⟨[0, 3], by decide +kernel⟩,
   ⟨lockS id, 0, 0, [], by decide +kernel⟩,
   ⟨segA, by decide +kernel⟩,
   ⟨encA none, 0x88B5, segA, by decide +kernel⟩,
   ⟨lockS (fun l => { l with readies := [0], latest := 100 }), 0, by decide +kernel⟩⟩

/-! ### Network -/

theorem witness_DictionaryRequests :
    (∃ (s : State) (m : Master) (r : DictReq), (s.answers = true) ∧ (s.umbraMove = false) ∧ (s.coreHolds = false)
      ∧ (s.net.held = []) ∧ (s.behind m = false) ∧ (rowOf r.index.toNat r.sub.toNat = none)) ∧
    (∃ (s : State) (m : Master) (v : BitVec 8), (s.answers = true) ∧ (s.umbraMove = false) ∧ (s.coreHolds = false)
      ∧ (s.net.held = []) ∧ (s.behind m = false) ∧ (s.entryOpen 4352 10 = true) ∧ (v = 1)) ∧
    (∃ (s : State) (m : Master) (n : Nat), (s.answers = true) ∧ (s.umbraMove = false) ∧ (s.coreHolds = false)
      ∧ (s.net.held = []) ∧ (s.behind m = false)
      ∧ (¬s.clk.ratioLost &&& s.ratios (Master.core 0) (s.windowAddr m) ≠ 0) ∧ (m ≠ Master.bundle)
      ∧ (s.entryOpen 4608 2 = true) ∧ (s.gated blkBuffer = false) ∧ (0 < n) ∧ (n ≤ 4096)
      ∧ (inBuffer (s.windowAddr m) n = true)) ∧
    (∃ (s : State) (m : Master) (bs : List Byte), (s.answers = true) ∧ (s.umbraMove = false) ∧ (s.coreHolds = false)
      ∧ (s.net.held = []) ∧ (s.behind m = false)
      ∧ (¬s.clk.ratioLost &&& s.ratios (Master.core 0) (s.windowAddr m) ≠ 0) ∧ (m ≠ Master.bundle)
      ∧ (s.entryOpen 4608 2 = true) ∧ (s.gated blkBuffer = false) ∧ (bs ≠ []) ∧ (bs.length ≤ 4096)
      ∧ (inBuffer (s.windowAddr m) bs.length = true)) ∧
    (∃ (s : State) (m : Master) (v : BitVec 8), (s.answers = true) ∧ (s.umbraMove = false) ∧ (s.coreHolds = false)
      ∧ (s.net.held = []) ∧ (s.behind m = false) ∧ (s.entryOpen 4352 10 = true) ∧ (v ≠ 1)) ∧
    (∃ (s : State) (m : Master) (r : DictReq) (row : Row) (n : Nat), (s.answers = true) ∧ (s.umbraMove = false)
      ∧ (s.coreHolds = false) ∧ (s.net.held = []) ∧ (s.behind m = false)
      ∧ (rowOf r.index.toNat r.sub.toNat = some row) ∧ (breach s m r false row = 0) ∧ (typeSize row.typ = some n)) ∧
    (∃ (s : State) (m : Master) (r : DictReq) (row : Row) (n : Nat), (s.answers = true) ∧ (s.umbraMove = false)
      ∧ (s.coreHolds = false) ∧ (s.net.held = []) ∧ (s.behind m = false)
      ∧ (rowOf r.index.toNat r.sub.toNat = some row) ∧ (breach s m r true row = 0) ∧ (typeSize row.typ = some n)
      ∧ (¬(r.index.toNat = 4352 ∧ r.sub.toNat = 10))) ∧
    (∃ (s : State) (m : Master) (r : DictReq) (row : Row) (n : Nat), (s.answers = true) ∧ (s.umbraMove = false)
      ∧ (s.coreHolds = false) ∧ (s.net.held = []) ∧ (s.behind m = false)
      ∧ (rowOf r.index.toNat r.sub.toNat = some row) ∧ (breach s m r true row = 0) ∧ (typeSize row.typ = some n)
      ∧ (¬(r.index.toNat = 4352 ∧ r.sub.toNat = 10)) ∧ (r.type = 0) ∧ (r.want = 0)) ∧
    (∃ (s : State) (m : Master) (r : DictReq) (row : Row), (s.answers = true) ∧ (s.umbraMove = false)
      ∧ (s.coreHolds = false) ∧ (s.net.held = []) ∧ (s.behind m = false)
      ∧ (rowOf r.index.toNat r.sub.toNat = some row) ∧ (breach s m r true row ≠ 0)) ∧
    (∃ (s : State) (m : Master) (r : DictReq) (c : BitVec 16), (s.answers = true) ∧ (s.umbraMove = false)
      ∧ (s.coreHolds = false) ∧ (s.net.held = []) ∧ (s.behind m = false)
      ∧ (isCounter r.index.toNat r.sub.toNat = true) ∧ (s.entryOpen r.index.toNat r.sub.toNat = true) ∧ (c = 0)) ∧
    (∃ (s : State) (m : Master) (r : DictReq) (c : BitVec 16), (s.answers = true) ∧ (s.umbraMove = false)
      ∧ (s.coreHolds = false) ∧ (s.net.held = []) ∧ (s.behind m = false)
      ∧ (isCounter r.index.toNat r.sub.toNat = true) ∧ (s.entryOpen r.index.toNat r.sub.toNat = true) ∧ (c ≠ 0)) ∧
    (∃ (s : State) (m : Master) (n : Nat), (s.answers = true) ∧ (s.umbraMove = false) ∧ (s.coreHolds = false)
      ∧ (s.net.held = []) ∧ (s.behind m = false)
      ∧ (¬s.clk.ratioLost &&& s.ratios (Master.core 0) (s.windowAddr m) ≠ 0) ∧ (m ≠ Master.bundle)
      ∧ (s.entryOpen 4608 2 = true) ∧ (s.gated blkBuffer = false) ∧ (4096 < n)) ∧
    (∃ (s : State) (m : Master) (r : DictReq) (row : Row), (s.answers = true) ∧ (s.umbraMove = false)
      ∧ (s.coreHolds = false) ∧ (s.net.held = []) ∧ (s.behind m = false)
      ∧ (rowOf r.index.toNat r.sub.toNat = some row) ∧ (breach s m r false row ≠ 0)) ∧
    (∃ (s : State) (m : Master), (s.answers = true) ∧ (s.umbraMove = false) ∧ (s.coreHolds = false)
      ∧ (s.net.held = []) ∧ (s.behind m = false)
      ∧ (s.clk.ratioLost &&& s.ratios (Master.core 0) (s.windowAddr m) ≠ 0)) :=
  ⟨⟨runS, .host, rq 0x1100 99 0 0 [], by decide +kernel⟩,
   ⟨runS, .host, 1, by decide +kernel⟩,
   ⟨runS, .host, 1, by decide +kernel⟩,
   ⟨runS, .host, [1], by decide +kernel⟩,
   ⟨runS, .core 2, 2, by decide +kernel⟩,
   ⟨runS, .host, rq 0x1100 1 0 0 [2], (findRow 0x1100 1).getD (rowZero 0), 1, by decide +kernel⟩,
   ⟨runS, .host, rq 0x1100 1 0 0 [2], (findRow 0x1100 1).getD (rowZero 0), 1, by decide +kernel⟩,
   ⟨runS, .host, rq 0x1100 1 0 0 [2], (findRow 0x1100 1).getD (rowZero 0), 1, by decide +kernel⟩,
   ⟨runS, .bundle, rq 0x1100 2 0 0 [2], (findRow 0x1100 2).getD (rowZero 0), by decide +kernel⟩,
   ⟨runS, .core 0, rq 0x600C 1 0 2 [0, 0], 0, by decide +kernel⟩,
   ⟨runS.addCnt 0x600C 1 7, .core 0, rq 0x600C 1 0 0 [1, 0], 1, by decide +kernel⟩,
   ⟨runS.addCnt 0x600C 1 7, .core 0, 4097, by decide +kernel⟩,
   ⟨{ runS with media := { runS.media with suspendAll := true } }, .t1 3, rq 0x1100 1 9 0 [2],
     (findRow 0x1100 1).getD (rowZero 0), by decide +kernel⟩,
   ⟨runS.modClk (fun c => { c with ratioLost := 7 }), .t1 3, by decide +kernel⟩⟩

theorem witness_FieldNetworkFrames :
    (∃ (s : State) (pm : Bool), (pm ≠ s.net.master) ∧ (s.t1Live = true)) ∧
    (∃ (s : State) (m : Master) (v : BitVec 8), (s.entryReady m 4352 1) ∧ (s.net.held = []) ∧ (v.toNat ≤ 2)) ∧
    (∃ (s : State) (f : List Byte), (s.net.link = true ∧ s.ent? 4352 3 = 0) ∧ (parseFrame f = none)) ∧
    (∃ (s : State), (s.net.link = true ∧ s.ent? 4352 3 = 0)) ∧
    (∃ (s : State) (ip : BitVec 32), (s.net.link = true ∧ s.ent? 4352 3 = 0) ∧ (ip ≠ s.ip ∨ ip = 0)) ∧
    (∃ (s : State) (pm : Bool), (pm = s.net.master ∨ s.t1Live = false)) ∧
    (∃ (s : State) (m : Master) (v : BitVec 8), (s.entryReady m 4352 1) ∧ (s.net.held = []) ∧ (2 < v.toNat)) ∧
    (∃ (s : State) (f : List Byte) (x : FrameIn) (g : Segment), (s.net.link = true ∧ s.ent? 4352 3 = 0)
      ∧ (parseFrame f = some x) ∧ (x.etype = s.ent? 4352 5) ∧ (decSegment x.body = some g) ∧ (x.dst = s.ident.mac)
      ∧ (x.dst ≠ broadcastMac)) ∧
    (∃ (s : State) (f : List Byte) (x : FrameIn), (s.net.link = true ∧ s.ent? 4352 3 = 0) ∧ (parseFrame f = some x)) ∧
    (∃ (s : State) (f : List Byte) (x : FrameIn) (g : Segment), (s.net.link = true ∧ s.ent? 4352 3 = 0)
      ∧ (parseFrame f = some x) ∧ (x.etype = s.ent? 4352 5) ∧ (decSegment x.body = some g) ∧ (x.dst = broadcastMac)
      ∧ (g.service = 1) ∧ ((segEntry g).fst = 4096 ∨ (segEntry g).fst = 4352)) ∧
    (∃ (s : State), (¬(s.net.link = true ∧ s.ent? 4352 3 = 0))) ∧
    (∃ (s : State) (f : List Byte) (x : FrameIn) (g : Segment), (s.net.link = true ∧ s.ent? 4352 3 = 0)
      ∧ (parseFrame f = some x) ∧ (x.etype = s.ent? 4352 5) ∧ (decSegment x.body = some g) ∧ (x.dst = broadcastMac)
      ∧ (s.ident.mac ≠ broadcastMac) ∧ (x.etype ≠ 2054) ∧ (g.service ≠ 1 ∨ (segEntry g).fst ≠ 4096
      ∧ (segEntry g).fst ≠ 4352)) ∧
    (∃ (s : State) (f : List Byte) (x : FrameIn), (s.net.link = true ∧ s.ent? 4352 3 = 0) ∧ (parseFrame f = some x)
      ∧ (s.rawIn x = none) ∧ (s.udpIn x = none) ∧ (x.etype ≠ 2048) ∧ (x.etype ≠ 2054)) ∧
    (∃ (s : State) (f : List Byte) (x : FrameIn), (s.net.link = true ∧ s.ent? 4352 3 = 0) ∧ (parseFrame f = some x)
      ∧ (s.rawIn x = none) ∧ (s.udpIn x = none)) ∧
    (∃ (s : State) (f : List Byte) (mac : BitVec 48) (theirs : BitVec 32) (x : FrameIn), (s.net.link = true
      ∧ s.ent? 4352 3 = 0) ∧ (parseFrame f = some x) ∧ (s.rawIn x = none) ∧ (s.udpIn x = none) ∧ (x.etype = 2054)
      ∧ (x.dst = s.ident.mac ∨ x.dst = broadcastMac) ∧ (s.ip ≠ 0) ∧ (arpAsk x.body s.ip = some (mac, theirs))) ∧
    (∃ (s : State) (ip : BitVec 32), (s.net.link = true ∧ s.ent? 4352 3 = 0) ∧ (ip = s.ip) ∧ (ip ≠ 0)) ∧
    (∃ (s : State) (f : List Byte) (theirs : BitVec 32) (rest : List Byte) (x : FrameIn) (d : List Byte),
      (s.net.link = true ∧ s.ent? 4352 3 = 0) ∧ (parseFrame f = some x) ∧ (s.rawIn x = none) ∧ (s.udpIn x = none)
      ∧ (x.etype = 2048) ∧ (x.dst = s.ident.mac) ∧ (s.ip ≠ 0) ∧ (ipData x.body 1 s.ip = some (theirs, d))
      ∧ (echoRest d = some rest)) ∧
    (∃ (s : State) (f : List Byte) (x : FrameIn) (a : Arrival), (s.net.link = true ∧ s.ent? 4352 3 = 0)
      ∧ (parseFrame f = some x) ∧ (s.rawIn x = none) ∧ (s.udpIn x = some a)) :=
  ⟨⟨runS, true, by decide +kernel⟩,
   ⟨runS, .host, 2, by decide +kernel⟩,
   ⟨runS, [1, 2], by decide +kernel⟩,
   ⟨runS, by decide +kernel⟩,
   ⟨runS, 7, by decide +kernel⟩,
   ⟨runS, false, by decide +kernel⟩,
   ⟨runS, .host, 3, by decide +kernel⟩,
   ⟨runS, frm mac0 0x88B5 (encSegment (seg 1 1 (rd 2 2))), fin mac0 0x88B5 (encSegment (seg 1 1 (rd 2 2))),
     seg 1 1 (rd 2 2), by decide +kernel⟩,
   ⟨runS, frm mac0 0x88B5 (encSegment (seg 1 1 (rd 2 2))), fin mac0 0x88B5 (encSegment (seg 1 1 (rd 2 2))),
     by decide +kernel⟩,
   ⟨runS, frm broadcastMac 0x88B5 (encSegment (seg 1 1 (rd 2 2))),
     fin broadcastMac 0x88B5 (encSegment (seg 1 1 (rd 2 2))), seg 1 1 (rd 2 2), by decide +kernel⟩,
   ⟨runS.modNet (fun n => { n with link := false }), by decide +kernel⟩,
   ⟨runS, frm broadcastMac 0x88B5 (encSegment (seg 2 1 (rd 2 2))),
     fin broadcastMac 0x88B5 (encSegment (seg 2 1 (rd 2 2))), seg 2 1 (rd 2 2), by decide +kernel⟩,
   ⟨runS, frm broadcastMac 0x88B5 (encSegment (seg 2 1 (rd 2 2))),
     fin broadcastMac 0x88B5 (encSegment (seg 2 1 (rd 2 2))), by decide +kernel⟩,
   ⟨runS, frm broadcastMac 0x88B5 (encSegment (seg 2 1 (rd 2 2))),
     fin broadcastMac 0x88B5 (encSegment (seg 2 1 (rd 2 2))), by decide +kernel⟩,
   ⟨ipS,
     frm broadcastMac 0x0806 (beBytes 8 0x0001080006040001 ++ beBytes 6 6 ++ beBytes 4 7 ++ beBytes 6 0 ++ beBytes 4 ipS.ip.toNat),
     6, 7,
     fin broadcastMac 0x0806 (beBytes 8 0x0001080006040001 ++ beBytes 6 6 ++ beBytes 4 7 ++ beBytes 6 0 ++ beBytes 4 ipS.ip.toNat),
     by decide +kernel⟩,
   ⟨ipS, ipS.ip, by decide +kernel⟩,
   ⟨ipS, frm mac0 0x0800 (ipPk 1 echoReq), 7, [1, 2, 3, 4], fin mac0 0x0800 (ipPk 1 echoReq), echoReq,
     by decide +kernel⟩,
   ⟨ipS, frm mac0 0x0800 (ipPk 17 udpReq), fin mac0 0x0800 (ipPk 17 udpReq),
     (ipS.udpIn (fin mac0 0x0800 (ipPk 17 udpReq))).getD (0, enc0, seg 1 1 []), by decide +kernel⟩⟩

theorem witness_SessionsAndForwarding :
    (∃ (s : State) (m : Master) (g : Segment), (s.t1Stopped m = false) ∧ (s.elsewhere g = false)) ∧
    (∃ (s : State) (m : Master) (g : Segment) (x : Session) (a : Answer), (s.t1Stopped m = false) ∧ (s.answers = true)
      ∧ (s.session m = some x) ∧ (s.elsewhere g = false) ∧ (g.version = 1) ∧ (g.service = 1 ∨ g.service = 2)
      ∧ (g.sync = false) ∧ (g.seq.toNat = x.last) ∧ (x.answered = true) ∧ (x.answer = some a)) ∧
    (∃ (s : State) (g : Segment) (f : Fin 4) (p : Pkt), (p.ptype = ptDict ∧ p.units.toNat ≤ 16 ∧ s.stalePkt p = false
      ∧ p.dst = s.casc.role ∧ (s.port f.val).st ≠ PortState.quarantine) ∧ (p.arg.toNat / 32 % 8 < 4)
      ∧ ((s.freeUnits (f.val) (chanOf p.ptype) (1 + p.units.toNat)).elsewhere g = false)) ∧
    (∃ (s : State) (m : Master) (x : Session) (r : Reasm), (s.session m = some x) ∧ (x.reasm = some r)
      ∧ (s.clk.due = []) ∧ (m ≠ Master.bundle)) ∧
    (∃ (s : State) (m : Master) (g : Segment) (x : Session), (s.t1Stopped m = false) ∧ (s.answers = true)
      ∧ (s.session m = some x) ∧ (s.elsewhere g = false) ∧ (g.version = 1) ∧ (g.service = 1 ∨ g.service = 2)
      ∧ (g.sync = false) ∧ (g.seq.toNat ≠ x.last) ∧ (g.seq.toNat ≠ seqNext x.last)) ∧
    (∃ (s : State) (f : Fin 4) (p : Pkt), (p.ptype = ptDict ∧ p.units.toNat ≤ 16 ∧ s.stalePkt p = false
      ∧ p.dst = s.casc.role ∧ (s.port f.val).st ≠ PortState.quarantine) ∧ (4 ≤ p.arg.toNat / 32 % 8)) ∧
    (∃ (s : State) (m : Master), (s.t1Stopped m = false) ∧ (s.answers = true) ∧ (s.session m = none)) ∧
    (∃ (s : State) (m : Master), (s.session m = none)) ∧
    (∃ (s : State) (w : Fwd) (src : BitVec 64) (role : BitVec 5), (s.fwdOf (Master.t1 src) role.toNat = some w)
      ∧ (w.got = false) ∧ (s.net.mbWait = []) ∧ (s.clk.due = []) ∧ (w.master = Master.t1 src)) ∧
    (∃ (s : State) (f : Fin 4) (p : Pkt) (w : Fwd) (src : BitVec 64), (p.ptype = ptDictRsp ∧ p.units.toNat ≤ 16
      ∧ s.stalePkt p = false ∧ p.dst = s.casc.role ∧ (s.port f.val).st ≠ PortState.quarantine)
      ∧ (List.find? (fun y => decide (y.tag = p.rtag) && decide (y.role = p.src.toNat)) s.net.fwd = some w)
      ∧ (w.master = Master.t1 src) ∧ (s.net.link = true) ∧ (s.ent? 4352 3 = 0)) ∧
    (∃ (s : State) (m : Master) (w : Fwd) (role : BitVec 5), (s.fwdOf m role.toNat = some w) ∧ (w.got = true)) ∧
    (∃ (s : State) (f : Fin 4) (p : Pkt), (p.ptype = ptDictRsp ∧ p.units.toNat ≤ 16 ∧ s.stalePkt p = false
      ∧ p.dst = s.casc.role ∧ (s.port f.val).st ≠ PortState.quarantine) ∧ (∀ (y : Fwd),
      y ∈ s.net.fwd → y.tag ≠ p.rtag)) ∧
    (∃ (s : State) (m : Master), (s.t1Stopped m = false) ∧ (s.answers = false)) ∧
    (∃ (s : State) (m : Master) (g : Segment), (s.t1Stopped m = false) ∧ (s.elsewhere g = true)
      ∧ (s.casc.isHead = true) ∧ (∀ (k : BitVec 16), m ≠ Master.peer k)) ∧
    (∃ (s : State) (g : Segment) (f : Fin 4) (p : Pkt), (p.ptype = ptDict ∧ p.units.toNat ≤ 16 ∧ s.stalePkt p = false
      ∧ p.dst = s.casc.role ∧ (s.port f.val).st ≠ PortState.quarantine)
      ∧ ((s.freeUnits (f.val) (chanOf p.ptype) (1 + p.units.toNat)).elsewhere g = true) ∧ (p.arg.toNat / 32 % 8 < 4)) ∧
    (∃ (s : State) (m : Master) (g : Segment), (s.t1Stopped m = false) ∧ (s.elsewhere g = true)
      ∧ (s.casc.isHead = false)) ∧
    (∃ (s : State) (m : Master) (x : Session) (r : Reasm) (n : BitVec 16), (s.t1Stopped m = false)
      ∧ (s.answers = true) ∧ (s.session m = some x) ∧ (x.reasm = some r) ∧ (r.seq = n.toNat) ∧ (x.answered = false)
      ∧ (x.last = n.toNat) ∧ (m ≠ Master.bundle) ∧ (∀ (k : BitVec 3), m ≠ Master.mailbox k)) ∧
    (∃ (s : State) (m : Master), (s.t1Stopped m = true)) :=
  ⟨⟨netS (fun n => { n with sess := [ses (.t1 5) 7 true (some reas)] }), .t1 5, seg 1 7 (rd 2 2), by decide +kernel⟩,
   ⟨netS (fun n => { n with sess := [ses (.t1 5) 7 true (some reas)] }), .t1 5, seg 1 7 (rd 2 2),
     ses (.t1 5) 7 true (some reas), ans, by decide +kernel⟩,
   ⟨netS (fun n => { n with sess := [ses (.t1 5) 7 true (some reas)] }), seg 1 7 (rd 2 2), 0, pk 9 1 2 0 4 1 1,
     by decide +kernel⟩,
   ⟨netS (fun n => { n with sess := [ses (.t1 5) 7 true (some reas)] }), .t1 5, ses (.t1 5) 7 true (some reas), reas,
     by decide +kernel⟩,
   ⟨netS (fun n => { n with sess := [ses (.t1 5) 7 false (some reas)] }), .t1 5, seg 2 9 (rd 2 2),
     ses (.t1 5) 7 false (some reas), by decide +kernel⟩,
   ⟨netS (fun n => { n with sess := [ses (.t1 5) 7 false (some reas)] }), 0, pk 9 1 2 0 4 (1 + 4 * 32) 1,
     by decide +kernel⟩,
   ⟨netS (fun n => { n with fwd := [fw (.t1 5) false] }), .t1 5, by decide +kernel⟩,
   ⟨netS (fun n => { n with fwd := [fw (.t1 5) false] }), .t1 5, by decide +kernel⟩,
   ⟨netS (fun n => { n with fwd := [fw (.t1 5) false] }), fw (.t1 5) false, 5, 1, by decide +kernel⟩,
   ⟨netS (fun n => { n with fwd := [fw (.t1 5) false] }), 0, pk 10 1 2 0 9 (1 + 3 * 32) 1, fw (.t1 5) false, 5,
     by decide +kernel⟩,
   ⟨netS (fun n => { n with fwd := [fw (.t1 5) true] }), .t1 5, fw (.t1 5) true, 1, by decide +kernel⟩,
   ⟨netS (fun n => { n with fwd := [fw (.t1 5) true] }), 0, pk 10 1 2 0 8 (1 + 3 * 32) 1, by decide +kernel⟩,
   ⟨(netS id).modBoot (fun b => { b with b4Done := false }), .t1 5, by decide +kernel⟩,
   ⟨netS id, .t1 5, away 1, by decide +kernel⟩,
   ⟨netS id, away 1, 0, pk 9 1 2 0 4 (1 + 3 * 32) 1, by decide +kernel⟩,
   ⟨(chain 1 id), .t1 5, away 2, by decide +kernel⟩,
   ⟨(netS (fun n => { n with sess := [ses (.t1 5) 8 false (some reas)] })), .t1 5, ses (.t1 5) 8 false (some reas),
     reas, 8, by decide +kernel⟩,
   ⟨(netS id).setEnt 0x1100 3 1, .t1 5, by decide +kernel⟩⟩

theorem witness_PciePort :
    (∃ (s : State), (twf mailboxDefault s.pcie.mb = true)) ∧
    (∃ (s : State), (s.pcie.up = true)) ∧
    (∃ (s : State), (s.pcie.bme = true)) ∧
    (∃ (s : State), (s.pcie.d3 = false)) ∧
    (∃ (s : State), (s.portReady = true)) ∧
    (∃ (s : State) (vec : BitVec 6), (s.pcie.up = true)
      ∧ (s.pcie.fmask = true ∨ s.pcie.msixOn = false ∨ s.pcie.pend.contains vec.toNat = false)) ∧
    (∃ (s : State) (mb : BitVec 3) (v : Word), (s.hostReach = true) ∧ (s.mbServed mb.toNat = true)
      ∧ (BitVec.toNat v % 2 = 1) ∧ ((s.mb mb.toNat).st ≠ 1) ∧ (s.mbElsewhere (s.mb mb.toNat) = false)) ∧
    (∃ (s : State), (s.pcie.up = true) ∧ (s.pcie.d3 = false) ∧ (s.gated blkPcie = false)
      ∧ (s.boot.st ≠ BootState.recovery) ∧ (s.gated blkStream = false)) ∧
    (∃ (s : State), (s.pcie.up = true) ∧ (s.pcie.d3 = false) ∧ (s.gated blkPcie = false)
      ∧ (s.boot.st ≠ BootState.recovery) ∧ (s.gated blkDma = false)) ∧
    (∃ (s : State), (s.pcie.up = true) ∧ (s.gated blkPcie = false) ∧ (s.pcie.d3b = false)) ∧
    (∃ (s : State) (off : BitVec 32), (s.pcie.up = true)
      ∧ (¬(fun b => s.clk.ratioLost &&& s.barRatios PcieFn.pf0 b off.toNat ≠ 0) 2) ∧ (s.pcie.d3 = false)
      ∧ (s.boot.st ≠ BootState.recovery) ∧ (s.gated blkPcie = false)
      ∧ (bit (s.ent? 20737 (off.toNat / 2 ^ 28 + 1)) 31 = false)) ∧
    (∃ (s : State), (s.boot.st ≠ BootState.booting) ∧ (s.pcie.up = true)) ∧
    (∃ (s : State) (x : Byte), (s.boot.st ≠ BootState.booting) ∧ (s.pcie.up = true) ∧ (BitVec.toNat x / 128 = 1)) ∧
    (∃ (s : State) (mb : BitVec 3) (v : Word), (s.hostReach = true) ∧ (s.mbServed mb.toNat = true)
      ∧ (BitVec.toNat v % 2 = 0) ∧ ((s.mb mb.toNat).st ≠ 1)) ∧
    (∃ (s : State) (bar : BitVec 3), (s.pcie.up = true) ∧ (s.pcie.d3b = true ∨ bar ≠ 0)) ∧
    (∃ (s : State) (off : BitVec 32) (a : Access), (s.pcie.up = true)
      ∧ (¬(fun b => s.clk.ratioLost &&& s.barRatios PcieFn.pf0 b off.toNat ≠ 0) 2) ∧ (s.pcie.d3 = false)
      ∧ (s.boot.st ≠ BootState.recovery) ∧ (s.gated blkPcie = false)
      ∧ (bit (s.ent? 20737 (off.toNat / 2 ^ 28 + 1)) 31 = true)
      ∧ (bit (s.ent? 20737 (off.toNat / 2 ^ 28 + 1)) 25 = false) ∧ (off.toNat % 2 ^ 28 + accessLen a ≤ 2 ^ 28)) ∧
    (∃ (s : State) (vec : BitVec 6), (s.pcie.up = true) ∧ (s.pcie.fmask = false) ∧ (s.pcie.msixOn = true)
      ∧ (s.pcie.pend.contains vec.toNat = true)) ∧
    (∃ (s : State) (mb : BitVec 3), (s.hostReach = true) ∧ (s.mbServed mb.toNat = true) ∧ ((s.mb mb.toNat).st = 1)) ∧
    (∃ (s : State) (off : BitVec 32) (bar : BitVec 3), (s.pcie.up = true) ∧ (s.pcie.d3 = true ∨ bar ≠ 0 ∧ bar ≠ 2)
      ∧ (¬(fun b => s.clk.ratioLost &&& s.barRatios PcieFn.pf0 b off.toNat ≠ 0) bar)) ∧
    (∃ (s : State) (mb : BitVec 3) (v : Word), (s.hostReach = true) ∧ (s.mbServed mb.toNat = true)
      ∧ (BitVec.toNat v % 2 = 1) ∧ ((s.mb mb.toNat).st ≠ 1) ∧ (s.mbElsewhere (s.mb mb.toNat) = true)
      ∧ (s.casc.isHead = false)) ∧
    (∃ (s : State), (s.pcie.up = false)) ∧
    (∃ (s : State), (s.hostReach = false)) ∧
    (∃ (s : State), (s.portReady = false)) ∧
    (∃ (s : State) (off : BitVec 32) (bar : BitVec 3), (s.pcie.up = true)
      ∧ (s.clk.ratioLost &&& s.barRatios PcieFn.pf0 bar off.toNat ≠ 0)) ∧
    (∃ (s : State), (s.pcie.up = true) ∧ (s.pcie.mask = []) ∧ (s.pcie.pend.Nodup) ∧ (s.pcie.msixOn = true)) ∧
    (∃ (s : State) (off : BitVec 32) (a : Access), (s.pcie.up = true)
      ∧ (¬(fun b => s.clk.ratioLost &&& s.barRatios PcieFn.pf0 b off.toNat ≠ 0) 2) ∧ (s.pcie.d3 = false)
      ∧ (s.boot.st ≠ BootState.recovery) ∧ (s.gated blkPcie = false)
      ∧ (bit (s.ent? 20737 (off.toNat / 2 ^ 28 + 1)) 31 = true)
      ∧ (bit (s.ent? 20737 (off.toNat / 2 ^ 28 + 1)) 25 = true)
      ∧ (s.ent? 20737 (off.toNat / 2 ^ 28 + 1) / 2 ^ 20 % 32 ≠ s.casc.role.toNat)
      ∧ (s.rolePresent (s.ent? 20737 (off.toNat / 2 ^ 28 + 1) / 2 ^ 20 % 32) = true)
      ∧ (off.toNat % 2 ^ 28 + accessLen a ≤ 2 ^ 28)) ∧
    (∃ (s : State), (s.pcie.up = true) ∧ (s.pcie.d3 = true)) ∧
    (∃ (s : State) (mb : BitVec 3), (s.hostReach = true) ∧ (s.mbServed mb.toNat = false)) ∧
    (∃ (s : State), (s.pcie.up = true) ∧ (s.pcie.mask = []) ∧ (s.pcie.pend.Nodup) ∧ (s.pcie.fmask = false)) ∧
    (∃ (s : State), (s.boot.st = BootState.booting) ∧ (s.boot.step ≤ 9)) :=
  ⟨⟨pcS id, by decide +kernel⟩,
   ⟨pcS id, by decide +kernel⟩,
   ⟨pcS id, by decide +kernel⟩,
   ⟨pcS id, by decide +kernel⟩,
   ⟨pcS id, by decide +kernel⟩,
   ⟨pcS id, 2, by decide +kernel⟩,
   ⟨pcS id, 1, 5, by decide +kernel⟩,
   ⟨pcS id, by decide +kernel⟩,
   ⟨pcS id, by decide +kernel⟩,
   ⟨pcS id, by decide +kernel⟩,
   ⟨pcS id, 0x10000000, by decide +kernel⟩,
   ⟨pcS id, by decide +kernel⟩,
   ⟨pcS id, 0x80, by decide +kernel⟩,
   ⟨(pcS id).setEnt 0x5101 2 (2 ^ 31 + 3), 1, 6, by decide +kernel⟩,
   ⟨(pcS id).setEnt 0x5101 2 (2 ^ 31 + 3), 2, by decide +kernel⟩,
   ⟨(pcS id).setEnt 0x5101 2 (2 ^ 31 + 3), 0x10000000, .write [1, 2], by decide +kernel⟩,
   ⟨(pcS (fun p => { p with msixOn := true, pend := [2, 5], mb := [(1, mbx 0 1), (5, mbx 0 2)] })).setEnt 0x5101 2 (2 ^ 31 + 3),
     2, by decide +kernel⟩,
   ⟨(pcS (fun p => { p with msixOn := true, pend := [2, 5], mb := [(1, mbx 0 1), (5, mbx 0 2)] })).setEnt 0x5101 2 (2 ^ 31 + 3),
     1, by decide +kernel⟩,
   ⟨(pcS (fun p => { p with msixOn := true, pend := [2, 5], mb := [(1, mbx 0 1), (5, mbx 0 2)] })).setEnt 0x5101 2 (2 ^ 31 + 3),
     0x10000000, 1, by decide +kernel⟩,
   ⟨(pcS (fun p => { p with msixOn := true, pend := [2, 5], mb := [(1, mbx (BitVec.ofNat 64 (0x1100 + 2 * 2 ^ 16 + 2 ^ 40 + 2 ^ 38 + 2 ^ 33)) 0), (5, mbx 0 2)] })).modCasc (fun c => { c with roleV := false, isHead := false }),
     1, 7, by decide +kernel⟩,
   ⟨pcS (fun p => { p with up := false, bme := false }), by decide +kernel⟩,
   ⟨pcS (fun p => { p with up := false, bme := false }), by decide +kernel⟩,
   ⟨(pcS (fun p => { p with up := false, bme := false })).modPwr (fun p => { p with dom := [] }), by decide +kernel⟩,
   ⟨((pcS id).modClk (fun c => { c with ratioLost := 7 })).modDma (fun d => { d with ch := [(3, { chanDefault 3 with st := .enabled }), (15, { chanDefault 3 with st := .enabled })] }) |>.setEnt 0x511F 5 1,
     0x10000000, 2, by decide +kernel⟩,
   ⟨pcS (fun p => { p with mask := [], fmask := true, msixOn := true, pend := [2, 5] }), by decide +kernel⟩,
   ⟨(pcS id).setEnt 0x5101 2 (2 ^ 31 + 2 ^ 25 + 1 * 2 ^ 20 + 3), 0x10000000, .write [1, 2], by decide +kernel⟩,
   ⟨pcS (fun p => { p with d3 := true }), by decide +kernel⟩,
   ⟨(pcS id).modBoot (fun b => { b with st := .recovery }), 1, by decide +kernel⟩,
   ⟨pcS (fun p => { p with mask := [], fmask := false, msixOn := false, pend := [2, 5] }), by decide +kernel⟩,
   ⟨(pcS id).modBoot (fun b => { b with st := .booting, step := 9 }), by decide +kernel⟩⟩

/-! ### Supply -/

theorem witness_DmaTransfers :
    (∃ (s : State) (q : BitVec 4) (g : BitVec 5), (s.seq.haltOwed = none) ∧ (s.gated blkDma = false)
      ∧ (s.chBundle q.toNat = true) ∧ ((s.chan q.toNat).st = ChanState.enabled) ∧ ((s.chan q.toNat).acc.length < 8)
      ∧ (BitVec.toNat (s.x g) % 64 = 0) ∧ (inBuffer (BitVec.toNat (s.x g)) 64 = true)) ∧
    (∃ (s : State), (s.dma.run.isSome = true ∨ s.nextChan = none)) ∧
    (∃ (s : State), (s.dmaFront = none)) ∧
    (∃ (s : State) (q : BitVec 4), (s.chBundle q.toNat = true) ∧ (8 ≤ (s.chan q.toNat).acc.length)) ∧
    (∃ (s : State) (k : Nat), (s.dma.run = none) ∧ (s.gated blkDma = false) ∧ (s.nextChan = some k) ∧ (∀ (y : Desc),
      y ∈ (s.chan k).acc.head? → y.ctx = none ∨ y.lone = false)) ∧
    (∃ (s : State) (q : BitVec 4), (s.seq.haltOwed = none) ∧ (s.gated blkDma = false) ∧ (s.chBundle q.toNat = false)
      ∧ (s.ent? 16640 5 = 0)) ∧
    (∃ (s : State) (q : BitVec 4), ((s.chan q.toNat).st = ChanState.enabled) ∧ (s.chBundle q.toNat = false)
      ∧ (s.acceptsWork = true) ∧ (s.gated blkDma = false) ∧ (s.chHostRing q.toNat = false ∨ s.hostReach = true)) ∧
    (∃ (s : State) (q : BitVec 4), ((s.chan q.toNat).st ≠ ChanState.enabled)) ∧
    (∃ (s : State) (r : DmaRun) (d : Desc), (s.dmaFront = some (r, d)) ∧ (d.moved = false) ∧ (r.tag = none)
      ∧ (r.data = none) ∧ (r.hold = none) ∧ (¬s.clk.ratioLost &&& s.dmaRatios ≠ 0) ∧ (d.done = 0) ∧ (d.dstSpace = 0)
      ∧ (inBuffer d.dst d.len = true) ∧ (s.gated blkBuffer = false) ∧ (d.op = 0) ∧ (d.srcSpace = 0)
      ∧ (inBuffer d.src d.len = true) ∧ (d.src + d.len ≤ d.dst ∨ d.dst + d.len ≤ d.src)) ∧
    (∃ (s : State) (r : DmaRun) (d : Desc), (s.dmaFront = some (r, d)) ∧ (d.moved = false) ∧ (d.op ≠ 2)) ∧
    (∃ (s : State) (r : DmaRun) (d : Desc), (s.dmaFront = some (r, d)) ∧ (d.moved = false)) ∧
    (∃ (s : State) (r : DmaRun) (d : Desc), (s.dmaFront = some (r, d)) ∧ (d.moved = false) ∧ (r.tag = none)
      ∧ (r.data = none) ∧ (r.hold = none) ∧ (¬s.clk.ratioLost &&& s.dmaRatios ≠ 0) ∧ (d.done = 0) ∧ (d.dstSpace = 0)
      ∧ (inBuffer d.dst d.len = true) ∧ (s.gated blkBuffer = false) ∧ (d.op = 1)) ∧
    (∃ (s : State) (r : DmaRun) (d : Desc), (s.dmaFront = some (r, d)) ∧ (d.moved = false) ∧ (d.op = 2)) ∧
    (∃ (s : State) (r : DmaRun) (d : Desc), (s.dmaFront = some (r, d)) ∧ (d.moved = true) ∧ (d.status = 0)
      ∧ (r.hold = none) ∧ (s.chGk8 r.chan = false)) ∧
    (∃ (s : State) (r : DmaRun) (d : Desc), (s.dmaFront = some (r, d)) ∧ (d.moved = true) ∧ (d.status = 0)
      ∧ (r.hold = none) ∧ (s.chGk8 r.chan = true)) ∧
    (∃ (s : State) (r : DmaRun) (d : Desc), (s.dmaFront = some (r, d)) ∧ (d.moved = true) ∧ (d.status ≠ 0)
      ∧ (d.ctx = none)) ∧
    (∃ (s : State) (r : DmaRun) (d : Desc) (n : Nat), (s.dmaFront = some (r, d)) ∧ (d.moved = false) ∧ (d.op = 0)
      ∧ (d.srcSpace = 1) ∧ (d.done < d.len) ∧ (n < d.done + (64 - (d.dst + d.done) % 64)) ∧ (r.hold = none)) ∧
    (∃ (s : State) (r : DmaRun) (d : Desc) (n : Nat), (s.dmaFront = some (r, d)) ∧ (d.moved = false) ∧ (r.tag = none)
      ∧ (r.data = none) ∧ (¬s.clk.ratioLost &&& s.dmaRatios ≠ 0) ∧ (d.op = 0) ∧ (d.srcSpace = 0) ∧ (d.done < d.len)
      ∧ (s.inDeep (d.src + d.done) d.block = true) ∧ (d.done ≤ n) ∧ (n < d.done + d.block)) ∧
    (∃ (s : State), (s.clk.ratioLost &&& s.dmaRatios ≠ 0)) :=
  ⟨⟨{ chB [] .enabled with mem := Memory.puts [] 0x40 (leBytes 64 ((dDesc 0 0 0 0x1000 0x3000 100 0).toNat)), seq := { runS.seq with regs := [(2, 0x40)] } },
     5, 2, by decide +kernel⟩,
   ⟨{ chB [] .enabled with mem := Memory.puts [] 0x40 (leBytes 64 ((dDesc 0 0 0 0x1000 0x3000 100 0).toNat)), seq := { runS.seq with regs := [(2, 0x40)] } },
     by decide +kernel⟩,
   ⟨{ chB [] .enabled with mem := Memory.puts [] 0x40 (leBytes 64 ((dDesc 0 0 0 0x1000 0x3000 100 0).toNat)), seq := { runS.seq with regs := [(2, 0x40)] } },
     by decide +kernel⟩,
   ⟨chB (List.replicate 8 (dsc 0)) .enabled, 5, by decide +kernel⟩,
   ⟨chB (List.replicate 8 (dsc 0)) .enabled, 5, by decide +kernel⟩,
   ⟨{ chR [] .enabled with mem := Memory.puts [] 0x8000 (leBytes 64 ((dDesc 0 0 0 0x1000 0x3000 100 0).toNat)) }, 5,
     by decide +kernel⟩,
   ⟨{ chR [] .enabled with mem := Memory.puts [] 0x8000 (leBytes 64 ((dDesc 0 0 0 0x1000 0x3000 100 0).toNat)) }, 5,
     by decide +kernel⟩,
   ⟨chR [dsc 0] .stopping, 5, by decide +kernel⟩,
   ⟨dmaS (dsc (dDesc 0 0 0 0x1000 0x3000 100 0)), runD, dsc (dDesc 0 0 0 0x1000 0x3000 100 0), by decide +kernel⟩,
   ⟨dmaS (dsc (dDesc 0 0 0 0x1000 0x3000 100 0)), runD, dsc (dDesc 0 0 0 0x1000 0x3000 100 0), by decide +kernel⟩,
   ⟨dmaS (dsc (dDesc 0 0 0 0x1000 0x3000 100 0)), runD, dsc (dDesc 0 0 0 0x1000 0x3000 100 0), by decide +kernel⟩,
   ⟨dmaS (dsc (dDesc 1 0 0 0x1000 0x2FFD 67 0)), runD, dsc (dDesc 1 0 0 0x1000 0x2FFD 67 0), by decide +kernel⟩,
   ⟨dmaS (dsc (dDesc 2 0 0 0x1000 0x2FFD 67 0)), runD, dsc (dDesc 2 0 0 0x1000 0x2FFD 67 0), by decide +kernel⟩,
   ⟨dmaS { dsc (dDesc 0 1 0 0x1000 0x2FFD 67 (2 ^ 23 + 9 * 2 ^ 24)) with moved := true, done := 67 }, runD,
     { dsc (dDesc 0 1 0 0x1000 0x2FFD 67 (2 ^ 23 + 9 * 2 ^ 24)) with moved := true, done := 67 }, by decide +kernel⟩,
   ⟨gkS { dsc (dDesc 0 1 0 0x1000 0x2FFD 67 (2 ^ 23 + 9 * 2 ^ 24)) with moved := true, done := 67 }, runD,
     { dsc (dDesc 0 1 0 0x1000 0x2FFD 67 (2 ^ 23 + 9 * 2 ^ 24)) with moved := true, done := 67 }, by decide +kernel⟩,
   ⟨dmaS { dsc (dDesc 0 1 0 0x1000 0x2FFD 67 (2 ^ 23 + 9 * 2 ^ 24)) with moved := true, done := 67, status := 4 },
     runD, { dsc (dDesc 0 1 0 0x1000 0x2FFD 67 (2 ^ 23 + 9 * 2 ^ 24)) with moved := true, done := 67, status := 4 },
     by decide +kernel⟩,
   ⟨dmaS (dsc (dDesc 0 1 0 0x1000 0x2FFD 67 0)), runD, dsc (dDesc 0 1 0 0x1000 0x2FFD 67 0), 2, by decide +kernel⟩,
   ⟨dmaS (dsc (dDesc 0 0 0 (deepBase + 64) 0x2FC0 64 0)), runD, dsc (dDesc 0 0 0 (deepBase + 64) 0x2FC0 64 0), 2,
     by decide +kernel⟩,
   ⟨(dmaS (dsc (dDesc 0 1 0 0x1000 0x2FFD 67 0))).modClk (fun c => { c with ratioLost := 7 }), by decide +kernel⟩⟩

theorem witness_DmaSwitches :
    (∃ (s : State) (m : Master) (q : BitVec 4), (s.entryReady m (20752 + q.toNat) 1)
      ∧ ((s.chan q.toNat).st = ChanState.enabled)) ∧
    (∃ (s : State) (m : Master) (v : BitVec 8), (s.entryReady m 20736 9) ∧ (1 < v.toNat)) ∧
    (∃ (s : State) (m : Master) (q : BitVec 4), (s.entryReady m (20752 + q.toNat) 1)
      ∧ ((s.chan q.toNat).st = ChanState.stopping) ∧ (s.chRingOk q.toNat = true)) ∧
    (∃ (s : State) (m : Master) (q : BitVec 4), (s.entryReady m (20752 + q.toNat) 1)
      ∧ ((s.chan q.toNat).st ≠ ChanState.enabled)) ∧
    (∃ (s : State) (m : Master) (v : BitVec 8), (s.entryReady m 20736 9) ∧ (v = 1)
      ∧ (s.ent? 20736 5 = 0 ∨ s.ent? 20736 5 % 16 ≠ 0)) ∧
    (∃ (s : State) (m : Master) (v : BitVec 8), (s.entryReady m 20736 9) ∧ (v = 1) ∧ (s.ent? 20736 5 ≠ 0)
      ∧ (s.ent? 20736 5 % 16 = 0)) ∧
    (∃ (s : State) (m : Master) (q : BitVec 4), (s.entryReady m (20752 + q.toNat) 1)
      ∧ ((s.chan q.toNat).st = ChanState.disabled) ∧ (s.chRingOk q.toNat = true)
      ∧ (s.chGk8 q.toNat = true → s.dma.cqOn = true)
      ∧ (s.chGk8 q.toNat = true ∨ s.chHostRing q.toNat = true → s.hostReach = true) ∧ (s.acceptsWork = true)) ∧
    (∃ (s : State) (m : Master) (v : BitVec 8), (s.entryReady m 20736 9) ∧ (v = 0) ∧ (∀ (j : Nat),
      j < 16 → s.chGk8 j = true → (s.chan j).st ≠ ChanState.enabled)) ∧
    (∃ (s : State) (m : Master) (v : BitVec 8), (s.entryReady m 20736 9) ∧ (v = 0) ∧ (∃ j, j < 16 ∧ s.chGk8 j = true
      ∧ (s.chan j).st = ChanState.enabled)) ∧
    (∃ (s : State) (m : Master) (q : BitVec 4), (s.entryReady m (20752 + q.toNat) 1)
      ∧ ((s.chan q.toNat).st ≠ ChanState.enabled) ∧ (s.chRingOk q.toNat = false)) :=
  ⟨⟨chR [dsc 0] .enabled, .host, 5, by decide +kernel⟩,
   ⟨chR [dsc 0] .enabled, .host, 2, by decide +kernel⟩,
   ⟨(chR [dsc 0] .stopping).setEnt 0x5115 4 0x7FFFFFC0, .host, 5, by decide +kernel⟩,
   ⟨(chR [dsc 0] .stopping).setEnt 0x5115 4 0x7FFFFFC0, .host, 5, by decide +kernel⟩,
   ⟨(chR [dsc 0] .stopping).setEnt 0x5115 4 0x7FFFFFC0, .host, 1, by decide +kernel⟩,
   ⟨((chR [dsc 0] .stopping).setEnt 0x5100 5 0x4000), .core 0, 1, by decide +kernel⟩,
   ⟨(chR [] .disabled), .core 0, 5, by decide +kernel⟩,
   ⟨(chR [] .disabled), .core 0, 0, by decide +kernel⟩,
   ⟨(chR [] .enabled).setEnt 0x5115 3 1, .bundle, 0, by decide +kernel⟩,
   ⟨((chR [dsc 0] .stopping).setEnt 0x5115 4 0x7FFFFFC0).setEnt 0x5115 5 0 |>.setEnt 0x5115 2 0, .host, 5,
     by decide +kernel⟩⟩

theorem witness_ClockSourcesAndFaults :
    (∃ (s : State) (m : Master) (k : Fin 4) (v : BitVec 8), (s.entryReady m 8192 (6 + k.val))
      ∧ (v.toNat % 4 = 3 ∨ 6 < v.toNat / 4 % 8)) ∧
    (∃ (s : State) (k : Fin 4), ((s.domClk k.val).sw = SwitchState.steady)) ∧
    (∃ (s : State), (s.clk.crystal = true)) ∧
    (∃ (s : State) (b : Fin 12), (s.faultChecked b.val = true) ∧ (s.clk.faultNow.getLsbD b.val = false)
      ∧ (s.clockRuns b.val = true)) ∧
    (∃ (b : Fin 12), (b.val ≠ 1) ∧ (b.val ≠ 11)) ∧
    (∃ (s : State) (b : Fin 12), ((s.pll (b.val - 2)).lost = false)) ∧
    (∃ (s : State) (m : Master), (s.entryReady m 8192 12)) ∧
    (∃ (s : State) (m : Master) (k : Fin 4) (v : BitVec 8), (s.entryReady m 8192 (6 + k.val))
      ∧ (¬(v.toNat % 4 = 3 ∨ 6 < v.toNat / 4 % 8))
      ∧ ((s.domClk k.val).sw ≠ SwitchState.steady ∨ s.pwr.mode = 2 ∨ s.clk.faultNow.getLsbD (srcFault (k.val) (v.toNat % 4)) = true)) ∧
    (∃ (s : State) (k : Fin 4), ((s.domClk k.val).sw ≠ SwitchState.steady) ∧ (s.clkWaits k.val = false) ∧ (k ≠ 0)
      ∧ (s.clk.due = [])) ∧
    (∃ (s : State) (b : Fin 12), (b.val = 1 ∨ b.val = 11) ∧ (s.faultChecked b.val = true)) ∧
    (∃ (s : State) (m : Master) (k : Fin 4) (v : BitVec 8), (s.entryReady m 8192 (6 + k.val))
      ∧ (¬(v.toNat % 4 = 3 ∨ 6 < v.toNat / 4 % 8))
      ∧ (¬((s.domClk k.val).sw ≠ SwitchState.steady ∨ s.pwr.mode = 2 ∨ s.clk.faultNow.getLsbD (srcFault (k.val) (v.toNat % 4)) = true))
      ∧ (k ≠ 0 ∨ s.wavesRun = false)) ∧
    (∃ (s : State), (s.clk.crystal = false)) ∧
    (∃ (s : State) (b : Fin 12), (s.clk.faultNow.getLsbD b.val = true)) ∧
    (∃ (s : State), (s.clk.crystal = false) ∧ (s.clk.crystalLate = false) ∧ (s.boot.st = BootState.booting)
      ∧ (s.clk.due = [])) ∧
    (∃ (s : State) (b : Fin 12), (2 ≤ b.val) ∧ (b.val ≠ 11) ∧ ((s.pll (b.val - 2)).lost = true)
      ∧ ((s.pll (b.val - 2)).tries < 3) ∧ (s.clk.due = [])) ∧
    (∃ (s : State) (b : Fin 12), (2 ≤ b.val) ∧ (b.val ≠ 11) ∧ ((s.pll (b.val - 2)).lost = true)
      ∧ ((s.pll (b.val - 2)).tries < 3) ∧ (s.clk.due = []) ∧ ((s.pll (b.val - 2)).tries = 2) ∧ (b.val = 2)) ∧
    (∃ (s : State) (b : Fin 12), (2 ≤ b.val) ∧ (b.val ≠ 11) ∧ ((s.pll (b.val - 2)).lost = true)
      ∧ ((s.pll (b.val - 2)).tries < 3) ∧ (s.clk.due = []) ∧ ((s.pll (b.val - 2)).tries < 2)) ∧
    (∃ (s : State) (m : Master) (k : Fin 4) (v : BitVec 8), (s.entryReady m 8192 (6 + k.val))
      ∧ (¬(v.toNat % 4 = 3 ∨ 6 < v.toNat / 4 % 8))
      ∧ (¬((s.domClk k.val).sw ≠ SwitchState.steady ∨ s.pwr.mode = 2 ∨ s.clk.faultNow.getLsbD (srcFault (k.val) (v.toNat % 4)) = true))
      ∧ (k = 0) ∧ (s.wavesRun = true) ∧ (v.toNat % 4 ≠ (s.domClk k.val).src.toNat)) :=
  ⟨⟨runS, .host, 1, 3, by decide +kernel⟩,
   ⟨runS, 1, by decide +kernel⟩,
   ⟨runS, by decide +kernel⟩,
   ⟨runS, 0, by decide +kernel⟩,
   ⟨0, by decide +kernel⟩,
   ⟨runS, 0, by decide +kernel⟩,
   ⟨runS, .host, by decide +kernel⟩,
   ⟨domS 1 (fun d => { d with sw := .ramping, code := 3 }), .host, 1, 1, by decide +kernel⟩,
   ⟨domS 1 (fun d => { d with sw := .ramping, code := 3 }), 1, by decide +kernel⟩,
   ⟨domS 1 (fun d => { d with sw := .ramping, code := 3 }), 1, by decide +kernel⟩,
   ⟨runS, .host, 1, 1, by decide +kernel⟩,
   ⟨clkS (fun c => { c with crystal := false, faultNow := 1, faults := 3, onLantern := true }), by decide +kernel⟩,
   ⟨clkS (fun c => { c with crystal := false, faultNow := 1, faults := 3, onLantern := true }), 0, by decide +kernel⟩,
   ⟨(clkS (fun c => { c with crystal := false })).modBoot (fun b => { b with st := .booting }), by decide +kernel⟩,
   ⟨clkS (fun c => { c with plls := [(0, { locked := false, tries := 2, lost := true })], faultNow := 4 }), 2,
     by decide +kernel⟩,
   ⟨clkS (fun c => { c with plls := [(0, { locked := false, tries := 2, lost := true })], faultNow := 4 }), 2,
     by decide +kernel⟩,
   ⟨clkS (fun c => { c with plls := [(1, { locked := false, tries := 1, lost := true })], faultNow := 8 }), 3,
     by decide +kernel⟩,
   ⟨phS, .host, 0, 1, by decide +kernel⟩⟩

theorem witness_EnablesAndSupplies :
    (∃ (s : State) (m : Master) (v : BitVec 8), (s.entryReady m 8192 11) ∧ (5 < v.toNat % 8)) ∧
    (∃ (s : State) (m : Master) (w : BitVec 16), (s.entryReady m 8192 4) ∧ (2 ^ 11 ≤ w.toNat)) ∧
    (∃ (s : State) (b : Fin 11), (s.clk.enable.getLsbD b.val = true ∨ s.blockBusy b.val = true)) ∧
    (∃ (s : State) (m : Master) (v : BitVec 8), (s.entryReady m 8192 20) ∧ (v.toNat < 16)) ∧
    (∃ (s : State) (r : Fin 8), (s.pwr.warn.getLsbD r.val = false)) ∧
    (∃ (s : State) (m : Master), (s.entryReady m 8192 17)) ∧
    (∃ (s : State) (m : Master) (v : BitVec 8), (s.entryReady m 8192 11) ∧ (v.toNat % 8 ≤ 5)) ∧
    (∃ (s : State) (m : Master) (w : BitVec 16), (s.entryReady m 8192 4) ∧ (w.toNat < 2 ^ 11)) ∧
    (∃ (s : State) (b : Fin 11), (s.clk.running.getLsbD b.val = true) ∧ (s.clk.enable.getLsbD b.val = false)
      ∧ (s.blockBusy b.val = false)) ∧
    (∃ (s : State) (m : Master) (v : BitVec 8), (s.entryReady m 8192 20) ∧ (16 ≤ v.toNat)) ∧
    (∃ (s : State) (r : Fin 8), (s.pwr.warn.getLsbD r.val = true)) ∧
    (∃ (s : State) (r : Fin 8), (s.pwr.warn = 1#8 <<< r.val)) ∧
    (∃ (s : State) (r : Fin 8), (s.pwr.warn.getLsbD r.val = true) ∧ (s.pwr.warn ≠ 1#8 <<< r.val)) :=
  ⟨⟨runS, .host, 6, by decide +kernel⟩,
   ⟨runS, .host, 0x800, by decide +kernel⟩,
   ⟨runS, 0, by decide +kernel⟩,
   ⟨runS, .host, 6, by decide +kernel⟩,
   ⟨runS, 7, by decide +kernel⟩,
   ⟨runS, .host, by decide +kernel⟩,
   ⟨(clkS (fun c => { c with enable := 0 })).modPwr (fun p => { p with warn := 0x80, acts := 0x80 }), .host, 0x15,
     by decide +kernel⟩,
   ⟨(clkS (fun c => { c with enable := 0 })).modPwr (fun p => { p with warn := 0x80, acts := 0x80 }), .host, 0x7FF,
     by decide +kernel⟩,
   ⟨(clkS (fun c => { c with enable := 0 })).modPwr (fun p => { p with warn := 0x80, acts := 0x80 }), 10,
     by decide +kernel⟩,
   ⟨(clkS (fun c => { c with enable := 0 })).modPwr (fun p => { p with warn := 0x80, acts := 0x80 }), .host, 0x15,
     by decide +kernel⟩,
   ⟨(clkS (fun c => { c with enable := 0 })).modPwr (fun p => { p with warn := 0x80, acts := 0x80 }), 7,
     by decide +kernel⟩,
   ⟨(clkS (fun c => { c with enable := 0 })).modPwr (fun p => { p with warn := 0x80, acts := 0x80 }), 7,
     by decide +kernel⟩,
   ⟨(clkS (fun c => { c with enable := 0 })).modPwr (fun p => { p with warn := 0x81, acts := 0x81 }), 7,
     by decide +kernel⟩⟩

theorem witness_ModesAndUmbra :
    (∃ (s : State) (m : Master), (s.entryReady m 8192 1) ∧ (s.boot.stopped = false ∧ s.pwr.changing = false)
      ∧ (s.pwr.mode ≠ 4) ∧ (s.umbraBusy = true)) ∧
    (∃ (s : State), (s.pwr.changing = false)) ∧
    (∃ (s : State) (ns : Nat), (1000 ≤ ns) ∧ ((s.ent? 8192 21).testBit 0 = true) ∧ (s.pwr.entering = false)
      ∧ (s.pwr.mode ≠ 4)) ∧
    (∃ (s : State), (s.net.link = true)) ∧
    (∃ (s : State), (s.pwr.entering = false ∨ s.quiet = false)) ∧
    (∃ (s : State), (s.pwr.waking = false)) ∧
    (∃ (s : State) (m : Master), (s.entryReady m 8192 1) ∧ (s.boot.stopped = false ∧ s.pwr.changing = false)
      ∧ (s.pwr.mode ≠ 4) ∧ (s.umbraBusy = false)) ∧
    (∃ (s : State) (m : Master) (v : BitVec 8), (s.entryReady m 8192 1) ∧ (s.boot.stopped = false
      ∧ s.pwr.changing = false) ∧ (s.pwr.mode ≠ 4) ∧ (s.umbraBusy = false) ∧ (v = 4)) ∧
    (∃ (s : State) (m : Master), (s.pwr.changing = true) ∧ (s.pwr.modeWait = some m) ∧ (s.net.held = [])) ∧
    (∃ (s : State) (ns : Nat), (ns < 1000 ∨ (s.ent? 8192 21).testBit 0 = false)) ∧
    (∃ (s : State) (m : Master) (v : BitVec 8), (s.entryReady m 8192 1) ∧ (s.boot.stopped = false
      ∧ s.pwr.changing = false) ∧ (v.toNat ≠ s.pwr.mode) ∧ (4 < v.toNat)) ∧
    (∃ (s : State) (m : Master) (v : BitVec 8), (s.entryReady m 8192 1) ∧ (s.boot.stopped = false
      ∧ s.pwr.changing = false) ∧ (v.toNat < 4) ∧ (v.toNat ≠ s.pwr.mode) ∧ (s.pwr.mode ≠ 4)) ∧
    (∃ (s : State) (ns : Nat), (1000 ≤ ns) ∧ ((s.ent? 8192 21).testBit 0 = true) ∧ (s.pwr.entering = true)) ∧
    (∃ (s : State), (s.net.link = false) ∧ ((s.ent? 8192 21).testBit 1 = true) ∧ (s.pwr.entering = true)) ∧
    (∃ (s : State), (s.pwr.entering = true) ∧ (s.quiet = true) ∧ (s.pwr.wakeLatch = []) ∧ (s.net.held = [])) ∧
    (∃ (s : State) (m : Master) (v : BitVec 8), (s.entryReady m 8192 1) ∧ (s.boot.stopped = false
      ∧ s.pwr.changing = false) ∧ (s.pwr.mode = 4) ∧ (s.pwr.entering = false) ∧ (s.pwr.waking = false)
      ∧ (v.toNat < 4)) ∧
    (∃ (s : State) (ns : Nat), (1000 ≤ ns) ∧ ((s.ent? 8192 21).testBit 0 = true) ∧ (s.pwr.entering = false)
      ∧ (s.pwr.mode = 4) ∧ (s.pwr.waking = false)) ∧
    (∃ (s : State), (s.net.link = false) ∧ ((s.ent? 8192 21).testBit 1 = true) ∧ (s.pwr.entering = false)
      ∧ (s.pwr.mode = 4) ∧ (s.pwr.waking = false)) ∧
    (∃ (s : State), (s.pwr.waking = true) ∧ (s.dom 145 = DomState.off)) ∧
    (∃ (s : State), (s.pwr.waking = true) ∧ (s.dom 145 ≠ DomState.off) ∧ (s.net.held = [])) ∧
    (∃ (s : State) (m : Master), (s.entryReady m 8192 1) ∧ (¬(s.boot.stopped = false ∧ s.pwr.changing = false))) ∧
    (∃ (s : State) (g : List Nat), (g ∈ s.wakeGroups) ∧ (∀ (h : List Nat), h ∈ s.wakeGroups → ∀ (d : Nat),
      d ∈ h → s.dom d ≠ DomState.waking) ∧ (∃ d, d ∈ g ∧ s.dom d = DomState.off) ∧ (∀ (h : List Nat),
      h ∈ List.takeWhile (fun h => h != g) s.wakeGroups → ∀ (d : Nat), d ∈ h → s.dom d = DomState.on)) ∧
    (∃ (s : State) (ns : Nat), (s.dom ns = DomState.waking) ∧ (s.pwr.waking = true)) ∧
    (∃ (s : State) (m : Master) (v : BitVec 8), (s.entryReady m 8192 1) ∧ (s.boot.stopped = false
      ∧ s.pwr.changing = false) ∧ (v.toNat = s.pwr.mode)) ∧
    (∃ (s : State), (s.net.link = false) ∧ ((s.ent? 8192 21).testBit 1 = true) ∧ (s.pwr.entering = false)
      ∧ (s.pwr.mode ≠ 4)) :=
  ⟨⟨runS, .host, by decide +kernel⟩,
   ⟨runS, by decide +kernel⟩,
   ⟨runS, 1000, by decide +kernel⟩,
   ⟨runS, by decide +kernel⟩,
   ⟨runS, by decide +kernel⟩,
   ⟨runS, by decide +kernel⟩,
   ⟨srv, .host, by decide +kernel⟩,
   ⟨srv, .host, 4, by decide +kernel⟩,
   ⟨srv.modPwr (fun p => { p with changing := true, modeWait := some .host }), .host, by decide +kernel⟩,
   ⟨srv.modPwr (fun p => { p with changing := true, modeWait := some .host }), 999, by decide +kernel⟩,
   ⟨srv, .core 1, 5, by decide +kernel⟩,
   ⟨srv, .core 1, 3, by decide +kernel⟩,
   ⟨(srv.modPwr (fun p => { p with entering := true, noNew := true })).setEnt 0x2000 21 7 |>.modNet (fun n => { n with link := false }),
     1000, by decide +kernel⟩,
   ⟨(srv.modPwr (fun p => { p with entering := true, noNew := true })).setEnt 0x2000 21 7 |>.modNet (fun n => { n with link := false }),
     by decide +kernel⟩,
   ⟨(srv.modPwr (fun p => { p with entering := true, noNew := true })).setEnt 0x2000 21 7 |>.modNet (fun n => { n with link := false }),
     by decide +kernel⟩,
   ⟨(srv.modPwr (fun p => { p with mode := 4 })).setEnt 0x2000 21 7 |>.modNet (fun n => { n with link := false }),
     .core 1, 3, by decide +kernel⟩,
   ⟨(srv.modPwr (fun p => { p with mode := 4 })).setEnt 0x2000 21 7 |>.modNet (fun n => { n with link := false }),
     1000, by decide +kernel⟩,
   ⟨(srv.modPwr (fun p => { p with mode := 4 })).setEnt 0x2000 21 7 |>.modNet (fun n => { n with link := false }),
     by decide +kernel⟩,
   ⟨(srv.modPwr (fun p => { p with mode := 4, waking := true, dom := [] })).setEnt 0x2000 21 7 |>.modNet (fun n => { n with link := false }),
     by decide +kernel⟩,
   ⟨(srv.modPwr (fun p => { p with mode := 4, waking := true, wakeLatch := [(0, none), (2, some 3)], dom := p.dom.map (fun x => (x.1, .waking)) })).setEnt 0x2000 21 7 |>.modNet (fun n => { n with link := false }),
     by decide +kernel⟩,
   ⟨srv.modPwr (fun p => { p with changing := true }), .core 1, by decide +kernel⟩,
   ⟨wkS, wkS.wakeGroups.headD [], by decide +kernel⟩,
   ⟨(nextOf (exec .umbraWake wkS)), ((wkS.wakeGroups).headD []).headD 0, by decide +kernel⟩,
   ⟨srv.setEnt 0x2000 21 7 |>.modNet (fun n => { n with link := false }), .core 1, BitVec.ofNat 8 srv.pwr.mode,
     by decide +kernel⟩,
   ⟨srv.setEnt 0x2000 21 7 |>.modNet (fun n => { n with link := false }), by decide +kernel⟩⟩

/-! ### Start -/

namespace Start

def opW (st : PhaseStage) (h : Option Nat) : PhaseOp :=
  { id := 4, ctx := ctx 3, job := some { stream := 2, num := 3 }, opTag := 9, sync := 5, a8 := false, w8 := false, ps16 := false, shift := 0,
    lines := [{ mask := 1, banks := 1, dst := 0x4000, status := 0x5000 }],
    members := [{ bank := 0, slot := 5, first := 0, count := 1, line := 0, act := 0x3000 }],
    ready := 1000, stage := st, admitted := 1000, waves := [[0]], wave := 0, phase := 0, start := 1000, fin := 1264,
    phys := [], leftOut := [], gens := [], temps := [], setUse := [], digits := [], results := [], acc := [],
    mute := [], oldSets := [], dead := [], undo := none, loadLost := false, dip := false, again := false, released := false,
    hold := h, late := none, failed := false }

def mtask (h : Option Nat) : MatTask :=
  { id := 4, slot := 0, ctx := ctx 7, job := none, op := .accStore, bf16 := false, slices := 1, d := matDesc 0x4005,
    issued := 990, header := .unread, hdr := none, hdrAt := 0, got := [], extra := 0, pass := 0, expand := 0, fetch := 0, store := 0, start := 996, fin := 1000, writes := [(0x4000, [1, 2, 3, 4])],
    failed := false, hold := h }

theorem witness_ResetsKeepTheirState :
    (∃ (s : State), (s.pwr.inReset = true)) ∧
    (∃ (s : State), (s.pwr.inReset = true) ∧ (s.boot.present.cause = 0)) ∧
    (∃ (ns : Nat), (ns < 900)) ∧
    (∃ (s : State), (s.boot.restartAt = none)) ∧
    (∃ (s : State), (s.boot.fw ≠ FwState.verifying ∨ s.boot.staged = none ∨ s.mediaHeld = true)) ∧
    (∃ (s : State), (s.pwr.inReset = false)) ∧
    (∃ (ns : Nat), (1100 ≤ ns)) ∧
    (∃ (s : State) (m : Master) (v : BitVec 8), (s.entryReady m 32768 7) ∧ (v = 1) ∧ (s.boot.fw = FwState.idle)) ∧
    (∃ (ns : Nat), (900 ≤ ns) ∧ (ns < 1100)) ∧
    (∃ (s : State) (m : Master) (v : BitVec 8), (s.entryReady m 32768 7) ∧ (v ≠ 1)) ∧
    (∃ (s : State) (m : Master) (v : BitVec 8), (s.entryReady m 32768 7) ∧ (v = 1) ∧ (s.boot.fw ≠ FwState.idle)) ∧
    (∃ (s : State) (img : ImageInfo), (s.boot.staged = some img) ∧ (s.boot.st = BootState.recovery)
      ∧ (s.boot.fw = FwState.verifying) ∧ (s.mediaHeld = false) ∧ (s.verdict img false = 0)) ∧
    (∃ (s : State) (img : ImageInfo), (s.boot.staged = some img) ∧ (s.boot.st = BootState.recovery)
      ∧ (s.boot.fw = FwState.verifying) ∧ (s.mediaHeld = false) ∧ (s.verdict img false ≠ 0)) ∧
    (∃ (s : State) (k : Nat), (s.boot.restartAt = some k) ∧ (s.clk.due = [])) :=
  ⟨⟨State.reset, by decide +kernel⟩,
   ⟨State.reset, by decide +kernel⟩,
   ⟨899, by decide +kernel⟩,
   ⟨State.reset, by decide +kernel⟩,
   ⟨State.reset, by decide +kernel⟩,
   ⟨busyS, by decide +kernel⟩,
   ⟨1100, by decide +kernel⟩,
   ⟨busyS, .host, 1, by decide +kernel⟩,
   ⟨1099, by decide +kernel⟩,
   ⟨busyS.modBoot (fun b => { b with restartAt := some 900, st := .booting }), .core 0, 2, by decide +kernel⟩,
   ⟨busyS.modBoot (fun b => { b with st := .recovery, fw := .verifying, floor := 2, imageLost := true, staged := some (goodImg 3) }),
     .core 0, 1, by decide +kernel⟩,
   ⟨busyS.modBoot (fun b => { b with st := .recovery, fw := .verifying, floor := 2, imageLost := true, staged := some (goodImg 3) }),
     goodImg 3, by decide +kernel⟩,
   ⟨busyS.modBoot (fun b => { b with st := .recovery, fw := .verifying, floor := 2, imageLost := true, staged := some badImg }),
     badImg, by decide +kernel⟩,
   ⟨busyS.modBoot (fun b => { b with restartAt := some 900, st := .booting }), 900, by decide +kernel⟩⟩

theorem witness_BootSteps :
    (∃ (s : State) (found : Nat), (s.pwr.inReset = false ∧ s.boot.st = BootState.booting ∧ s.boot.waitReset = false
      ∧ s.boot.restartAt = none ∧ s.boot.step < 12 ∧ s.skipsStep s.boot.step = false
      ∧ s.boot.present.results.length = 12) ∧ (s.boot.step ≠ 1) ∧ (s.boot.step ≠ 3)
      ∧ (s.boot.step = 5 → bulkSupported found = true) ∧ (s.boot.step = 8 → s.casc.shade ≠ ShadeState.failed)) ∧
    (∃ (s : State), (s.pwr.inReset = false ∧ s.boot.st = BootState.booting ∧ s.boot.waitReset = false
      ∧ s.boot.restartAt = none ∧ s.boot.step < 12 ∧ s.skipsStep s.boot.step = false
      ∧ s.boot.present.results.length = 12) ∧ (s.boot.step = 1)
      ∧ ((hasAlternate s.boot.step && s.boot.alt.getLsbD s.boot.step) = false) ∧ (s.clk.crystal = false)) ∧
    (∃ (s : State), (s.pwr.inReset = false ∧ s.boot.st = BootState.booting ∧ s.boot.waitReset = false
      ∧ s.boot.restartAt = none ∧ s.boot.step < 12 ∧ s.skipsStep s.boot.step = false
      ∧ s.boot.present.results.length = 12) ∧ (s.boot.step = 2 ∨ s.boot.step = 4 ∨ s.boot.step = 6 ∨ s.boot.step = 10)
      ∧ (s.boot.present.streak.toNat < 3)) ∧
    (∃ (s : State), (s.pwr.inReset = false ∧ s.boot.st = BootState.booting ∧ s.boot.waitReset = false
      ∧ s.boot.restartAt = none ∧ s.boot.step < 12 ∧ s.skipsStep s.boot.step = false
      ∧ s.boot.present.results.length = 12) ∧ (s.boot.step = 2 ∨ s.boot.step = 4 ∨ s.boot.step = 6 ∨ s.boot.step = 10)
      ∧ (3 ≤ s.boot.present.streak.toNat)) ∧
    (∃ (s : State), (s.pwr.inReset = false ∧ s.boot.st = BootState.booting ∧ s.boot.waitReset = false
      ∧ s.boot.restartAt = none ∧ s.boot.step < 12 ∧ s.skipsStep s.boot.step = false
      ∧ s.boot.present.results.length = 12) ∧ (s.boot.step = 3) ∧ (s.imageGood = true)) ∧
    (∃ (s : State), (s.pwr.inReset = false ∧ s.boot.st = BootState.booting ∧ s.boot.waitReset = false
      ∧ s.boot.restartAt = none ∧ s.boot.step < 12 ∧ s.skipsStep s.boot.step = false
      ∧ s.boot.present.results.length = 12) ∧ (s.boot.step = 3) ∧ (s.imageGood = false)) ∧
    (∃ (s : State), (s.pwr.inReset = false ∧ s.boot.st = BootState.booting ∧ s.boot.waitReset = false
      ∧ s.boot.restartAt = none ∧ s.boot.step < 12 ∧ s.skipsStep s.boot.step = false
      ∧ s.boot.present.results.length = 12) ∧ (isOptional s.boot.step = true)
      ∧ (s.boot.step = 8 → s.casc.shade ≠ ShadeState.failed)) ∧
    (∃ (s : State), (s.boot.st ≠ BootState.booting)) ∧
    (∃ (s : State) (m : Master) (w : BitVec 16), (s.entryReady m 32768 6) ∧ (w.toNat < 2 ^ 12)) ∧
    (∃ (s : State) (m : Master) (x : Word), (s.entryReady m 32768 3) ∧ (∃ r, r ∈ s.boot.ring ∧ r.startNum = x)) ∧
    (∃ (s : State) (m : Master) (w : BitVec 16), (s.entryReady m 32768 6) ∧ (2 ^ 12 ≤ w.toNat)) ∧
    (∃ (s : State) (m : Master) (x : Word), (s.entryReady m 32768 3) ∧ (∀ (r : Ledger),
      r ∈ s.boot.ring → r.startNum ≠ x)) ∧
    (∃ (s : State) (found : Nat), (s.pwr.inReset = false ∧ s.boot.st = BootState.booting ∧ s.boot.waitReset = false
      ∧ s.boot.restartAt = none ∧ s.boot.step < 12 ∧ s.skipsStep s.boot.step = false
      ∧ s.boot.present.results.length = 12) ∧ (s.boot.step = 5) ∧ (bulkSupported found = false)) ∧
    (∃ (s : State), (s.pwr.inReset = false ∧ s.boot.st = BootState.booting ∧ s.boot.waitReset = false
      ∧ s.boot.restartAt = none ∧ s.boot.step < 12 ∧ s.skipsStep s.boot.step = false
      ∧ s.boot.present.results.length = 12) ∧ (s.boot.step = 1)
      ∧ ((hasAlternate s.boot.step && s.boot.alt.getLsbD s.boot.step) = true ∨ s.clk.crystal = true)) :=
  ⟨⟨startS 0 id, 16, by decide +kernel⟩,
   ⟨(startS 1 id).modClk (fun c => { c with crystal := false }), by decide +kernel⟩,
   ⟨startS 2 id, by decide +kernel⟩,
   ⟨startS 2 (fun b => { b with present := { b.present with streak := 3 } }), by decide +kernel⟩,
   ⟨startS 3 id, by decide +kernel⟩,
   ⟨startS 3 (fun b => { b with imageLost := true }), by decide +kernel⟩,
   ⟨startS 5 (fun b => { b with alt := 0xFFF }), by decide +kernel⟩,
   ⟨bootS (fun b => { b with ring := [{ emptyLedger with startNum := 4 }] }), by decide +kernel⟩,
   ⟨bootS (fun b => { b with ring := [{ emptyLedger with startNum := 4 }] }), .host, 0xFFF, by decide +kernel⟩,
   ⟨bootS (fun b => { b with ring := [{ emptyLedger with startNum := 4 }] }), .host, 4, by decide +kernel⟩,
   ⟨bootS (fun b => { b with ring := [{ emptyLedger with startNum := 4 }] }), .core 0, 0x1000, by decide +kernel⟩,
   ⟨bootS (fun b => { b with ring := [{ emptyLedger with startNum := 4 }] }), .core 0, 5, by decide +kernel⟩,
   ⟨startS 5 (fun b => { b with alt := 0xFFF }), 11, by decide +kernel⟩,
   ⟨startS 1 (fun b => { b with alt := 0xFFF }), by decide +kernel⟩⟩

theorem witness_FirmwareAndAttestation :
    (∃ (s : State) (m : Master) (v : DWord), (s.entryReady m 32768 16) ∧ (¬(BitVec.toNat v % 64 = 0
      ∧ s.inBufBulk (BitVec.toNat v) 512 = true
      ∧ s.inBufBulk (BitVec.toNat v) (s.imageSize (BitVec.toNat v)) = true))) ∧
    (∃ (s : State), (s.boot.fw ≠ FwState.verifying ∨ s.boot.staged = none)) ∧
    (∃ (s : State), (s.boot.fw ≠ FwState.handingOver)) ∧
    (∃ (s : State) (m : Master) (b : BitVec 8), (s.entryReady m 32768 19) ∧ (b = 1)
      ∧ (s.boot.fw ≠ FwState.confirming)) ∧
    (∃ (s : State), (s.boot.fw ≠ FwState.confirming)) ∧
    (∃ (s : State), (s.boot.fw ≠ FwState.committing ∨ s.mediaHeld = true)) ∧
    (∃ (s : State) (m : Master) (b : BitVec 8), (s.entryReady m 32768 33) ∧ (b = 1) ∧ (s.boot.attState ≠ 1)
      ∧ (s.boot.attState ≠ 3)) ∧
    (∃ (s : State), (s.boot.attState ≠ 1)) ∧
    (∃ (s : State) (m : Master) (v : DWord), (s.entryReady m 32768 16) ∧ (BitVec.toNat v % 64 = 0
      ∧ s.inBufBulk (BitVec.toNat v) 512 = true ∧ s.inBufBulk (BitVec.toNat v) (s.imageSize (BitVec.toNat v)) = true)
      ∧ (s.boot.fw = FwState.idle ∧ s.transition = false ∧ s.boot.st ≠ BootState.booting)) ∧
    (∃ (s : State) (m : Master) (b : BitVec 8), (s.entryReady m 32768 19) ∧ (b ≠ 1)) ∧
    (∃ (s : State) (m : Master) (b : BitVec 8), (s.entryReady m 32768 33) ∧ (b ≠ 1)) ∧
    (∃ (s : State) (m : Master) (v : DWord), (s.entryReady m 32768 16) ∧ (BitVec.toNat v % 64 = 0
      ∧ s.inBufBulk (BitVec.toNat v) 512 = true ∧ s.inBufBulk (BitVec.toNat v) (s.imageSize (BitVec.toNat v)) = true)
      ∧ (¬(s.boot.fw = FwState.idle ∧ s.transition = false ∧ s.boot.st ≠ BootState.booting))) ∧
    (∃ (s : State) (img : ImageInfo), (s.boot.staged = some img) ∧ (s.boot.fw = FwState.verifying)
      ∧ (s.boot.st = BootState.serving) ∧ (s.verdict img true = 0)) ∧
    (∃ (s : State) (img : ImageInfo), (s.boot.staged = some img) ∧ (s.boot.fw = FwState.verifying)
      ∧ (s.boot.st = BootState.serving) ∧ (s.verdict img true ≠ 0)) ∧
    (∃ (s : State) (m : Master) (b : BitVec 8), (s.entryReady m 32768 33) ∧ (b = 1)
      ∧ (s.boot.attState = 1 ∨ s.boot.attState = 3)) ∧
    (∃ (s : State), (s.boot.attState = 1) ∧ (s.boot.fw ≠ FwState.handingOver) ∧ (s.boot.attNonce.length = 32)) ∧
    (∃ (s : State), (s.boot.fw = FwState.handingOver) ∧ (s.net.held = []) ∧ (s.boot.fwCores < 3)) ∧
    (∃ (s : State), (s.boot.fw = FwState.handingOver) ∧ (s.net.held = [])) ∧
    (∃ (s : State), (s.boot.fw = FwState.handingOver) ∧ (s.net.held = []) ∧ (s.pwr.tripped = false)) ∧
    (∃ (s : State), (s.boot.fw = FwState.handingOver) ∧ (s.net.held = []) ∧ (3 ≤ s.boot.fwCores)) ∧
    (∃ (s : State) (m : Master) (b : BitVec 8), (s.entryReady m 32768 19) ∧ (b = 1)
      ∧ (s.boot.fw = FwState.confirming)) ∧
    (∃ (s : State), (s.boot.fw = FwState.confirming) ∧ (s.clk.due = [])) ∧
    (∃ (s : State) (i : ImageInfo), (s.boot.fw = FwState.committing) ∧ (s.mediaHeld = false)
      ∧ (s.boot.staged = some i)) :=
  ⟨⟨bootS id, .host, 0x1001, by decide +kernel⟩,
   ⟨bootS id, by decide +kernel⟩,
   ⟨bootS id, by decide +kernel⟩,
   ⟨bootS id, .host, 1, by decide +kernel⟩,
   ⟨bootS id, by decide +kernel⟩,
   ⟨bootS id, by decide +kernel⟩,
   ⟨bootS id, .host, 1, by decide +kernel⟩,
   ⟨bootS id, by decide +kernel⟩,
   ⟨bootS id, .host, 0x1000, by decide +kernel⟩,
   ⟨bootS id, .host, 2, by decide +kernel⟩,
   ⟨bootS id, .host, 2, by decide +kernel⟩,
   ⟨bootS (fun b => { b with fw := .verifying, st := .serving, running := goodImg 1, staged := some (goodImg 3) }),
     .host, 0x1000, by decide +kernel⟩,
   ⟨bootS (fun b => { b with fw := .verifying, st := .serving, running := goodImg 1, staged := some (goodImg 3) }),
     goodImg 3, by decide +kernel⟩,
   ⟨bootS (fun b => { b with fw := .verifying, st := .serving, running := goodImg 1, attState := 1, staged := some badImg }),
     badImg, by decide +kernel⟩,
   ⟨bootS (fun b => { b with fw := .verifying, st := .serving, running := goodImg 1, attState := 1, staged := some badImg }),
     .host, 1, by decide +kernel⟩,
   ⟨bootS (fun b => { b with fw := .verifying, st := .serving, running := goodImg 1, attState := 1, staged := some badImg }),
     by decide +kernel⟩,
   ⟨bootS (fun b => { b with fw := .handingOver, running := goodImg 1, fwCores := 2, staged := some (goodImg 5) }),
     by decide +kernel⟩,
   ⟨bootS (fun b => { b with fw := .handingOver, running := goodImg 1, fwCores := 2, staged := some (goodImg 5) }),
     by decide +kernel⟩,
   ⟨bootS (fun b => { b with fw := .handingOver, running := goodImg 1, fwCores := 2, staged := some (goodImg 5) }),
     by decide +kernel⟩,
   ⟨bootS (fun b => { b with fw := .handingOver, running := goodImg 1, fwCores := 3, staged := some (goodImg 5) }),
     by decide +kernel⟩,
   ⟨bootS (fun b => { b with fw := .confirming, fwSince := 400 }), .bundle, 1, by decide +kernel⟩,
   ⟨bootS (fun b => { b with fw := .confirming, fwSince := 400 }), by decide +kernel⟩,
   ⟨bootS (fun b => { b with fw := .committing, staged := some (goodImg 5), floor := 4, imageLost := true }),
     goodImg 5, by decide +kernel⟩⟩

theorem witness_ErrorsAndHolds :
    (∃ (s : State) (c : BitVec 8), (s.boot.stopped = false) ∧ (c ≠ 0) ∧ (c.toNat ≤ 5)) ∧
    (∃ (s : State) (m : Master) (v : BitVec 8), (s.entryReady m 24576 2) ∧ (v = 1)) ∧
    (∃ (s : State) (m : Master) (w : Word), (s.entryReady m 24576 1) ∧ (100 ≤ BitVec.toNat w)
      ∧ (BitVec.toNat w ≤ 10000000)) ∧
    (∃ (s : State) (m : Master) (w : Word), (s.entryReady m 24576 4) ∧ (w ≠ 0)) ∧
    (∃ (s : State), (s.clk.due = [])) ∧
    (∃ (s : State) (n : Nat), (s.getOp n = none)) ∧
    (∃ (s : State), (s.dma.run = none)) ∧
    (∃ (s : State), (s.seq.access = none)) ∧
    (∃ (s : State) (c : BitVec 8), (s.boot.stopped = true ∨ c = 0 ∨ 5 < c.toNat)) ∧
    (∃ (s : State) (m : Master) (w : Word), (s.entryReady m 24576 1)
      ∧ (BitVec.toNat w < 100 ∨ 10000000 < BitVec.toNat w)) ∧
    (∃ (s : State) (m : Master) (v : BitVec 8), (s.entryReady m 24576 2) ∧ (v ≠ 1)) ∧
    (∃ (s : State) (m : Master) (w : Word), (s.entryReady m 24576 4) ∧ (w = 0)) ∧
    (∃ (s : State) (n : Nat) (k : Nat) (o : PhaseOp), (s.clk.due = []) ∧ (s.getOp n = some o) ∧ (o.hold = some k)) ∧
    (∃ (s : State) (k : Nat) (r : DmaRun) (e : Desc), (s.clk.due = []) ∧ (s.dmaFront = some (r, e))
      ∧ (r.hold = some k)) ∧
    (∃ (s : State) (k : Nat) (a : ScalarAccess), (s.clk.due = []) ∧ (s.seq.access = some a) ∧ (a.hold = some k)) ∧
    (∃ (s : State) (tag : BitVec 16) (k : Nat) (r : Remote) (x : Master), (s.clk.due = [])
      ∧ (List.find? (fun y => decide (y.tag = tag)) s.casc.remote = some r) ∧ (r.hold = some k)
      ∧ (r.who = Requester.master x)) ∧
    (∃ (s : State) (n : Nat) (k : Nat) (x : MatTask), (s.clk.due = [])
      ∧ (List.find? (fun y => decide (y.id = n)) s.eng.mrun = some x) ∧ (x.hold = some k)) :=
  ⟨⟨runS, 5, by decide +kernel⟩,
   ⟨runS, .host, 1, by decide +kernel⟩,
   ⟨runS, .host, 100, by decide +kernel⟩,
   ⟨runS, .host, 100, by decide +kernel⟩,
   ⟨runS, by decide +kernel⟩,
   ⟨runS, 4, by decide +kernel⟩,
   ⟨runS, by decide +kernel⟩,
   ⟨runS, by decide +kernel⟩,
   ⟨bootS (fun b => { b with stopped := true }), 1, by decide +kernel⟩,
   ⟨bootS (fun b => { b with stopped := true }), .host, 99, by decide +kernel⟩,
   ⟨runS, .host, 0, by decide +kernel⟩,
   ⟨runS, .host, 0, by decide +kernel⟩,
   ⟨runS.modDisp (fun d => { d with ops := [opW .waiting (some 450)] }), 4, 450, opW .waiting (some 450),
     by decide +kernel⟩,
   ⟨dmaHeld, 450, { chan := 5, left := 2, hold := some 450, tag := none, data := none }, dsc0, by decide +kernel⟩,
   ⟨runS.modSeq (fun q => { q with access := some (acc1 (some 450)) }), 450, acc1 (some 450), by decide +kernel⟩,
   ⟨chain 0 (fun c => { c with remote := [{ rem (.master .host) false with hold := some 450 }] }), 9, 450,
     { rem (.master .host) false with hold := some 450 }, .host, by decide +kernel⟩,
   ⟨runS.modEng (fun e => { e with mrun := [mtask (some 450)] }), 4, 450, mtask (some 450), by decide +kernel⟩⟩

end Start

end Sys2Proof.Tests
end

/-! ## Proofs: counters and arrays after an update

What is read from a counter after an event was counted, and from an array after one array was changed. -/
section
namespace Sys2Proof.Machine

/-- The counter addressed is added to, every other counter is left. -/
theorem State.cnt?_addCnt (s : State) (i j n k l : Nat) :
    (s.addCnt i j n).cnt? k l = if ekey k l = ekey i j then min 0xFFFF (s.cnt? i j + n) else s.cnt? k l :=
  tget_tset _ _ _ _

/-- An event with a class is counted at its own entry, and once at the entry of its class (R559). -/
theorem State.count_of_class (s : State) (i j : Nat) {cls : Nat} (hcls : cls ≠ 0) :
    s.count i j cls = (s.addCnt i j 1).addCnt 0x6001 cls 1 := by
  simp [State.count, State.addClass, hcls]

theorem State.cnt?_count_event (s : State) (i j : Nat) {cls : Nat} (hcls : cls ≠ 0)
    (hkey : ekey i j ≠ ekey 0x6001 cls) :
    (s.count i j cls).cnt? i j = min 0xFFFF (s.cnt? i j + 1) := by
  simp [State.count_of_class s i j hcls, State.cnt?_addCnt _ 0x6001, hkey]

theorem State.cnt?_count_class (s : State) (i j : Nat) {cls : Nat} (hcls : cls ≠ 0)
    (hkey : ekey i j ≠ ekey 0x6001 cls) :
    (s.count i j cls).cnt? 0x6001 cls = min 0xFFFF (s.cnt? 0x6001 cls + 1) := by
  simp [State.count_of_class s i j hcls, State.cnt?_addCnt s i j, hkey.symm]

/-- No counter is an array's field: counting leaves every array. -/
@[simp] theorem State.array_count (s : State) (i j cls n : Nat) : (s.count i j cls).array n = s.array n := by
  simp [State.array]

@[simp] theorem State.array_modArray (s : State) (n k : Nat) (f : PhysArray → PhysArray) :
    (s.modArray n f).array k = if k = n then f (s.array n) else s.array k :=
  tget_tset _ _ _ _

@[simp] theorem State.cnt?_modArray (s : State) (n i j : Nat) (f : PhysArray → PhysArray) :
    (s.modArray n f).cnt? i j = s.cnt? i j := rfl
@[simp] theorem State.modArray_mem (s : State) (n : Nat) (f : PhysArray → PhysArray) :
    (s.modArray n f).mem = s.mem := rfl
@[simp] theorem State.modArray_sync (s : State) (n : Nat) (f : PhysArray → PhysArray) :
    (s.modArray n f).sync = s.sync := rfl
@[simp] theorem State.modArray_seq (s : State) (n : Nat) (f : PhysArray → PhysArray) :
    (s.modArray n f).seq = s.seq := rfl
@[simp] theorem State.modArray_disp (s : State) (n : Nat) (f : PhysArray → PhysArray) :
    (s.modArray n f).disp = s.disp := rfl
@[simp] theorem State.modArray_ent (s : State) (n : Nat) (f : PhysArray → PhysArray) :
    (s.modArray n f).ent = s.ent := rfl

end Sys2Proof.Machine
end

/-! ## Proofs: results and their tags (R72, R76)

RESULT_DISCARDED is one choice, between a result that the reducer accepts and one that it discards; a discarded result
is one count and one mark on its own array. -/
section
namespace Sys2Proof.Machine

/-- What a discarded result leaves in its array: a shade fenced for a reason of 1 or 2 has spoken since (R76). -/
def PhysArray.markSpoken (p : PhysArray) : PhysArray :=
  if p.st = .quarantined ∧ (p.qreason = 1 ∨ p.qreason = 2) then { p with qreason := 3 } else p

theorem PhysArray.markSpoken_qreason (p : PhysArray) :
    p.markSpoken.qreason = if p.st = .quarantined ∧ (p.qreason = 1 ∨ p.qreason = 2) then 3 else p.qreason :=
  apply_ite PhysArray.qreason _ _ _

/-- Both tags are the reducer's: the result is accepted, and there is nothing to discard. -/
theorem exec_resultDiscarded_of_accepted {s : State} {a : Nat} {e : BitVec 16} {g : BitVec 8}
    (he : e = (s.array a).redEpoch) (hg : (s.array a).tagsOpen.contains g = true) :
    exec (.resultDiscarded a e g) s = .next s :=
  congrArg Host.Outcome.next (if_pos ⟨he, hg⟩)

/-- One tag is not the reducer's: the result is counted as corrected, and its array is marked. -/
theorem exec_resultDiscarded_of_discarded {s : State} {a : Nat} {e : BitVec 16} {g : BitVec 8}
    (h : e ≠ (s.array a).redEpoch ∨ (s.array a).tagsOpen.contains g = false) :
    exec (.resultDiscarded a e g) s
      = .next ((s.count 0x6002 3 clsCorrected).modArray a PhysArray.markSpoken) := by
  have hnot : ¬ (e = (s.array a).redEpoch ∧ (s.array a).tagsOpen.contains g = true) := by
    rintro ⟨he, hg⟩
    rcases h with hne | hclosed
    · exact hne he
    · exact Bool.false_ne_true (hclosed.symm.trans hg)
  exact congrArg Host.Outcome.next (if_neg hnot)

/-- Settles O19: RESULT_DISCARDED's outcome for accepted and for other tags (R72, R76; that one differing tag is enough is
log 18), read with the laws of `count` and `modArray`. -/
theorem resultTagsAreChecked : Obligations.ResultTagsAreChecked := by
  intro s a e g
  refine ⟨exec_resultDiscarded_of_accepted, fun h => ⟨_, exec_resultDiscarded_of_discarded h, ?_⟩⟩
  have hcls : clsCorrected ≠ 0 := by decide
  have hkey : ekey 0x6002 3 ≠ ekey 0x6001 clsCorrected := by decide
  refine ⟨?event, ?ofClass, ?mark, ?others, ?frame⟩
  case event => simpa using s.cnt?_count_event 0x6002 3 hcls hkey
  case ofClass => simpa using s.cnt?_count_class 0x6002 3 hcls hkey
  case mark => simpa using (s.array a).markSpoken_qreason
  case others => intro b hb; simp [hb]
  case frame => simp

end Sys2Proof.Machine
end

/-! ## Proofs: exception records and stack faults (R136, R171 to R175)

The record that an exception writes, read back from the ring, and the halt that it owes. HALTED is set when EXC_POLICY
halts the cause and the sequencer has not halted already; a stack fault of a halted sequencer is the case between. -/
section
namespace Sys2Proof.Machine

@[simp] theorem length_leBytes (n v : Nat) : (leBytes n v).length = n := by
  induction n generalizing v with
  | zero => rfl
  | succ n ih => simp [leBytes, ih]

@[simp] theorem ExcRec.length_bytes (r : ExcRec) : r.bytes.length = 32 := length_leBytes 32 _

theorem getD_leBytes_succ (n k v : Nat) : (leBytes (n + 1) v).getD (k + 1) 0 = (leBytes n (v / 256)).getD k 0 := by
  rw [leBytes, List.getD_cons_succ]

/-- Bit 33 of a number is bit 1 of its fifth byte. -/
theorem getLsbD_fifth_leBytes (n v : Nat) :
    ((leBytes (n + 5) v).getD 4 0).getLsbD 1 = decide (v / 8589934592 % 2 = 1) := by
  rw [getD_leBytes_succ, getD_leBytes_succ, getD_leBytes_succ, getD_leBytes_succ, leBytes, List.getD_cons_zero,
    BitVec.getLsbD_ofNat, Nat.testBit_eq_decide_div_mod_eq]
  have hdiv : v / 256 / 256 / 256 / 256 / 2 = v / 8589934592 := by omega
  rw [show (2 : Nat) ^ 1 = 2 from rfl, hdiv, decide_eq_true (by decide : 1 < 8), Bool.true_and]

/-- The flag above 33 low bits is bit 33, whatever stands above it. -/
theorem bit33_flag (low high : Nat) (flag : Bool) (hlow : low < 8589934592) :
    decide ((low + b2n flag * 8589934592 + high * 17179869184) / 8589934592 % 2 = 1) = flag := by
  cases flag with
  | false =>
    have hbit : (low + b2n false * 8589934592 + high * 17179869184) / 8589934592 % 2 = 0 := by
      rw [show b2n false = 0 from rfl]; omega
    rw [hbit]; rfl
  | true =>
    have hbit : (low + b2n true * 8589934592 + high * 17179869184) / 8589934592 % 2 = 1 := by
      rw [show b2n true = 1 from rfl]; omega
    rw [hbit]; rfl

/-- The layout of a record around HALTED: 33 bits below it, and DETAIL and the rest above (R173). -/
theorem ExcRec.bytes_around_halted (r : ExcRec) : ∃ low high : Nat, low < 8589934592
    ∧ r.bytes = leBytes (27 + 5) (low + b2n r.halted * 8589934592 + high * 17179869184) := by
  have hbundle := r.bundle.isLt
  have hslot := r.slot.isLt
  have hcause := r.cause.isLt
  have htag := r.tag.isLt
  have htagv : b2n r.tagv < 2 := by cases r.tagv <;> decide
  refine ⟨r.bundle.toNat + r.slot.toNat * 65536 + r.cause.toNat * 1048576 + r.tag.toNat * 268435456
      + b2n r.tagv * 4294967296,
    r.detail.toNat * 2 ^ 14 + (r.cycle % 2 ^ 64) * 2 ^ 30 + r.opTag.toNat * 2 ^ 94 + (r.addr % 2 ^ 48) * 2 ^ 110,
    by omega, ?_⟩
  exact congrArg (leBytes 32) (by omega)

/-- HALTED is bit 33 of the record, bit 1 of its fifth byte (R173). -/
theorem ExcRec.bytes_halted (r : ExcRec) : (r.bytes.getD 4 0).getLsbD 1 = r.halted := by
  obtain ⟨low, high, hlow, hbytes⟩ := r.bytes_around_halted
  rw [hbytes, getLsbD_fifth_leBytes, bit33_flag low high r.halted hlow]

theorem ExcRec.halted_eq_of_bytes_eq {r q : ExcRec} (h : r.bytes = q.bytes) : r.halted = q.halted := by
  rw [← r.bytes_halted, ← q.bytes_halted, h]

/-- The only bytes that an exception changes are those of its record. -/
theorem State.raiseExc_mem (s : State) (r : ExcRec) :
    (s.raiseExc r).mem = Memory.puts s.mem (excBase + 32 * (s.seq.excHead.toNat % 256))
      ({ r with halted := r.halted || (s.policyHalts r.cause && s.seqActive) } : ExcRec).bytes := by
  unfold State.raiseExc; dsimp only; split <;> split <;> simp [State.writeExc]

/-- The record of an exception reads back from its place in the ring (R172). -/
theorem State.raiseExc_record (s : State) (r : ExcRec) :
    Memory.gets (s.raiseExc r).mem (excBase + 32 * (s.seq.excHead.toNat % 256)) 32
      = ({ r with halted := r.halted || (s.policyHalts r.cause && s.seqActive) } : ExcRec).bytes := by
  rw [State.raiseExc_mem]
  simpa using Memory.gets_puts s.mem (excBase + 32 * (s.seq.excHead.toNat % 256))
    ({ r with halted := r.halted || (s.policyHalts r.cause && s.seqActive) } : ExcRec).bytes

@[simp] theorem State.failJob_haltOwed (s : State) (j : Option JobRef) (cause : BitVec 8) :
    (s.failJob j cause).seq.haltOwed = s.seq.haltOwed := by
  unfold State.failJob; split <;> rfl

/-- An exception owes a halt where EXC_POLICY halts its cause and the sequencer has not halted (R175). -/
theorem State.raiseExc_haltOwed (s : State) (r : ExcRec) :
    (s.raiseExc r).seq.haltOwed
      = if s.policyHalts r.cause && s.seqActive then some .faultHalted else s.seq.haltOwed := by
  unfold State.raiseExc; dsimp only; split <;> split <;> simp [State.writeExc, *]

/-- A RET with no entry held is a STACK fault (R136). -/
theorem exec_ret_of_empty {s : State} (c : SlotCtx) (hstack : s.seq.stack = []) :
    exec (.ret c) s = .next (s.slotFault c causeStack 0).settleHalt := by
  have hop : opRet c s s = s.slotFault c causeStack 0 := by simp [opRet, hstack]
  exact congrArg (fun t : State => Host.Outcome.next t.settleHalt) hop

/-- While the sequencer has halted, the record of such a RET has HALTED = 0, whatever EXC_POLICY is. -/
theorem exec_ret_record_of_halted {s : State} (c : SlotCtx) (hstack : s.seq.stack = [])
    (howed : s.seq.haltOwed = none) (hhalted : s.seqActive = false) :
    ∃ t, exec (.ret c) s = .next t
      ∧ Memory.gets t.mem (excBase + 32 * (s.seq.excHead.toNat % 256)) 32 = (s.slotRec c causeStack 0).bytes := by
  have hnone : (s.slotFault c causeStack 0).seq.haltOwed = none := by
    simp [State.slotFault, State.raiseExc_haltOwed, hhalted, howed]
  refine ⟨_, (exec_ret_of_empty c hstack).trans (by rw [State.settleHalt_none hnone]), ?_⟩
  rw [State.slotFault, State.raiseExc_record, hhalted, Bool.and_false, Bool.or_false]

/-- The device after reset, its sequencer halted, once a master has set EXC_POLICY to 1. -/
def resetPolicy1 : State := State.reset.setEnt 0x4100 5 1

theorem resetPolicy1_policyHalts : resetPolicy1.policyHalts causeStack = true := by
  simp [resetPolicy1, State.policyHalts, causeStack, causeTrap, causeEcc, causeLockstep]

/-- Refutes O9: the record of a stack fault has HALTED set only while the sequencer has not halted (R175: "the sequencer
halts after the bundle"), and the statement has no such premise. After reset the sequencer is halted and the stack is
empty; with EXC_POLICY 1 a RET then writes a record with HALTED = 0, where the statement wants 1. -/
theorem not_callStackBounds : ¬ Obligations.CallStackBounds := by
  intro h
  obtain ⟨-, hret, -⟩ := h resetPolicy1 ⟨7, 0, 0, false, 0⟩ 0 rfl
  obtain ⟨t, ht, -, -, -, hclaimed, -⟩ := hret rfl
  obtain ⟨u, hu, hwritten⟩ := exec_ret_record_of_halted (s := resetPolicy1) ⟨7, 0, 0, false, 0⟩ rfl rfl rfl
  obtain rfl : t = u := Host.Outcome.next.inj (ht.symm.trans hu)
  have hflag : false = resetPolicy1.policyHalts causeStack :=
    ExcRec.halted_eq_of_bytes_eq (hwritten.symm.trans hclaimed)
  exact Bool.false_ne_true (hflag.trans resetPolicy1_policyHalts)

end Sys2Proof.Machine
end

/-! ## Proofs: trims of the deep tier (R387, R392)

What a write of an entry does once it is decided, what a released block and a rewritten extent leave of the map of extents,
and the three outcomes of DEEP_TRIM. -/
section
namespace Sys2Proof.Machine

/-- A write of an entry that is ready is decided at once (R459 to R465). -/
theorem entryWrite_of_ready {s : State} {m : Master} {i j : Nat} (h : s.entryReady m i j) (n v : Nat)
    (w : State → WriteRes) : entryWrite m i j n v w s = .next (answerWrite m (entryType i j) (w s)) := by
  obtain ⟨hanswers, humbra, hcore, hbehind, hopen⟩ := h
  simp [entryWrite, hanswers, humbra, hcore, hbehind, hopen]

/-- A write that is decided with a code of its own is answered with that code. -/
theorem entryWrite_of_decided {s t : State} {m : Master} {i j code : Nat} (h : s.entryReady m i j) (n v : Nat)
    {w : State → WriteRes} (hw : w s = (code, t)) (hcode : code ≠ abLater) :
    entryWrite m i j n v w s = .next (t.wrote m i j code) := by
  rw [entryWrite_of_ready h, hw]
  exact congrArg Host.Outcome.next (if_neg hcode)

/-- A rewritten extent reads as written, every other extent as before. -/
@[simp] theorem State.ext_setExt (s : State) (e j : Nat) (x : Extent) :
    (s.setExt e x).ext j = if j = e then x else s.ext j :=
  tget_tset _ _ _ _

/-- Releasing an extent's locations changes records of NAND blocks alone (R387). -/
theorem State.releaseBlock_eq (s : State) (x : Extent) :
    ∃ blks, s.releaseBlock x = s.modMedia (fun g => { g with nblk := blks }) := by
  refine List.foldlRecOn (motive := fun t => ∃ blks, t = s.modMedia (fun g => { g with nblk := blks })) _ _
    ⟨s.media.nblk, rfl⟩ ?_
  rintro t ⟨blks, rfl⟩ b -
  split
  case isTrue => exact ⟨blks, rfl⟩
  case isFalse => exact ⟨_, rfl⟩

@[simp] theorem State.ext_releaseBlock (s : State) (x : Extent) (e : Nat) : (s.releaseBlock x).ext e = s.ext e := by
  obtain ⟨blks, h⟩ := s.releaseBlock_eq x
  rw [h]; rfl

@[simp] theorem State.releaseBlock_mem (s : State) (x : Extent) : (s.releaseBlock x).mem = s.mem := by
  obtain ⟨blks, h⟩ := s.releaseBlock_eq x
  rw [h]; rfl

theorem State.releaseBlock_frame (s : State) (x : Extent) :
    s.releaseBlock x = { s with media := (s.releaseBlock x).media } := by
  obtain ⟨blks, h⟩ := s.releaseBlock_eq x
  rw [h]; rfl

/-- The state that an accepted trim leaves: the extent as it was before any write, its locations released, and the bytes
that it covers zero (R387, R392). -/
def State.trimmed (s : State) (e : Nat) : State :=
  let t := (s.setExt e (extDefault e)).releaseBlock (s.ext e)
  { t with mem := Memory.clear t.mem (deepBase + e * 0x400000) (deepBase + (e + 1) * 0x400000) }

theorem State.ext_trimmed (s : State) (e j : Nat) :
    (s.trimmed e).ext j = if j = e then extDefault e else s.ext j :=
  (State.ext_releaseBlock ..).trans (s.ext_setExt ..)

theorem State.trimmed_byte (s : State) (e x : Nat) :
    Memory.byte (s.trimmed e).mem x
      = if deepBase + e * 0x400000 ≤ x ∧ x < deepBase + e * 0x400000 + 0x400000 then 0 else Memory.byte s.mem x := by
  have hend : deepBase + (e + 1) * 0x400000 = deepBase + e * 0x400000 + 0x400000 := by omega
  simp only [State.trimmed, hend, Memory.byte_clear, State.releaseBlock_mem]
  rfl

theorem State.trimmed_frame (s : State) (e : Nat) :
    s.trimmed e = { s with mem := (s.trimmed e).mem, media := (s.trimmed e).media } := by
  unfold State.trimmed
  rw [State.releaseBlock_frame]
  rfl

theorem wDeepTrim_of_range {v : Nat} (s : State) (h : 262144 ≤ v) : wDeepTrim v s = (abRange, s) := if_pos h

theorem wDeepTrim_of_moving {v : Nat} {s : State} (hrange : v < 262144) (hmoving : s.extentMoving v = true) :
    wDeepTrim v s = (abBusy, s) :=
  (if_neg (Nat.not_le_of_lt hrange)).trans (if_pos hmoving)

theorem wDeepTrim_of_settled {v : Nat} {s : State} (hrange : v < 262144) (hsettled : s.extentMoving v = false) :
    wDeepTrim v s = (0, s.trimmed v) :=
  (if_neg (Nat.not_le_of_lt hrange)).trans (if_neg (ne_true_of_eq_false hsettled))

/-- A trim whose write is decided with a code is answered with it. -/
theorem exec_deepTrim_of_decided {s t : State} {m : Master} {v : Word} {code : Nat} (h : s.entryReady m 0x4600 6)
    (hw : wDeepTrim v.toNat s = (code, t)) (hcode : code ≠ abLater) :
    exec (.deepTrim m v) s = .next (t.wrote m 0x4600 6 code) :=
  entryWrite_of_decided h 4 v.toNat hw hcode

/-- Settles O42: DEEP_TRIM refuses a number out of range and an extent with a MOVING home, and any other extent it leaves as
`State.trimmed` (R392). -/
theorem deepTrim : Obligations.DeepTrim := by
  intro s m v hready
  refine ⟨fun hrange => ?range, fun hrange hmoving => ?busy, fun hrange hsettled => ?accepted⟩
  case range => exact exec_deepTrim_of_decided hready (wDeepTrim_of_range s hrange) (by decide)
  case busy => exact exec_deepTrim_of_decided hready (wDeepTrim_of_moving hrange hmoving) (by decide)
  case accepted =>
    have hext : (s.trimmed v.toNat).ext v.toNat = extDefault v.toNat := (s.ext_trimmed ..).trans (if_pos rfl)
    have hothers : ∀ j, j ≠ v.toNat → (s.trimmed v.toNat).ext j = s.ext j :=
      fun _ hj => (s.ext_trimmed ..).trans (if_neg hj)
    exact ⟨s.trimmed v.toNat,
      exec_deepTrim_of_decided hready (wDeepTrim_of_settled hrange hsettled) (by decide),
      hext, congrArg Extent.st hext, congrArg Extent.based hext, congrArg Extent.log hext, hothers,
      s.trimmed_byte v.toNat, s.trimmed_frame v.toNat⟩

end Sys2Proof.Machine
end
